-- ==== Sys2Proof/Word.lean ====
section
/-! DEFINITION. The word types of the BX-816 (00_scope.md, Conventions): 16-bit data words, bytes, 32-bit times
and sequences, 24-bit identities, and the one way a numbered record of a table is replaced. -/

namespace Sys2Proof

/-- One byte of the call memory or of a telegram. -/
abbrev Byte := BitVec 8

/-- The 16-bit data word. -/
abbrev Word := BitVec 16

/-- A value of the time base, in ticks of 10 ms (R1). -/
abbrev Time := BitVec 32

/-- A 32-bit arrival sequence or creation sequence (R94, R113). -/
abbrev Sequence := BitVec 32

/-- A post's 24-bit identity code. -/
abbrev Identity := BitVec 24

/-- The table `v` with its record `i` replaced by `x`. -/
def put {α : Type} {n : Nat} (v : Vector α n) (i : Fin n) (x : α) : Vector α n := v.set i.val x i.isLt

end Sys2Proof
end

