-- ==== Sys2Proof/Config.lean ====
section
/-! DEFINITION. What is fixed for the part: capacities, the anchor block's word numbers (12.2), the parameter
table (R10), the records that carry a check code (R186), and the free values, which the data book leaves open. -/

namespace Sys2Proof.Machine

/-- A record that carries a check code, as the details of a RECORD_CHECK name it: its kind and its index (R186). -/
inductive RecordName where
  | call (record : Fin 64)
  | position (position : Fin 16)
  | incident (record : Fin 16)
  | channel (entry : Fin 32)
  | post (post : Fin 256)
deriving DecidableEq, Repr, Inhabited

end Sys2Proof.Machine

namespace Sys2Proof.Config

/-- Greatest length of the write-back queue (R11). -/
def queueCapacity : Nat := 32

/-- Queue length from which the arbiter alternates (R13). -/
def alternationMark : Nat := 24

/-- Byte address of the anchor block (R5). -/
def anchorBase : Nat := 0xFFFF00

/-- Word number of the control word in the anchor block (12.2). -/
def controlWord : Fin 128 := 0
/-- Word number of the state word (12.2). -/
def stateWord : Fin 128 := 1
/-- Word number of the command producer index (12.2). -/
def commandProducer : Fin 128 := 14
/-- Word number of the command consumer index (12.2). -/
def commandConsumer : Fin 128 := 15
/-- Word number of the event producer index (12.2). -/
def eventProducer : Fin 128 := 16
/-- Word number of the event consumer index (12.2). -/
def eventConsumer : Fin 128 := 17
/-- Word number of the first segment configuration word (12.2). -/
def segmentConfig : Nat := 18
/-- Word number of the first parameter (12.2). -/
def firstParameter : Nat := 26
/-- Word number of the POST_SILENT mode (12.2). -/
def silentModeWord : Fin 128 := 34
/-- Word number of the first word of the restart area (12.2). -/
def restartArea : Nat := 120

/-- Words that the anchor read takes (R180). -/
def anchorWords : Nat := 128
/-- Words that a read of the directory window takes: 256 entries of 8 (R61). -/
def directoryWords : Nat := 2048

/-- Byte address of word `n` of the anchor block. -/
def anchorAddress (n : Nat) : Nat := anchorBase + 2 * n

/-- How a parameter is clamped (R10): a plain range, a range with the extra value 0 (off), or a mode code
below `count` with the code that replaces any other. -/
inductive ParameterRange where
  | range (lo hi : Nat)
  | offOr (lo hi : Nat)
  | mode (count fallback : Nat)
deriving DecidableEq, Repr

/-- The parameter table of R10 in the order of 12.2, words 26 to 51. -/
def parameterRanges : List ParameterRange :=
  [ .range 5 200, .range 3 31, .range 1 60, .range 100 2000, .range 10 2000, .range 2 15,
    .mode 4 2, .mode 4 2, .mode 3 0, .mode 3 1,
    .range 1 600, .range 10 3600, .range 0 15, .range 2 8, .range 10 600,
    .offOr 10 600, .range 1 64, .range 0 63, .offOr 20 600,
    .range 0 9999, .range 0 9999, .range 30 3600, .range 2 60, .range 1 7, .range 0 300, .range 10 120 ]

/-- Ticks that a restart time stays in the restart history: 600 s (R187). -/
def historySpan : Nat := 60000

/-- FREE VALUE (log entry 7). The record that a RECORD_CHECK names when a reservation finds no FREE channel on the segment
(R151): the rule raises it and does not say which record it names. -/
opaque reservationFault : Fin 8 → Machine.RecordName

/-- FREE VALUE (log entry 7). The record that a RECORD_CHECK names when a call of the segment that becomes ACTIVE holds no
channel (R152). -/
opaque inUseFault : Fin 8 → Machine.RecordName

/-- FREE VALUE (log entry 7). The record that a RECORD_CHECK names when a connect request of the position does not fit the
connection memory (R155). -/
opaque connectFault : Fin 16 → Machine.RecordName

/-- FREE VALUE (log entry 7). The record that a RECORD_CHECK names when a disconnect request names a position whose entry is
absent (R155). -/
opaque disconnectFault : Fin 16 → Machine.RecordName

end Sys2Proof.Config
end

