-- ==== Sys2Proof/Syntax.lean ====
section
/-! DEFINITION. The commands of the BX-816: one constructor of `Instr` for each row of the table of operations
and events, with the row's operands. Names are the data book's; an operand the host gives as a 16-bit argument
word stays a word, so that its range test (R18 test 3) is the machine's. -/

namespace Sys2Proof

/-- One of the two ends of a segment cable, and the post field of the same name. -/
inductive Side where
  | near
  | far
deriving DecidableEq, Repr

/-- A line side, or the segment end it drives: one end of one segment (R21, R46). -/
structure LineId where
  segment : Fin 8
  side : Side
deriving DecidableEq, Repr

/-- The byte enables of a host access: `hi` is the high byte of the word, at the lower byte address. -/
structure Enables where
  hi : Bool
  lo : Bool
deriving DecidableEq, Repr

/-- A writer of the write-back queue (R11). -/
inductive Writer where
  | report
  | taker
  | engine
deriving DecidableEq, Repr

/-- The commands. Addresses are 24-bit byte addresses of the word accessed. -/
inductive Instr where
  /-- PORN asserts (R193). -/
  | powerOnReset
  /-- The host's reset line asserts (R3). -/
  | hostResetLine
  /-- One 10 ms tick (R1). -/
  | timeBaseTick
  /-- A host read (R12). -/
  | hostRead (address : BitVec 24) (enables : Enables)
  /-- A host write (R2, R4). -/
  | hostWrite (address : BitVec 24) (data : Word) (enables : Enables)
  /-- RUN (0x0001) written to the control word (R178). -/
  | runWrite (enables : Enables)
  /-- Another value written to the control word (R178). -/
  | stopWrite (data : Word) (enables : Enables)
  /-- A parameter word written (R10). -/
  | parameterWrite (address : BitVec 24) (data : Word) (enables : Enables)
  /-- A write into the command ring (R16). -/
  | commandSlotWrite (address : BitVec 24) (data : Word) (enables : Enables)
  /-- A write of the command producer index (R17). -/
  | commandProducerWrite (data : Word) (enables : Enables)
  /-- A write of the event consumer index (R169). -/
  | eventConsumerWrite (data : Word) (enables : Enables)
  /-- A write into the directory window (R63). -/
  | directoryWrite (address : BitVec 24) (data : Word) (enables : Enables)
  /-- The head of the write-back queue is written; `first` is the waiting writer taken first (R11). -/
  | queueHeadWrite (first : Writer)
  /-- The window set is released (R7). -/
  | windowSetRelease
  /-- A start request is acted on (R180). -/
  | startUp
  /-- The anchor read ends (R6). -/
  | anchorReadDone
  /-- The start-up directory read ends (R181). -/
  | directoryReadDone
  /-- The command taker takes the head published slot (R18). -/
  | commandTake
  /-- ISOLATE_POST handed to the post table (R58). -/
  | isolatePost (segment drop : Word)
  /-- RESTORE_POST handed to the post table (R59). -/
  | restorePost (segment drop : Word)
  /-- TEST_POST handed to the post table (R60). -/
  | testPost (segment drop : Word)
  /-- CLEAR_SEGMENT handed to the fault supervisor (R87). -/
  | clearSegment (segment : Word)
  /-- INHIBIT_SEGMENT handed to the fault supervisor (R88). -/
  | inhibitSegment (segment : Word)
  /-- DROP_CALL handed to the call table (R110). -/
  | dropCall (call : Word)
  /-- CLOSE_INCIDENT handed to the cluster unit (R125). -/
  | closeIncident (incident : Word)
  /-- OPEN_POSITION handed to the dispatcher (R143). -/
  | openPosition (position : Word)
  /-- CLOSE_POSITION handed to the dispatcher (R144). -/
  | closePosition (position : Word)
  /-- ACCEPT handed to the dispatcher (R135). -/
  | accept (position call : Word)
  /-- DECLINE handed to the dispatcher (R137). -/
  | decline (position call : Word)
  /-- RELEASE handed to the dispatcher (R140). -/
  | release (position : Word)
  /-- READY handed to the dispatcher (R142). -/
  | ready (position : Word)
  /-- PICK handed to the dispatcher (R145). -/
  | pick (position call : Word)
  /-- CALLBACK handed to the dispatcher (R146). -/
  | callback (position segment drop : Word)
  /-- HOLD handed to the speech switch (R157). -/
  | hold (position : Word)
  /-- RETRIEVE handed to the speech switch (R158). -/
  | retrieve (position call : Word)
  /-- JOIN handed to the speech switch (R160). -/
  | join (position call : Word)
  /-- LEAVE handed to the speech switch (R161). -/
  | leave (position : Word)
  /-- The line side chooses its next exchange (R31). -/
  | chooseNextExchange (line : LineId)
  /-- The part's telegram has been transmitted (R24). -/
  | telegramSent (line : LineId)
  /-- The arbitration field of a window is read as `n` (R28). -/
  | arbitrationField (line : LineId) (n : BitVec 6)
  /-- A telegram of kind IDENT is received: its drop byte, payload and check (R43). -/
  | ident (line : LineId) (drop : Byte) (payload : List Byte) (check : Word)
  /-- A telegram of kind STATUS is received (R54). -/
  | status (line : LineId) (drop : Byte) (payload : List Byte) (check : Word)
  /-- A telegram of kind DONE is received (R39). -/
  | done (line : LineId) (drop : Byte) (payload : List Byte) (check : Word)
  /-- A telegram of kind REQUEST is received (R29). -/
  | request (line : LineId) (drop : Byte) (payload : List Byte) (check : Word)
  /-- A telegram that fails its check or is of the wrong kind is received (R24). -/
  | checkFailure (line : LineId) (bytes : List Byte)
  /-- A checked telegram of another drop is received (R26). -/
  | wrongResponder (line : LineId) (bytes : List Byte)
  /-- A telegram is received outside any reply time (R25). -/
  | strayTelegram (line : LineId) (bytes : List Byte)
  /-- The reply time runs out (R25). -/
  | replyTimeExpiry (line : LineId)
  /-- The over-current input of a segment end asserts (R46). -/
  | overCurrentAssert (line : LineId)
  /-- The over-current input of a segment end goes away (R46). -/
  | overCurrentClear (line : LineId)
  /-- The deglitch timer of a segment end expires (R46). -/
  | deglitchTimerExpiry (line : LineId)
  /-- The retry timer of a segment expires (R72). -/
  | retryTimerExpiry (segment : Fin 8)
  /-- The stable timer of a segment expires (R72). -/
  | stableTimerExpiry (segment : Fin 8)
  /-- The restore timer of a segment's break expires (R84). -/
  | restoreTimerExpiry (segment : Fin 8)
  /-- The re-announcement timer expires (R105). -/
  | reAnnouncementTimerExpiry
  /-- The window timer of an incident record expires (R123). -/
  | windowTimerExpiry (incident : Fin 16)
  /-- The offer timer of a position expires (R136). -/
  | offerTimerExpiry (position : Fin 16)
  /-- The wrap timer of a position expires (R141). -/
  | wrapTimerExpiry (position : Fin 16)
  /-- The ring timer of a position expires (R148). -/
  | ringTimerExpiry (position : Fin 16)
  /-- The report writer serves an entry (R166). -/
  | serveReportEntry
  /-- The drained write-back queue is empty (R15). -/
  | drainEnd
  /-- The restart area write ends (R191). -/
  | restartAreaWritten
  /-- The directory reload ends (R189). -/
  | restartReloadDone
deriving DecidableEq, Repr

end Sys2Proof
end

