-- ==== Sys2Proof/Machine/State.lean ====
section
/-! DEFINITION. The state of the BX-816 as plain data: every register, record, list, queue and timer the data
book gives its eleven blocks, the queue of waiting commands, and the state right after power-on reset.
Pins that the data book defines as a view of other state (ATTN, BYPASS, OVERFLOW, the feeds) are computed in
Machine/Flags.lean. The check code of a record is held as the one fact that matters, `corrupt`: the code does
not hold (R48, R90, R112, R128, R150; log entry 5). -/

namespace Sys2Proof.Machine

/-! ### Line sides and telegrams (02_post_lines_and_telegrams.md) -/

/-- State of a line side (R21). -/
inductive LineState where
  | off | sweeping | serving | finishing | halting
deriving DecidableEq, Repr

/-- Message ids of 12.1. -/
inductive MessageId where
  | wait | busyWait | stillWaiting | hold | useNextPost
deriving DecidableEq, Repr

/-- Request types of 12.1. -/
inductive RequestType where
  | emergency | assist | engineer
deriving DecidableEq, Repr

/-- A post's own state, as an IDENT carries it (2.2). -/
inductive OwnState where
  | idle | waiting | talking | ringing
deriving DecidableEq, Repr

/-- The hook state of a post. -/
inductive Hook where
  | on | off
deriving DecidableEq, Repr

/-- Self-test result (R54); `untested` is NONE. -/
inductive SelfTest where
  | untested | running | pass | fail
deriving DecidableEq, Repr

/-- Kinds of command a block pends to a post (2.6). A talk channel is held as its number less one. -/
inductive CommandKind where
  | connect (channel : Fin 4) | release | ring | play (message : MessageId) | test | invite
deriving DecidableEq, Repr

/-- A pending command with its optional call reference (2.6). -/
structure PendingCommand where
  kind : CommandKind
  call : Option Nat
deriving DecidableEq, Repr

/-- Telegrams the part sends (2.2). -/
inductive PartTelegram where
  | identify | poll | command (kind : CommandKind) | registered (message : MessageId) | deferred | barred
deriving DecidableEq, Repr

/-- A framed telegram: drop byte, kind byte, payload and check (R22, 12.7). -/
structure Frame where
  drop : Byte
  kind : Byte
  payload : List Byte
  check : Word
deriving DecidableEq, Repr

/-- Purpose of an exchange (2.3). A probe whose break has been removed is withdrawn: its outcome is discarded (R84). -/
inductive Purpose where
  | command (c : PendingCommand) | poll | sweep | probe (withdrawn : Bool) | window
deriving DecidableEq, Repr

/-- How far an exchange has gone: the part's telegram is being sent, the arbitration field is awaited, a reply is
awaited until the deadline, or the answer of a window is being sent. -/
inductive Phase where
  | sending | arbitrating | awaiting (deadline : Time) | answering
deriving DecidableEq, Repr

/-- The exchange in flight of a line side (2.1). Drops are held as the number less one. -/
structure Exchange where
  purpose : Purpose
  drop : Fin 32
  telegram : PartTelegram
  retry : Bool
  phase : Phase
deriving DecidableEq, Repr

/-- A line side (2.1). -/
structure LineSide where
  state : LineState
  exchange : Option Exchange
  service : List (Fin 32)
  sweepList : List (Fin 32)
  errors : Nat
  lastExchange : Vector (Option Time) 32
  /-- Restore probe asked for and not yet sent (R31). -/
  probe : Option (Fin 32)
  /-- The exchange that ended last was a telegram exchange (R31 step 1). -/
  afterTelegram : Bool
  /-- The exchange that ended last was a sweep exchange (R42). -/
  afterSweep : Bool
  /-- In HALTING for a restart, the outcome of the exchange is discarded (R21). -/
  discard : Bool
  /-- Drops that answered the FAR sweep under way (R44). -/
  answered : List (Fin 32)
  /-- Telegram last put on the line (R22). -/
  sent : Option Frame
deriving DecidableEq, Repr

/-- State of the line monitor for one segment end (R46). -/
inductive EndState where
  | clear | awaiting | short
deriving DecidableEq, Repr

/-- One segment end; `awaiting` is PENDING, `overCurrent` is the sense input. -/
structure LineEnd where
  state : EndState
  deglitch : Option Time
  overCurrent : Bool
deriving DecidableEq, Repr

/-! ### Posts and the directory (03_posts_and_the_directory.md) -/

/-- State of a post record (R49). -/
inductive PostState where
  | unknown | present | silent | unreachable | isolated
deriving DecidableEq, Repr

/-- Identity match of a post (R53). -/
inductive IdentityMatch where
  | unread | same | differs
deriving DecidableEq, Repr

/-- A post record (3.1). -/
structure Post where
  state : PostState
  side : Side
  hook : Hook
  identity : Option Identity
  identityMatch : IdentityMatch
  selfTest : SelfTest
  supplyLow : Bool
  doorOpen : Bool
  requestPending : Bool
  misses : Nat
  commands : List PendingCommand
  liveCall : Option Nat
  deferred : Bool
  barred : Nat
  testCancelled : Bool
  corrupt : Bool
deriving DecidableEq, Repr

/-- A directory shadow entry: 8 words and its validity (R61). -/
structure DirectoryEntry where
  words : Vector Word 8
  valid : Bool
deriving DecidableEq, Repr

/-- Post kind of a directory entry (3.6). -/
inductive PostKind where
  | roadside | tunnel | slip | area
deriving DecidableEq, Repr

/-- Carriageway (conventions, 00_scope.md). -/
inductive Carriageway where
  | a | b | x
deriving DecidableEq, Repr

/-- A present location snapshot (R64). -/
structure Snapshot where
  carriageway : Carriageway
  chainage : Nat
  kind : PostKind
  critical : Bool
  confirmed : Bool
deriving DecidableEq, Repr

/-! ### Segments (04_line_faults_isolation_and_loop_feed.md) -/

/-- State of a segment (R67). -/
inductive SegmentState where
  | unused | sweep | active | inhibited | latched
deriving DecidableEq, Repr

/-- State of a break record (4.5). -/
inductive BreakState where
  | cut | fed | restorePending
deriving DecidableEq, Repr

/-- A break record (4.5). -/
structure Break where
  state : BreakState
  firstRun : Fin 32
  nearLimit : Option (Fin 32)
  farLimit : Option (Fin 32)
  interval : Option (Nat × Nat)
  probeList : List (Fin 32)
  restoreTimer : Option Time
deriving DecidableEq, Repr

/-- A segment record. -/
structure Segment where
  state : SegmentState
  retryCount : Nat
  retryTimer : Option Time
  stableTimer : Option Time
  farFeed : Bool
  broken : Option Break
deriving DecidableEq, Repr

/-! ### Calls (05_calls_and_the_call_queue.md) -/

/-- Kind of a call record (5.1). -/
inductive CallKind where
  | incoming | callback
deriving DecidableEq, Repr

/-- State of a call record in use (R91). -/
inductive CallState where
  | reserved | queued | offered | connecting | active | held | retrieving | ringing | ended
deriving DecidableEq, Repr

/-- End causes (R100). -/
inductive EndCause where
  | clearedByOperator | callerHungUp | abandoned | noAnswer | postLost | lineFault | dropped | stopped
deriving DecidableEq, Repr

/-- A call record in use (5.1). -/
structure Call where
  number : Nat
  kind : CallKind
  requestType : Option RequestType
  post : Fin 256
  snapshot : Option Snapshot
  arrivalTime : Option Time
  arrivalSeq : Option Sequence
  incident : Option Nat
  state : CallState
  channel : Option (Fin 4)
  parties : List (Fin 16)
  holder : Option (Fin 16)
  declinedBy : List (Fin 16)
  answered : Bool
  reRegistered : Bool
  far : Bool
  endCause : Option EndCause
  corrupt : Bool
deriving DecidableEq, Repr

/-- Reason of a deferral (R106). -/
inductive DeferralReason where
  | tableFull | overflow
deriving DecidableEq, Repr

/-- A deferral list entry (R106). -/
structure Deferral where
  post : Fin 256
  reason : DeferralReason
deriving DecidableEq, Repr

/-- The call table and queue. A free record is `none`. -/
structure CallTable where
  records : Vector (Option Call) 64
  queue : List (Fin 64)
  deferrals : List Deferral
  overflow : Bool
  reannounce : Option Time
  nextNumber : Nat
  nextSequence : Sequence
deriving DecidableEq, Repr

/-! ### Incidents (06_incidents.md) -/

/-- State of an incident record in use (R112). -/
inductive IncidentState where
  | opened | quiet | closed
deriving DecidableEq, Repr

/-- Quiet causes (6.1). -/
inductive QuietCause where
  | expired | command | stopped
deriving DecidableEq, Repr

/-- Close causes (6.1). -/
inductive CloseCause where
  | lapsed | closedByCommand | stopped | mergedInto (survivor : Nat)
deriving DecidableEq, Repr

/-- The lead call of an incident (R121). -/
structure Lead where
  call : Nat
  sequence : Sequence
deriving DecidableEq, Repr

/-- A marker: whole kilometres and tenths (R65). -/
structure Marker where
  km : Nat
  tenth : Nat
deriving DecidableEq, Repr

/-- An incident record in use (6.1). -/
structure Incident where
  number : Nat
  state : IncidentState
  carriageway : Carriageway
  lo : Nat
  hi : Nat
  sum : Nat
  count : Nat
  live : Nat
  lastCall : Time
  lead : Option Lead
  leadAnswered : Bool
  creation : Sequence
  estimate : Nat
  marker : Marker
  windowTimer : Option Time
  quietCause : Option QuietCause
  closeCause : Option CloseCause
  corrupt : Bool
deriving DecidableEq, Repr

/-- The cluster unit. -/
structure ClusterUnit where
  records : Vector (Option Incident) 16
  nextNumber : Nat
  nextCreation : Sequence
deriving DecidableEq, Repr

/-! ### Positions and speech (07_operator_positions_and_dispatch.md, 08_talk_channels_and_the_speech_switch.md) -/

/-- State of a position (R129). -/
inductive PositionState where
  | closed | free | offered | dialling | active | wrapup
deriving DecidableEq, Repr

/-- Outcome of a last offer (7.1). -/
inductive OfferOutcome where
  | timedOut | withdrawn | callerGone | accepted
deriving DecidableEq, Repr

/-- The last offer of a position (7.1). -/
structure LastOffer where
  call : Nat
  outcome : OfferOutcome
deriving DecidableEq, Repr

/-- A position record (7.1). -/
structure Position where
  state : PositionState
  freeSince : Time
  misses : Nat
  current : Option Nat
  held : List Nat
  lastOffer : Option LastOffer
  offerTimer : Option Time
  ringTimer : Option Time
  wrapTimer : Option Time
  corrupt : Bool
deriving DecidableEq, Repr

/-- State of a channel-map entry (R150). -/
inductive ChannelState where
  | free | reserved | inUse
deriving DecidableEq, Repr

/-- A channel-map entry (R150). -/
structure Channel where
  state : ChannelState
  call : Option Nat
  corrupt : Bool
deriving DecidableEq, Repr

/-- A present connection-memory entry: one segment and one talk channel (R155). -/
structure Connection where
  segment : Fin 8
  channel : Fin 4
deriving DecidableEq, Repr

/-- The speech switch. `crosspoints` are the settings of the operator highway; `stuck` gives, for a crosspoint that
does not follow its setting, what it reads instead (hardware input, log entry 5). -/
structure SpeechSwitch where
  channels : Vector Channel 32
  connections : Vector (Option Connection) 16
  crosspoints : Vector (Option Connection) 16
  stuck : Vector (Option (Option Connection)) 16
deriving DecidableEq, Repr

/-! ### Reports (09_reports_and_the_live_board.md) -/

/-- An object of the report list (R163). -/
inductive Obj where
  | call (record : Fin 64) | post (index : Fin 256) | position (number : Fin 16) | incident (record : Fin 16)
  | segment (number : Fin 8) | engine
deriving DecidableEq, Repr

/-- A report list entry (R163). -/
structure ReportEntry where
  object : Obj
  board : Bool
  event : Bool
  fault : Bool
  coalesced : Nat
  time : Time
deriving DecidableEq, Repr

/-- Class A fault kinds (R172). -/
inductive FaultKind where
  | wrongIdentity | selfTestFail | supplyLow | postSilent | wrongResponder | telegramErrors | lineShort | lineBreak
  | trespass | producerInvalid | consumerInvalid
deriving DecidableEq, Repr

/-- A class A record held in a fault slot (R171). -/
structure FaultRecord where
  kind : FaultKind
  firstTime : Time
  lastKind : FaultKind
  lastObject : Nat
  lastDetail : BitVec 32
  lastTime : Time
  repeats : Nat
deriving DecidableEq, Repr

/-- What the report writer has still to do for the entry it serves (R166): queue a word, advance the held event
producer, decide the fault record (step 4), empty the slot, and end the serving (step 5). -/
inductive ReportStep where
  | word (address : Nat) (value : Word) | advanceProducer | faultGate (owner : Fin 9) | emptySlot (owner : Fin 9)
  | finish (object : Obj)
deriving DecidableEq, Repr

/-- The report writer. Slots 0 to 7 are the segments', slot 8 the engine's. -/
structure ReportWriter where
  list : List ReportEntry
  slots : Vector (Option FaultRecord) 9
  producer : Word
  consumer : Word
  steps : List ReportStep
  /-- Fault slots held from before the start-up whose records are still to be written, in list order: they are the first
  events of the new service (R181). -/
  startFaults : List (Fin 9)
deriving DecidableEq, Repr

/-! ### Memory path (01_the_memory_path.md) -/

/-- A window set in effect (R7): bases as byte addresses. -/
structure WindowSet where
  commandBase : Nat
  commandCount : Nat
  resultBase : Nat
  eventBase : Nat
  eventCount : Nat
  directoryBase : Nat
  boardBase : Nat
deriving DecidableEq, Repr

/-- A command ring slot: its shadow and its written-words set, one flag a byte (R16). -/
structure Slot where
  words : Vector Word 8
  written : Vector Bool 16
deriving DecidableEq, Repr

/-- An entry of the write-back queue (R11). -/
structure QueueEntry where
  address : Nat
  value : Word
deriving DecidableEq, Repr

/-- A host access. -/
inductive HostAccess where
  | read (address : BitVec 24) (enables : Enables)
  | write (address : BitVec 24) (data : Word) (enables : Enables)
deriving DecidableEq, Repr

/-- The reply to a host read; the host takes the bytes its enables select (R12). -/
structure ReadReply where
  address : BitVec 24
  enables : Enables
  data : Word
deriving DecidableEq, Repr

/-- The command taker (R18, R19): idle, or holding a slot whose result word, or whose consumer value, waits for the
write-back queue. -/
inductive Taker where
  | idle | result (slot : Fin 64) (word : Word) | consumer (slot : Fin 64)
deriving DecidableEq, Repr

/-- Result codes (12.1). -/
inductive ResultCode where
  | done | framing | unknown | badArg | notRunning | badState | busy | noChannel | late | gone | withdrawn | tableFull
deriving DecidableEq, Repr

/-- The memory path. -/
structure MemoryPath where
  anchor : Vector Word 128
  windows : Option WindowSet
  slots : Vector Slot 64
  heldProducer : Word
  heldConsumer : Word
  published : List (Fin 64)
  /-- Published slots that waited out a restart: they are answered NOT_RUNNING whatever the engine state when they are
  taken (R188, R190). -/
  refused : List (Fin 64)
  queue : List QueueEntry
  /-- Writes of engine control that wait for the queue (R11). -/
  engineWaiting : List QueueEntry
  taker : Taker
  /-- The next grant of the memory port is the part's (R13). -/
  partTurn : Bool
  /-- Words of the part read under way that the port has not granted yet (R13). -/
  readWords : Nat
  /-- Host accesses held back (R13, R15). -/
  heldAccesses : List HostAccess
  /-- The reply to the last host read served. -/
  reply : Option ReadReply
  /-- Pulses of the host's reset line forwarded to the memory side (R3). -/
  resetPulses : Nat
deriving DecidableEq, Repr

/-! ### Engine control (10_engine_states_part_faults_and_fail_over.md) -/

/-- Engine states (R177). -/
inductive EngineState where
  | standby | starting | run | stopping | restarting | failed
deriving DecidableEq, Repr

/-- Anchor-invalid reasons (R6). -/
inductive AnchorReason where
  | ok | commandCount | eventCount | alignment | overlap | segmentConfig
deriving DecidableEq, Repr

/-- The step of a start-up, a restart or a failure clear under way (R180, R188, R189, R192). -/
inductive EngineStep where
  | idle | anchorRead | directoryRead | draining | areaWriting | linesHalting | reloading
deriving DecidableEq, Repr

/-- Causes of class B faults (R186). -/
inductive FaultCause where
  | recordCheck | switchCheck
deriving DecidableEq, Repr

/-- A class B fault as it is handed to engine control (R186). -/
structure ClassB where
  cause : FaultCause
  first : Word
  second : Word
deriving DecidableEq, Repr

/-- Engine control. -/
structure Engine where
  state : EngineState
  startRequest : Bool
  history : List Time
  restartCount : Nat
  area : Vector Word 8
  reason : AnchorReason
  clamped : Bool
  step : EngineStep
  /-- The outcome of the restart under way is FAILED (R187, R190). -/
  outcomeFailed : Bool
  fault : ClassB
  faultTime : Time
  /-- Time of the engine's last change, as the live board shows it (R173). -/
  lastChange : Time
deriving DecidableEq, Repr

/-! ### The state -/

/-- The whole state of the part, the call memory behind it, and the queue of waiting commands. -/
structure State where
  time : Time
  mem : List Host.Cell
  path : MemoryPath
  lines : Vector LineSide 16
  ends : Vector LineEnd 16
  posts : Vector Post 256
  directory : Vector DirectoryEntry 256
  segments : Vector Segment 8
  calls : CallTable
  cluster : ClusterUnit
  positions : Vector Position 16
  speech : SpeechSwitch
  reports : ReportWriter
  engine : Engine
  /-- An event has made a position eligible or a call offerable: dispatch runs once the event's own effects have
  been applied (R132). False between events. -/
  dispatchDue : Bool
  /-- The result the owning block gave the command last handed to it (R18). -/
  commandResult : Option ResultCode
  /-- Commands waiting, first in, first out. -/
  pending : List Instr
deriving DecidableEq, Repr

/-- No command of the part stops the machine with a fault: class A and class B faults are state (log entry 8). -/
inductive Fault where
deriving DecidableEq, Repr

/-- Why a command would have no meaning. -/
inductive Refusal where
  /-- The command has no meaning yet; raised by no arm of `exec`. Safe. -/
  | notModelled (mnemonic : String)
deriving DecidableEq, Repr

/-! ### Values after power-on reset -/

/-- A line side after power-on reset (R45). -/
def LineSide.reset : LineSide :=
  { state := .off, exchange := none, service := [], sweepList := [], errors := 0,
    lastExchange := Vector.replicate 32 none, probe := none, afterTelegram := false, afterSweep := false,
    discard := false, answered := [], sent := none }

/-- A segment end after power-on reset (R47). -/
def LineEnd.reset : LineEnd := { state := .clear, deglitch := none, overCurrent := false }

/-- A post record after power-on reset (R66). -/
def Post.reset : Post :=
  { state := .unreachable, side := .near, hook := .on, identity := none, identityMatch := .unread,
    selfTest := .untested, supplyLow := false, doorOpen := false, requestPending := false, misses := 0,
    commands := [], liveCall := none, deferred := false, barred := 0, testCancelled := false, corrupt := false }

/-- A directory shadow entry after power-on reset (R61). -/
def DirectoryEntry.reset : DirectoryEntry := { words := Vector.replicate 8 0, valid := false }

/-- A segment after power-on reset (R89). -/
def Segment.reset : Segment :=
  { state := .unused, retryCount := 0, retryTimer := none, stableTimer := none, farFeed := false, broken := none }

/-- The call table after power-on reset (R111). -/
def CallTable.reset : CallTable :=
  { records := Vector.replicate 64 none, queue := [], deferrals := [], overflow := false, reannounce := none,
    nextNumber := 1, nextSequence := 0 }

/-- The cluster unit after power-on reset (R127). -/
def ClusterUnit.reset : ClusterUnit := { records := Vector.replicate 16 none, nextNumber := 1, nextCreation := 0 }

/-- A position after power-on reset (R149). -/
def Position.reset : Position :=
  { state := .closed, freeSince := 0, misses := 0, current := none, held := [], lastOffer := none,
    offerTimer := none, ringTimer := none, wrapTimer := none, corrupt := false }

/-- A FREE channel-map entry. -/
def Channel.freed : Channel := { state := .free, call := none, corrupt := false }

/-- The speech switch after power-on reset (R162). -/
def SpeechSwitch.reset : SpeechSwitch :=
  { channels := Vector.replicate 32 .freed, connections := Vector.replicate 16 none,
    crosspoints := Vector.replicate 16 none, stuck := Vector.replicate 16 none }

/-- The report writer after power-on reset (R176). -/
def ReportWriter.reset : ReportWriter :=
  { list := [], slots := Vector.replicate 9 none, producer := 0, consumer := 0, steps := [], startFaults := [] }

/-- A command ring slot after power-on reset. -/
def Slot.reset : Slot := { words := Vector.replicate 8 0, written := Vector.replicate 16 false }

/-- The memory path after power-on reset, with the state word that engine control then queues (R179, R193): all its
fields are 0 in STANDBY. -/
def MemoryPath.reset : MemoryPath :=
  { anchor := Vector.replicate 128 0, windows := none, slots := Vector.replicate 64 .reset, heldProducer := 0,
    heldConsumer := 0, published := [], refused := [],
    queue := [{ address := Config.anchorAddress Config.stateWord.val, value := 0 }],
    engineWaiting := [], taker := .idle, partTurn := false, readWords := 0, heldAccesses := [], reply := none, resetPulses := 0 }

/-- Engine control after power-on reset (R193). -/
def Engine.reset : Engine :=
  { state := .standby, startRequest := false, history := [], restartCount := 0, area := Vector.replicate 8 0,
    reason := .ok, clamped := false, step := .idle, outcomeFailed := false,
    fault := { cause := .recordCheck, first := 0, second := 0 }, faultTime := 0, lastChange := 0 }

/-- The machine right after power-on reset (R193), with nothing in memory and no command waiting. -/
def State.reset : State :=
  { time := 0, mem := [], path := .reset, lines := Vector.replicate 16 .reset, ends := Vector.replicate 16 .reset,
    posts := Vector.replicate 256 .reset, directory := Vector.replicate 256 .reset,
    segments := Vector.replicate 8 .reset, calls := .reset, cluster := .reset,
    positions := Vector.replicate 16 .reset, speech := .reset, reports := .reset, engine := .reset,
    dispatchDue := false, commandResult := none, pending := [] }

end Sys2Proof.Machine
end

