-- ==== Sys2Proof/Machine/Operands.lean ====
section
/-! DEFINITION. Operand forms: byte order, post and channel numbering, times, the check of a telegram and its
decoding (R22, R196), directory entries (R62, 12.3), command entries (R18, R195, 12.4), the anchor layout
(R6, 12.2), parameter clamping (R10), markers (R65) and the order of sequences (R96). -/

namespace Sys2Proof.Machine

/-! ### Bytes and numbering -/

/-- The high byte of a word, which lies at the lower byte address (12). -/
def highByte (w : Word) : Byte := w.extractLsb' 8 8

/-- The low byte of a word. -/
def lowByte (w : Word) : Byte := w.extractLsb' 0 8

/-- The word of two bytes. -/
def wordOf (hi lo : Byte) : Word := hi ++ lo

/-- The bytes of `new` that the enables select, merged into `old` (R4). -/
def mergeWord (en : Enables) (old new : Word) : Word :=
  wordOf (if en.hi then highByte new else highByte old) (if en.lo then lowByte new else lowByte old)

/-- Bit `n` of a word, as 0 or 1 shifted to its place in a word being built. -/
def flagBit (b : Bool) (n : Nat) : Nat := if b then 2 ^ n else 0

/-- Index of a post: segment × 32 + (drop − 1), with `drop` held as the number less one. -/
def postIndex (segment : Fin 8) (drop : Fin 32) : Fin 256 := ⟨segment.val * 32 + drop.val, by omega⟩

/-- Segment of a post index. -/
def postSegment (i : Fin 256) : Fin 8 := ⟨i.val / 32, by omega⟩

/-- Drop of a post index, as the number less one. -/
def postDrop (i : Fin 256) : Fin 32 := ⟨i.val % 32, by omega⟩

/-- Index of a channel-map entry: segment × 4 + (channel − 1). -/
def channelIndex (segment : Fin 8) (channel : Fin 4) : Fin 32 := ⟨segment.val * 4 + channel.val, by omega⟩

/-- Index of a line side or segment end. -/
def lineIndex (l : LineId) : Fin 16 := ⟨l.segment.val * 2 + (if l.side = .far then 1 else 0), by split <;> omega⟩

/-- The segment's slot among the fault slots. -/
def segmentSlot (segment : Fin 8) : Fin 9 := ⟨segment.val, by omega⟩

/-- The engine's fault slot. -/
def engineSlot : Fin 9 := 8

/-- The drop number, 0 for an absent drop (12.1). -/
def dropNumber : Option (Fin 32) → Nat
  | none => 0
  | some d => d.val + 1

/-! ### Times and sequences (R1, R96) -/

/-- Ticks of a millisecond value, rounded up (R1). -/
def ticksOfMs (ms : Nat) : Nat := (ms + 9) / 10

/-- Ticks of a second value (R1). -/
def ticksOfSeconds (seconds : Nat) : Nat := seconds * 100

/-- Ticks from `earlier` to `later`, modulo 2^32 (R1). -/
def elapsed (later earlier : Time) : Nat := (later - earlier).toNat

/-- The time base has reached the expiry time (R1; log entry 9). -/
def reached (now expiry : Time) : Bool := elapsed now expiry < 2 ^ 31

/-- An optional timer is running and its expiry time has been reached. -/
def timerDue (now : Time) : Option Time → Bool
  | none => false
  | some t => reached now t

/-- Sequence `a` is earlier than `b` (R96, R113). -/
def earlier (a b : Sequence) : Bool := 1 ≤ (b - a).toNat && (b - a).toNat < 2 ^ 31

/-! ### Telegrams (R22, R196, 12.7) -/

/-- One bit taken into the check register: generator x^16 + x^12 + x^5 + 1 (R22). -/
def crcBit (r : Word) (b : Bool) : Word := if r.msb != b then (r <<< 1) ^^^ 0x1021#16 else r <<< 1

/-- One byte taken into the check register, most significant bit first. -/
def crcByte (r : Word) (b : Byte) : Word := [7, 6, 5, 4, 3, 2, 1, 0].foldl (fun r i => crcBit r (b.getLsbD i)) r

/-- The check over a list of bytes: the register starts at all ones and is not inverted (R22). -/
def crc (bytes : List Byte) : Word := bytes.foldl crcByte 0xFFFF

/-- The check a telegram should carry: over its drop, kind and payload bytes. -/
def Frame.expectedCheck (f : Frame) : Word := crc (f.drop :: f.kind :: f.payload)

/-- The bytes of a telegram in order of transmission. -/
def Frame.bytes (f : Frame) : List Byte := f.drop :: f.kind :: (f.payload ++ [highByte f.check, lowByte f.check])

/-- A received byte sequence as a telegram; a sequence too short to hold a check is none. -/
def Frame.ofBytes (bytes : List Byte) : Option Frame :=
  match bytes with
  | drop :: kind :: rest =>
    match rest.reverse with
    | lo :: hi :: payload => some { drop, kind, payload := payload.reverse, check := wordOf hi lo }
    | _ => none
  | _ => none

/-- Message id codes (12.1). -/
def MessageId.code : MessageId → Byte
  | .wait => 1 | .busyWait => 2 | .stillWaiting => 3 | .hold => 4 | .useNextPost => 5

/-- Kind code of a part telegram (12.7). -/
def PartTelegram.kindCode : PartTelegram → Byte
  | .identify => 0x01 | .poll => 0x02
  | .command (.connect _) => 0x03 | .command .release => 0x04 | .command .ring => 0x05
  | .command (.play _) => 0x06 | .command .test => 0x07 | .command .invite => 0x08
  | .registered _ => 0x09 | .deferred => 0x0A | .barred => 0x0B

/-- Payload of a part telegram (12.7). -/
def PartTelegram.payload : PartTelegram → List Byte
  | .command (.connect c) => [BitVec.ofNat 8 (c.val + 1)]
  | .command (.play m) => [m.code]
  | .registered m => [m.code]
  | _ => []

/-- The telegram the part sends, with the check it computes (R22). -/
def PartTelegram.frame (t : PartTelegram) (drop : Fin 32) : Frame :=
  let f : Frame := { drop := BitVec.ofNat 8 (drop.val + 1), kind := t.kindCode, payload := t.payload, check := 0 }
  { f with check := f.expectedCheck }

/-- A telegram from a post, decoded. A DONE carries a request only in its off-hook 4-byte form (R196). -/
inductive PostTelegram where
  | ident (identity : Identity) (own : OwnState) (offHook : Bool)
  | status (hook : Hook) (requestPending : Bool) (selfTest : SelfTest) (supplyLow doorOpen : Bool)
  | done (hook : Hook) (request : Option (RequestType × Identity))
  | request (type : RequestType) (identity : Identity)
deriving DecidableEq, Repr

/-- Request type of code 1 to 3; 0 is none (12.1). -/
def RequestType.ofCode (n : Nat) : Option RequestType :=
  match n with
  | 1 => some .emergency | 2 => some .assist | 3 => some .engineer | _ => none

/-- Post's own state of its 2-bit code (12.1). -/
def OwnState.ofCode (n : Nat) : OwnState :=
  match n with
  | 0 => .idle | 1 => .waiting | 2 => .talking | _ => .ringing

/-- Self-test result of its 2-bit code (12.1). -/
def SelfTest.ofCode (n : Nat) : SelfTest :=
  match n with
  | 0 => .untested | 1 => .running | 2 => .pass | _ => .fail

/-- Hook of its bit: ON 0, OFF 1 (12.1). -/
def Hook.ofBit (b : Bool) : Hook := if b then .off else .on

/-- A 24-bit identity of three bytes, bits 23:16 first. -/
def identityOf (a b c : Byte) : Identity := a ++ b ++ c

/-- Bits 1:0 of a byte. -/
def lowTwo (b : Byte) : Nat := b.toNat % 4

/-- The kind and payload of a post telegram (12.7); none where R22 or R196 treats it as failing its check. A 4-byte DONE with
hook OFF and request type 0 does so whatever command it answers (log entry 55). -/
def decodePayload (kind : Byte) (payload : List Byte) : Option PostTelegram :=
  if kind = 0x41 then
    match payload with
    | [a, b, c, d] => some (.ident (identityOf a b c) (OwnState.ofCode (d.toNat / 64)) (d.getLsbD 0))
    | _ => none
  else if kind = 0x42 then
    match payload with
    | [a] => some (.status (Hook.ofBit (a.getLsbD 7)) (a.getLsbD 6) (SelfTest.ofCode (a.toNat / 16 % 4)) (a.getLsbD 3) (a.getLsbD 2))
    | _ => none
  else if kind = 0x43 then
    match payload with
    | [a] => some (.done (Hook.ofBit (a.getLsbD 7)) none)
    | [a, b, c, d] =>
      if a.getLsbD 7 then (RequestType.ofCode (lowTwo a)).map (fun t => .done .off (some (t, identityOf b c d)))
      else some (.done .on none)
    | _ => none
  else if kind = 0x44 then
    match payload with
    | [a, b, c, d] => (RequestType.ofCode (lowTwo a)).map (fun t => .request t (identityOf b c d))
    | _ => none
  else none

/-- The drop a byte names: 1 to 32 (R196). -/
def dropOf (b : Byte) : Option (Fin 32) :=
  if h : 1 ≤ b.toNat ∧ b.toNat ≤ 32 then some ⟨b.toNat - 1, by omega⟩ else none

/-- A received telegram after its check: its drop and content, or none where it is treated as failing its check
(R22, R196), but for the 1-byte off-hook DONE to an INVITE, which depends on the exchange. -/
def Frame.decode (f : Frame) : Option (Fin 32 × PostTelegram) :=
  if f.check = f.expectedCheck then
    match dropOf f.drop, decodePayload f.kind f.payload with
    | some d, some t => some (d, t)
    | _, _ => none
  else none

/-! ### Directory entries (R62, 12.3) -/

/-- The XOR of words 0 to 6 and 0x5A5A: what the check word should hold (R62). -/
def entryCheck (w : Vector Word 8) : Word :=
  w.get 0 ^^^ w.get 1 ^^^ w.get 2 ^^^ w.get 3 ^^^ w.get 4 ^^^ w.get 5 ^^^ w.get 6 ^^^ 0x5A5A#16

/-- Configured flag of an entry's words. -/
def entryConfigured (w : Vector Word 8) : Bool := (w.get 0).getLsbD 15

/-- Critical flag of an entry's words. -/
def entryCritical (w : Vector Word 8) : Bool := (w.get 0).getLsbD 14

/-- Post kind of an entry's words. -/
def entryKind (w : Vector Word 8) : PostKind :=
  match (w.get 0).toNat / 2 ^ 12 % 4 with
  | 0 => .roadside | 1 => .tunnel | 2 => .slip | _ => .area

/-- Carriageway of an entry's words; code 3 names none. -/
def entryCarriageway (w : Vector Word 8) : Option Carriageway :=
  match (w.get 0).toNat / 2 ^ 10 % 4 with
  | 0 => some .a | 1 => some .b | 2 => some .x | _ => none

/-- Chainage of an entry's words: words 2 and 3. -/
def entryChainage (w : Vector Word 8) : Nat := (w.get 2).toNat * 65536 + (w.get 3).toNat

/-- Expected identity of an entry's words. -/
def entryIdentity (w : Vector Word 8) : Identity := lowByte (w.get 4) ++ w.get 5

/-- Whether an entry is VALID: its check word and its field ranges (R62). -/
def entryValid (w : Vector Word 8) : Bool :=
  w.get 7 == entryCheck w && (entryCarriageway w).isSome
    && 1 ≤ (w.get 1).toNat && (w.get 1).toNat ≤ 999
    && entryChainage w ≤ 999999 && (w.get 6).toNat ≤ 999

/-! ### Command entries (R18, R195, 12.4) -/

/-- Segment argument in range 0 to 7. -/
def segmentArg (w : Word) : Option (Fin 8) := if h : w.toNat < 8 then some ⟨w.toNat, h⟩ else none

/-- Drop argument in range 1 to 32, as the number less one. -/
def dropArg (w : Word) : Option (Fin 32) :=
  if h : 1 ≤ w.toNat ∧ w.toNat ≤ 32 then some ⟨w.toNat - 1, by omega⟩ else none

/-- Position argument in range 0 to 15. -/
def positionArg (w : Word) : Option (Fin 16) := if h : w.toNat < 16 then some ⟨w.toNat, h⟩ else none

/-- Call number argument in range 1 to 65535. -/
def callArg (w : Word) : Option Nat := if 1 ≤ w.toNat then some w.toNat else none

/-- Incident number argument in range 1 to 255. -/
def incidentArg (w : Word) : Option Nat := if 1 ≤ w.toNat && w.toNat ≤ 255 then some w.toNat else none

/-- Post named by segment and drop arguments. -/
def postArg (segment drop : Word) : Option (Fin 256) :=
  match segmentArg segment, dropArg drop with
  | some g, some d => some (postIndex g d)
  | _, _ => none

/-- The command that bits 7:0 of word 0 name, with the argument words its row names (12.4, R195). -/
def commandOf (w : Vector Word 8) : Option Instr :=
  match (lowByte (w.get 0)).toNat with
  | 0x01 => some (.isolatePost (w.get 1) (w.get 2))
  | 0x02 => some (.restorePost (w.get 1) (w.get 2))
  | 0x03 => some (.testPost (w.get 1) (w.get 2))
  | 0x08 => some (.clearSegment (w.get 1))
  | 0x09 => some (.inhibitSegment (w.get 1))
  | 0x10 => some (.dropCall (w.get 1))
  | 0x18 => some (.closeIncident (w.get 1))
  | 0x20 => some (.openPosition (w.get 1))
  | 0x21 => some (.closePosition (w.get 1))
  | 0x22 => some (.accept (w.get 1) (w.get 2))
  | 0x23 => some (.decline (w.get 1) (w.get 2))
  | 0x24 => some (.release (w.get 1))
  | 0x25 => some (.ready (w.get 1))
  | 0x26 => some (.pick (w.get 1) (w.get 2))
  | 0x27 => some (.callback (w.get 1) (w.get 2) (w.get 3))
  | 0x30 => some (.hold (w.get 1))
  | 0x31 => some (.retrieve (w.get 1) (w.get 2))
  | 0x32 => some (.join (w.get 1) (w.get 2))
  | 0x33 => some (.leave (w.get 1))
  | _ => none

/-- Test 1 of the command taker: every byte written, and word 7 the complement of word 0 (R18). -/
def Slot.framed (sl : Slot) : Bool := sl.written.toList.all id && sl.words.get 7 == ~~~(sl.words.get 0)

/-- Result codes (12.1). -/
def ResultCode.code : ResultCode → Byte
  | .done => 1 | .framing => 2 | .unknown => 3 | .badArg => 4 | .notRunning => 5 | .badState => 6 | .busy => 7
  | .noChannel => 8 | .late => 9 | .gone => 10 | .withdrawn => 11 | .tableFull => 12

/-! ### The anchor layout (R6, R195, 12.2) -/

/-- A base of two anchor words: bits 7:0 of the high word and the low word. -/
def anchorBaseAt (a : Vector Word 128) (n : Fin 128) (m : Fin 128) : Nat :=
  (lowByte (a.get n)).toNat * 65536 + (a.get m).toNat

/-- The window set that the anchor describes (12.2). -/
def layoutOf (a : Vector Word 128) : WindowSet :=
  { commandBase := anchorBaseAt a 2 3, commandCount := (a.get 4).toNat, resultBase := anchorBaseAt a 5 6,
    eventBase := anchorBaseAt a 7 8, eventCount := (a.get 9).toNat, directoryBase := anchorBaseAt a 10 11,
    boardBase := anchorBaseAt a 12 13 }

/-- The five windows of a layout as (base, size in bytes) (R6). -/
def WindowSet.windows (w : WindowSet) : List (Nat × Nat) :=
  [(w.commandBase, w.commandCount * 16), (w.resultBase, w.commandCount * 2), (w.eventBase, w.eventCount * 16),
   (w.directoryBase, 4096), (w.boardBase, 1024)]

/-- Two windows share no byte. -/
def disjointWindows (a b : Nat × Nat) : Bool := a.1 + a.2 ≤ b.1 || b.1 + b.2 ≤ a.1

/-- No two windows of a list share a byte. -/
def allDisjoint : List (Nat × Nat) → Bool
  | [] => true
  | a :: rest => rest.all (disjointWindows a) && allDisjoint rest

/-- Segment configuration word of a segment. -/
def configWord (a : Vector Word 128) (g : Fin 8) : Word := a.get ⟨Config.segmentConfig + g.val, by simp [Config.segmentConfig]; omega⟩

/-- Used flag of a segment (12.2). -/
def segmentUsed (a : Vector Word 128) (g : Fin 8) : Bool := (configWord a g).getLsbD 15

/-- Looped flag of a segment (12.2). -/
def segmentLooped (a : Vector Word 128) (g : Fin 8) : Bool := (configWord a g).getLsbD 14

/-- Configured drop count of a segment (12.2). -/
def configuredCount (a : Vector Word 128) (g : Fin 8) : Nat := (configWord a g).toNat % 64

/-- The checks of R6 in their order: the first that fails gives the reason. -/
def validateAnchor (a : Vector Word 128) : AnchorReason :=
  let w := layoutOf a
  if ¬ (w.commandCount ∈ [8, 16, 32, 64]) then .commandCount
  else if ¬ (w.eventCount ∈ [16, 32, 64, 128, 256, 512, 1024]) then .eventCount
  else if ¬ (w.windows.all (fun p => p.1 % p.2 == 0)) then .alignment
  else if ¬ (allDisjoint ((Config.anchorBase, 256) :: w.windows)) then .overlap
  else if ¬ ((List.finRange 8).all (fun g => !segmentUsed a g || (1 ≤ configuredCount a g && configuredCount a g ≤ 32))) then
    .segmentConfig
  else .ok

/-! ### Parameters (R10) -/

/-- A value clamped to a parameter's range (R10). -/
def clampTo (r : Config.ParameterRange) (v : Nat) : Nat :=
  match r with
  | .range lo hi => if v < lo then lo else if hi < v then hi else v
  | .offOr lo hi => if v = 0 then 0 else if v < lo then lo else if hi < v then hi else v
  | .mode count fallback => if v < count then v else fallback

/-- Anchor word `n`, clamped if it is a parameter (R10). -/
def clampParameter (n : Nat) (v : Word) : Word :=
  match Config.parameterRanges[n - Config.firstParameter]? with
  | some r => if Config.firstParameter ≤ n then BitVec.ofNat 16 (clampTo r v.toNat) else v
  | none => v

/-- Whether anchor word `n` is a parameter (12.2). -/
def isParameter (n : Nat) : Bool := 26 ≤ n && n ≤ 51

/-! ### Markers (R65) -/

/-- The marker of a chainage (R65). -/
def markerOf (c : Nat) : Marker :=
  let km := c / 1000
  let tenth := (c % 1000 + 50) / 100
  let m : Marker := if tenth = 10 then { km := km + 1, tenth := 0 } else { km, tenth }
  if m.km = 1000 then { km := 999, tenth := 9 } else m

end Sys2Proof.Machine
end

