-- ==== Sys2Proof/Machine/Flags.lean ====
section
/-! DEFINITION. Flags, pins and views computed from the state: parameters as they stand (R10), output pins
(R104, R175, R177), the state word (R179), feeds (R46), ownership of words (R8), configured and polled drops
(R33, R42), eligible positions and offerable calls (R130, R131), and the pauses of the writers (R15, R165). -/

namespace Sys2Proof.Machine

/-! ### Parameters as they stand -/

/-- Response modes of LINE_SHORT and TELEGRAM_ERRORS (R70, R71). -/
inductive SegmentMode where
  | latch | retry | report | off
deriving DecidableEq, Repr

/-- Response modes of POST_SILENT (R74). -/
inductive SilentMode where
  | probe | isolate | off
deriving DecidableEq, Repr

/-- Response modes of BREAK (R80, R81). -/
inductive BreakMode where
  | feed | report | off
deriving DecidableEq, Repr

/-- Anchor shadow word `n`. -/
def State.anchorWord (s : State) (n : Fin 128) : Word := s.path.anchor.get n

/-- Parameter word `n` of the anchor shadow, as a number. -/
def State.parameter (s : State) (n : Fin 128) : Nat := (s.anchorWord n).toNat

/-- Mode of its code (12.2); a code that names none is REPORT (R10). -/
def SegmentMode.ofCode (n : Nat) : SegmentMode :=
  match n with
  | 0 => .latch | 1 => .retry | 3 => .off | _ => .report

/-- Mode of its code (12.2); a code that names none is PROBE (R10). -/
def SilentMode.ofCode (n : Nat) : SilentMode :=
  match n with
  | 1 => .isolate | 2 => .off | _ => .probe

/-- Mode of its code (12.2); a code that names none is REPORT (R10). -/
def BreakMode.ofCode (n : Nat) : BreakMode :=
  match n with
  | 0 => .feed | 2 => .off | _ => .report

/-- Reply time in ticks. -/
def State.replyTicks (s : State) : Nat := ticksOfMs (s.parameter 26)
/-- Telegram error limit. -/
def State.errorLimit (s : State) : Nat := s.parameter 27
/-- Idle poll period in ticks. -/
def State.idlePollTicks (s : State) : Nat := ticksOfSeconds (s.parameter 28)
/-- Active poll period in ticks. -/
def State.activePollTicks (s : State) : Nat := ticksOfMs (s.parameter 29)
/-- Short deglitch time in ticks. -/
def State.deglitchTicks (s : State) : Nat := ticksOfMs (s.parameter 30)
/-- Post miss limit. -/
def State.postMissLimit (s : State) : Nat := s.parameter 31
/-- LINE_SHORT mode. -/
def State.shortMode (s : State) : SegmentMode := .ofCode (s.parameter 32)
/-- TELEGRAM_ERRORS mode. -/
def State.errorsMode (s : State) : SegmentMode := .ofCode (s.parameter 33)
/-- POST_SILENT mode. -/
def State.silentMode (s : State) : SilentMode := .ofCode (s.parameter 34)
/-- BREAK mode. -/
def State.breakMode (s : State) : BreakMode := .ofCode (s.parameter 35)
/-- Retry time in ticks. -/
def State.retryTicks (s : State) : Nat := ticksOfSeconds (s.parameter 36)
/-- Stable time in ticks. -/
def State.stableTicks (s : State) : Nat := ticksOfSeconds (s.parameter 37)
/-- Retry limit; 0 is unlimited. -/
def State.retryLimit (s : State) : Nat := s.parameter 38
/-- Break span in drops. -/
def State.breakSpan (s : State) : Nat := s.parameter 39
/-- Restore check period in ticks. -/
def State.restoreTicks (s : State) : Nat := ticksOfSeconds (s.parameter 40)
/-- Promote interval in ticks; 0 is off. -/
def State.promoteTicks (s : State) : Nat := ticksOfSeconds (s.parameter 41)
/-- Overflow high mark. -/
def State.highMark (s : State) : Nat := s.parameter 42
/-- Overflow low mark as it is used: below the high mark (R104). -/
def State.lowMark (s : State) : Nat := if s.highMark ≤ s.parameter 43 then s.highMark - 1 else s.parameter 43
/-- Re-announce interval in ticks; 0 is off. -/
def State.reannounceTicks (s : State) : Nat := ticksOfSeconds (s.parameter 44)
/-- Upstream reach in metres. -/
def State.upstreamReach (s : State) : Nat := s.parameter 45
/-- Downstream reach in metres. -/
def State.downstreamReach (s : State) : Nat := s.parameter 46
/-- Incident window in ticks. -/
def State.incidentTicks (s : State) : Nat := ticksOfSeconds (s.parameter 47)
/-- Offer time in ticks. -/
def State.offerTicks (s : State) : Nat := ticksOfSeconds (s.parameter 48)
/-- Position miss limit. -/
def State.positionMissLimit (s : State) : Nat := s.parameter 49
/-- Wrap time in ticks. -/
def State.wrapTicks (s : State) : Nat := ticksOfSeconds (s.parameter 50)
/-- Ring time in ticks. -/
def State.ringTicks (s : State) : Nat := ticksOfSeconds (s.parameter 51)

/-- The expiry time of a timer started now. -/
def State.after (s : State) (ticks : Nat) : Time := s.time + BitVec.ofNat 32 ticks

/-- The control word reads RUN (R178, R195). -/
def State.controlRun (s : State) : Bool := s.anchorWord Config.controlWord == 1

/-! ### Records by their index -/

/-- A line side or its record. -/
def State.line (s : State) (l : LineId) : LineSide := s.lines.get (lineIndex l)

/-- A segment end. -/
def State.segmentEnd (s : State) (l : LineId) : LineEnd := s.ends.get (lineIndex l)

/-- A post record. -/
def State.post (s : State) (i : Fin 256) : Post := s.posts.get i

/-- A segment record. -/
def State.segment (s : State) (g : Fin 8) : Segment := s.segments.get g

/-- A position record. -/
def State.position (s : State) (p : Fin 16) : Position := s.positions.get p

/-- A call record; none is free. -/
def State.call (s : State) (r : Fin 64) : Option Call := s.calls.records.get r

/-- An incident record; none is free. -/
def State.incident (s : State) (k : Fin 16) : Option Incident := s.cluster.records.get k

/-- A channel-map entry. -/
def State.channel (s : State) (c : Fin 32) : Channel := s.speech.channels.get c

/-- The record in use that holds a call number. -/
def State.callNumbered (s : State) (n : Nat) : Option (Fin 64) :=
  (List.finRange 64).find? (fun r => match s.call r with | some c => c.number == n | none => false)

/-- The incident record in use that holds an incident number. -/
def State.incidentNumbered (s : State) (n : Nat) : Option (Fin 16) :=
  (List.finRange 16).find? (fun k => match s.incident k with | some c => c.number == n | none => false)

/-- The free call record with the lowest number. -/
def State.freeCall (s : State) : Option (Fin 64) := (List.finRange 64).find? (fun r => (s.call r).isNone)

/-- The free incident record with the lowest number. -/
def State.freeIncident (s : State) : Option (Fin 16) := (List.finRange 16).find? (fun k => (s.incident k).isNone)

/-- The record RESERVED for a post. -/
def State.reservedFor (s : State) (i : Fin 256) : Option (Fin 64) :=
  (List.finRange 64).find? (fun r => match s.call r with | some c => c.state == .reserved && c.post == i | none => false)

/-- Call records in use. -/
def State.callsInUse (s : State) : Nat := (s.calls.records.toList.filter Option.isSome).length

/-- Incident records in use. -/
def State.incidentsInUse (s : State) : Nat := (s.cluster.records.toList.filter Option.isSome).length

/-- The QUEUED count (5.6). -/
def State.queuedCount (s : State) : Nat := s.calls.queue.length

/-! ### Pins and the state word -/

/-- The BYPASS output (R177). -/
def State.bypass (s : State) : Bool :=
  match s.engine.state with
  | .standby | .starting | .stopping | .failed => true
  | .run | .restarting => false

/-- The ATTN output (R175). -/
def State.attn (s : State) : Bool :=
  (s.path.windows.isSome && s.reports.producer != s.reports.consumer) || s.engine.state == .failed

/-- The OVERFLOW output (R104). -/
def State.overflowPin (s : State) : Bool := s.calls.overflow

/-- What the speech switch gives a position: nothing, the progress tone in place of a channel, or speech both ways with
a channel (R150). -/
inductive SpeechPath
  | silence
  | progressTone
  | speech (channel : Connection)
  deriving DecidableEq, Repr

/-- What a position hears: its connected channel on the terms of that channel's state (R150, R152, R155). -/
def State.speechPath (s : State) (p : Fin 16) : SpeechPath :=
  match s.speech.connections.get p with
  | none => .silence
  | some x =>
    match (s.channel (channelIndex x.segment x.channel)).state with
    | .free => .silence
    | .reserved => .progressTone
    | .inUse => .speech x

/-- Engine state codes (12.1). -/
def EngineState.code : EngineState → Nat
  | .standby => 0 | .starting => 1 | .run => 2 | .stopping => 3 | .restarting => 4 | .failed => 5

/-- Anchor-invalid reason codes (12.1). -/
def AnchorReason.code : AnchorReason → Nat
  | .ok => 0 | .commandCount => 1 | .eventCount => 2 | .alignment => 3 | .overlap => 4 | .segmentConfig => 5

/-- The state word (R179, 12.2). -/
def State.stateWord (s : State) : Word :=
  BitVec.ofNat 16 (s.engine.restartCount * 2 ^ 8 + flagBit s.calls.overflow 7 + flagBit s.engine.clamped 6
    + s.engine.reason.code * 2 ^ 3 + s.engine.state.code)

/-! ### Segments and feeds -/

/-- A segment is serving: in SWEEP or ACTIVE (R67). -/
def Segment.serving (g : Segment) : Bool := g.state == .sweep || g.state == .active

/-- The feed of a segment end is on, so that the line monitor watches it (R46). -/
def State.feedOn (s : State) (l : LineId) : Bool :=
  match l.side with
  | .near => (s.segment l.segment).serving
  | .far => (s.segment l.segment).farFeed

/-- The break of a segment, if one is held. -/
def State.broken (s : State) (g : Fin 8) : Option Break := (s.segment g).broken

/-- A drop lies beyond the break that its segment holds: it is the first run drop or a higher one, whatever its side and the
two limits (log entry 57). -/
def State.beyondBreak (s : State) (i : Fin 256) : Bool :=
  match s.broken (postSegment i) with
  | some b => b.firstRun.val ≤ (postDrop i).val
  | none => false

/-! ### Configured and polled drops -/

/-- Directory shadow entry of a post. -/
def State.entry (s : State) (i : Fin 256) : DirectoryEntry := s.directory.get i

/-- The entry is VALID with the configured flag set. -/
def State.entryInUse (s : State) (i : Fin 256) : Bool := (s.entry i).valid && entryConfigured (s.entry i).words

/-- The drop is configured (R42, R63). -/
def State.configured (s : State) (i : Fin 256) : Bool :=
  (postDrop i).val + 1 ≤ configuredCount s.path.anchor (postSegment i) && s.entryInUse i

/-- The post has a live call or is on the deferral list: it is polled at the active period (R33). -/
def Post.activePoll (p : Post) : Bool := p.liveCall.isSome || p.deferred

/-- The line side of `side` polls the post (R33). -/
def State.polled (s : State) (i : Fin 256) (side : Side) : Bool :=
  let p := s.post i
  p.side == side &&
    ((s.configured i && (p.state == .present || p.state == .unknown))
      || (s.configured i && p.state == .silent && s.silentMode == .probe)
      || (p.activePoll && (p.state == .present || p.state == .unknown || p.state == .silent)))

/-- The poll period of a post in ticks (R33). -/
def State.pollTicks (s : State) (i : Fin 256) : Nat :=
  if (s.post i).activePoll then s.activePollTicks else s.idlePollTicks

/-! ### Dispatch views -/

/-- A position is eligible: FREE and holding no call (R130). -/
def Position.eligible (p : Position) : Bool := p.state == .free && p.held.isEmpty

/-- The lowest FREE talk channel of a segment (R151). -/
def State.freeChannel (s : State) (g : Fin 8) : Option (Fin 4) :=
  (List.finRange 4).find? (fun c => (s.channel (channelIndex g c)).state == .free)

/-- A call is offerable (R131). -/
def State.offerable (s : State) (c : Call) : Bool :=
  c.state == .queued && (s.post c.post).state == .present
    && (s.segment (postSegment c.post)).state == .active && (s.freeChannel (postSegment c.post)).isSome

/-- The eligible positions. -/
def State.eligiblePositions (s : State) : List (Fin 16) := (List.finRange 16).filter (fun p => (s.position p).eligible)

/-! ### Ownership of words (R5, R8) -/

/-- Byte address of the word a host access names. -/
def wordAddress (a : BitVec 24) : Nat := a.toNat / 2 * 2

/-- Anchor word number of a byte address. -/
def anchorWordAt (a : Nat) : Option (Fin 128) :=
  if h : Config.anchorBase ≤ a ∧ a < Config.anchorBase + 256 then
    some ⟨(a - Config.anchorBase) / 2, by omega⟩ else none

/-- A part-owned anchor word (R5). -/
def partAnchorWord (n : Fin 128) : Bool := n.val == 1 || n.val == 15 || n.val == 16 || 120 ≤ n.val

/-- A layout word: a window descriptor or a segment configuration word (R5). -/
def layoutWord (n : Fin 128) : Bool := (2 ≤ n.val && n.val ≤ 13) || (18 ≤ n.val && n.val ≤ 25)

/-- A byte address lies in a window. -/
def inWindow (a base size : Nat) : Bool := base ≤ a && a < base + size

/-- The command ring slot and word at a byte address, while a window set is in effect (R8). -/
def State.slotAt (s : State) (a : Nat) : Option (Fin 64 × Fin 8) :=
  match s.path.windows with
  | none => none
  | some w =>
    if h : inWindow a w.commandBase (w.commandCount * 16) ∧ (a - w.commandBase) / 16 < 64 then
      some (⟨(a - w.commandBase) / 16, h.2⟩, ⟨(a - w.commandBase) % 16 / 2, by omega⟩)
    else none

/-- The directory entry and word at a byte address, while a window set is in effect. -/
def State.directoryAt (s : State) (a : Nat) : Option (Fin 256 × Fin 8) :=
  match s.path.windows with
  | none => none
  | some w =>
    if h : w.directoryBase ≤ a ∧ a < w.directoryBase + 4096 then
      some (⟨(a - w.directoryBase) / 16, by omega⟩, ⟨(a - w.directoryBase) % 16 / 2, by omega⟩)
    else none

/-- The word at a byte address is part-owned (R8). -/
def State.partOwned (s : State) (a : Nat) : Bool :=
  (match anchorWordAt a with | some n => partAnchorWord n | none => false)
  || (match s.path.windows with
      | none => false
      | some w => inWindow a w.eventBase (w.eventCount * 16) || inWindow a w.boardBase 1024
          || inWindow a w.resultBase (w.commandCount * 2))
  || (match s.slotAt a with | some (k, _) => s.path.published.contains k | none => false)

/-! ### Pauses -/

/-- The engine is in RUN. -/
def State.inRun (s : State) : Bool := s.engine.state == .run

/-- A restart or a failure clear is under way (R188, R192). -/
def State.clearing (s : State) : Bool :=
  match s.engine.step with
  | .draining | .areaWriting | .linesHalting | .reloading => true
  | .idle | .anchorRead | .directoryRead => false

/-- Host accesses are held: from the drain's request until the restart area has been written (R15). -/
def State.hostHeld (s : State) : Bool := s.engine.step == .draining || s.engine.step == .areaWriting

/-- A part read waits for the memory port (R13): the anchor read, the directory read or the directory reload. -/
def State.partReadWaiting (s : State) : Bool :=
  s.engine.step == .anchorRead || s.engine.step == .directoryRead || s.engine.step == .reloading

/-- The command taker waits (R18, R182). -/
def State.takerPaused (s : State) : Bool := s.clearing || s.engine.step == .directoryRead

/-- Words of a whole-board write still wait for the queue (R174). -/
def State.boardWriting (s : State) : Bool :=
  match s.path.windows with
  | none => false
  | some w => s.path.engineWaiting.any (fun e => inWindow e.address w.boardBase 1024)

/-- The report writer works (R165). -/
def State.writerWorks (s : State) : Bool :=
  s.path.windows.isSome && !s.clearing && !s.boardWriting
    && (match s.engine.state with
        | .run | .stopping | .restarting | .failed => true
        | .standby | .starting => false)

/-- The event ring has space (R168). -/
def State.ringSpace (s : State) : Bool :=
  match s.path.windows with
  | none => false
  | some w => (s.reports.producer - s.reports.consumer).toNat < w.eventCount

end Sys2Proof.Machine
end

