-- ==== Sys2Proof/Machine/Ops.lean ====
section
/-! DEFINITION. Named operations over memory, the write-back queue, the report list, the fault slots and the
records, and the form of an event that a class B fault can cut short (R186): `Op`. -/

namespace Sys2Proof.Machine

/-! ### The call memory -/

/-- The byte at an address; an address not listed reads 0 (log entry 1). -/
def Memory.get : List Host.Cell → Nat → Byte
  | [], _ => 0
  | (k, b) :: rest, a => if k = a then b else Memory.get rest a

/-- The memory with a byte written: addresses rise and no listed byte is 0. -/
def Memory.set : List Host.Cell → Nat → Byte → List Host.Cell
  | [], a, v => if v = 0 then [] else [(a, v)]
  | (k, b) :: rest, a, v =>
    if a < k then (if v = 0 then (k, b) :: rest else (a, v) :: (k, b) :: rest)
    else if a = k then (if v = 0 then rest else (a, v) :: rest)
    else (k, b) :: Memory.set rest a v

/-- The canonical form of memory: addresses strictly rising, no entry equal to what an unlisted address reads. -/
def Memory.wf : List Host.Cell → Bool
  | [] => true
  | (k, b) :: rest =>
    b != 0 && (match rest with | [] => true | (k', _) :: _ => k < k') && Memory.wf rest

/-- The word at an even byte address: the high byte lies at the lower address (12). -/
def Memory.word (m : List Host.Cell) (a : Nat) : Word := wordOf (Memory.get m a) (Memory.get m (a + 1))

/-- The bytes of a word that the enables select, written at an even byte address. -/
def Memory.write (m : List Host.Cell) (a : Nat) (en : Enables) (w : Word) : List Host.Cell :=
  let m := if en.hi then Memory.set m a (highByte w) else m
  if en.lo then Memory.set m (a + 1) (lowByte w) else m

/-- Both byte lanes. -/
def bothLanes : Enables := { hi := true, lo := true }

/-- A part write to the call memory. -/
def State.writeMemory (a : Nat) (w : Word) (s : State) : State := { s with mem := Memory.write s.mem a bothLanes w }

/-! ### The write-back queue (R11) -/

/-- The queued value of an address. -/
def queuedValue : List QueueEntry → Nat → Option Word
  | [], _ => none
  | e :: rest, a => if e.address = a then some e.value else queuedValue rest a

/-- The queue takes a write at once: its address is queued, or there is room (R11). -/
def queueTakes (q : List QueueEntry) (a : Nat) : Bool := (queuedValue q a).isSome || q.length < Config.queueCapacity

/-- A write taken into the queue: an older entry of its address is removed, the new one goes to the tail (R11). -/
def enqueue (q : List QueueEntry) (e : QueueEntry) : List QueueEntry := q.filter (fun x => x.address != e.address) ++ [e]

/-- Waiting writes appended in their order until one must wait: what still waits, and the queue. -/
def flushWaiting : List QueueEntry → List QueueEntry → List QueueEntry × List QueueEntry
  | [], q => ([], q)
  | e :: rest, q => if queueTakes q e.address then flushWaiting rest (enqueue q e) else (e :: rest, q)

/-- Engine control issues writes behind those it already waits with (R11). -/
def State.engineWrites (es : List QueueEntry) (s : State) : State :=
  let r := flushWaiting (s.path.engineWaiting ++ es) s.path.queue
  { s with path := { s.path with engineWaiting := r.1, queue := r.2 } }

/-- Engine control writes the state word (R179). -/
def State.writeStateWord (s : State) : State :=
  s.engineWrites [{ address := Config.anchorAddress Config.stateWord.val, value := s.stateWord }]

/-- Steps 3 to 5 of an answer, once the queue takes the consumer index: the held consumer advances, its word is queued,
and the slot leaves the published list (R19). Until then the slot is published and counted, so that no publication meets
it again (R17; log entry 39). -/
def MemoryPath.releaseSlot (p : MemoryPath) (slot : Fin 64) : MemoryPath :=
  let e : QueueEntry := { address := Config.anchorAddress Config.commandConsumer.val, value := p.heldConsumer + 1 }
  if queueTakes p.queue e.address then
    { p with
      heldConsumer := p.heldConsumer + 1, queue := enqueue p.queue e, published := p.published.erase slot, taker := .idle }
  else { p with taker := .consumer slot }

/-- The command taker appends what it can of its answer (R19 steps 2 to 5); it waits while it is paused (R15, R18). -/
def State.flushTaker (s : State) : State :=
  if s.takerPaused then s
  else
    match s.path.taker with
    | .idle => s
    | .consumer slot => { s with path := s.path.releaseSlot slot }
    | .result slot w =>
      match s.path.windows with
      | none => s
      | some win =>
        let a := win.resultBase + 2 * slot.val
        if queueTakes s.path.queue a then
          { s with path := ({ s.path with queue := enqueue s.path.queue { address := a, value := w } } : MemoryPath).releaseSlot slot }
        else s

/-! ### The report list (R163, R164) -/

/-- Adds one change to a saturating 8-bit count. -/
def saturate255 (n : Nat) : Nat := if n < 255 then n + 1 else 255

/-- Sets marks in an entry (R163). -/
def ReportEntry.mark (e : ReportEntry) (board event fault : Bool) (now : Time) : ReportEntry :=
  { e with
    board := e.board || board, event := e.event || event, fault := e.fault || fault
    coalesced := if event then saturate255 e.coalesced else e.coalesced
    time := if event then now else e.time }

/-- The report list after a change of an object (R163). -/
def markObject (l : List ReportEntry) (o : Obj) (board event fault : Bool) (now : Time) : List ReportEntry :=
  if l.any (fun e => e.object == o) then
    l.map (fun e => if e.object == o then e.mark board event fault now else e)
  else
    l ++ [ReportEntry.mark { object := o, board := false, event := false, fault := false, coalesced := 0, time := 0 }
      board event fault now]

/-- A block reports a change of an object with the marks it sets (R163). -/
def State.report (o : Obj) (board event fault : Bool) (s : State) : State :=
  { s with reports := { s.reports with list := markObject s.reports.list o board event fault s.time } }

/-- A change reported with both marks. -/
def State.reportBoth (o : Obj) (s : State) : State := s.report o true true false

/-- A change of the engine state, the OVERFLOW flag, the parameters-clamped flag or the restart count (R164). -/
def State.reportEngine (s : State) : State :=
  { s.reportBoth .engine with engine := { s.engine with lastChange := s.time } }

/-- A change of a count of the engine's board entry (R164). -/
def State.reportCounts (s : State) : State := s.report .engine true false false

/-- Owner of a fault slot, as a report list object. -/
def slotOwner (k : Fin 9) : Obj := if h : k.val < 8 then .segment ⟨k.val, h⟩ else .engine

/-- The fault slot of a report list object, for a segment or the engine. -/
def Obj.slot : Obj → Option (Fin 9)
  | .segment g => some (segmentSlot g)
  | .engine => some engineSlot
  | .call _ | .post _ | .position _ | .incident _ => none

/-- A class A fault recorded in its slot: filled, or counted as a repeat (R171). -/
def FaultRecord.next (old : Option FaultRecord) (kind : FaultKind) (object : Nat) (detail : BitVec 32) (now : Time) : FaultRecord :=
  match old with
  | none => { kind, firstTime := now, lastKind := kind, lastObject := object, lastDetail := detail, lastTime := now, repeats := 0 }
  | some f => { f with lastKind := kind, lastObject := object, lastDetail := detail, lastTime := now, repeats := saturate255 f.repeats }

/-- A class A fault recorded and its owner listed; a slot that fills changes the engine's board entry (R164, R171). -/
def State.recordFault (k : Fin 9) (kind : FaultKind) (object : Nat) (detail : BitVec 32) (s : State) : State :=
  let old := s.reports.slots.get k
  let s := { s with reports := { s.reports with slots := put s.reports.slots k (some (FaultRecord.next old kind object detail s.time)) } }
  let s := s.report (slotOwner k) false false true
  if old.isNone then s.reportCounts else s

/-- The engine state changes: engine control writes the state word and the engine is listed (R177). -/
def State.setEngineState (st : EngineState) (s : State) : State :=
  ({ s with engine := { s.engine with state := st } } : State).writeStateWord.reportEngine

/-- The parameters-clamped flag is given a value; a change writes the state word and lists the engine (R10, R164). -/
def State.setClamped (b : Bool) (s : State) : State :=
  if s.engine.clamped == b then s
  else ({ s with engine := { s.engine with clamped := b } } : State).writeStateWord.reportEngine

/-! ### Events that a class B fault can cut short (R186) -/

/-- An operation of an event: it may answer, or be cut short by a class B fault, and the changes made so far stand. -/
abbrev Op := EStateM ClassB State

/-- Class B record kind codes (12.1). -/
def RecordName.code : RecordName → Nat
  | .call _ => 1 | .position _ => 2 | .incident _ => 3 | .channel _ => 4 | .post _ => 5

/-- Index of a record within its kind (R186). -/
def RecordName.index : RecordName → Nat
  | .call r => r.val | .position p => p.val | .incident k => k.val | .channel c => c.val | .post i => i.val

/-- RECORD_CHECK of a record: its kind and its index (R186). -/
def recordCheck (x : RecordName) : ClassB :=
  { cause := .recordCheck, first := BitVec.ofNat 16 x.code, second := BitVec.ofNat 16 x.index }

/-- A post record read to be acted on: its check code is verified (R48). -/
def readPost (i : Fin 256) : Op Post := do
  let s ← get
  if (s.post i).corrupt then throw (recordCheck (.post i)) else pure (s.post i)

/-- A position record read to be acted on (R128). -/
def readPosition (p : Fin 16) : Op Position := do
  let s ← get
  if (s.position p).corrupt then throw (recordCheck (.position p)) else pure (s.position p)

/-- A call record read to be acted on (R90); none is free. -/
def readCall (r : Fin 64) : Op (Option Call) := do
  let s ← get
  match s.call r with
  | none => pure none
  | some c => if c.corrupt then throw (recordCheck (.call r)) else pure (some c)

/-- An incident record read to be acted on (R112); none is free. -/
def readIncident (k : Fin 16) : Op (Option Incident) := do
  let s ← get
  match s.incident k with
  | none => pure none
  | some x => if x.corrupt then throw (recordCheck (.incident k)) else pure (some x)

/-- A channel-map entry read to be acted on (R150). -/
def readChannel (c : Fin 32) : Op Channel := do
  let s ← get
  if (s.channel c).corrupt then throw (recordCheck (.channel c)) else pure (s.channel c)

/-- What is done with a call record in use, read to be acted on; nothing for a free record. -/
def withCall (r : Fin 64) (f : Call → Op Unit) : Op Unit := do
  match ← readCall r with
  | none => pure ()
  | some c => f c

/-! ### Records written -/

/-- A line side changed. -/
def State.updateLine (l : LineId) (f : LineSide → LineSide) (s : State) : State :=
  { s with lines := put s.lines (lineIndex l) (f (s.line l)) }

/-- A segment end changed. -/
def State.updateEnd (l : LineId) (f : LineEnd → LineEnd) (s : State) : State :=
  { s with ends := put s.ends (lineIndex l) (f (s.segmentEnd l)) }

/-- The line side that a post's record names. -/
def State.lineOf (s : State) (i : Fin 256) : LineId := { segment := postSegment i, side := (s.post i).side }

/-- The last-exchange time of a drop on one side: set as it joins the polled set, absent outside it (R34). -/
def State.syncPolledSide (i : Fin 256) (side : Side) (s : State) : State :=
  let l : LineId := { segment := postSegment i, side := side }
  let t := (s.line l).lastExchange.get (postDrop i)
  let t' := if s.polled i side then (match t with | some x => some x | none => some s.time) else none
  if t == t' then s
  else s.updateLine l (fun x => { x with lastExchange := put x.lastExchange (postDrop i) t' })

/-- The last-exchange times of a drop after a change that bears on the polled set (R33, R34). -/
def State.syncPolled (i : Fin 256) (s : State) : State := (s.syncPolledSide i .near).syncPolledSide i .far

/-- The last-exchange time of a polled drop that its post's restoration makes join the polled set anew (R59). -/
def State.rejoinPolled (i : Fin 256) (s : State) : State :=
  if s.configured i && (s.post i).state == .unknown then
    s.updateLine (s.lineOf i) (fun x => { x with lastExchange := put x.lastExchange (postDrop i) (some s.time) })
  else s

/-- The last-exchange times of every drop, after the POST_SILENT mode has changed (R33). -/
def State.syncAllPolled (s : State) : State := (List.finRange 256).foldl (fun s i => s.syncPolled i) s

/-- The change of a post record is one of those R57 lists. -/
def Post.reportable (old new : Post) (limit : Nat) : Bool :=
  old.state != new.state || old.side != new.side || old.hook != new.hook || old.identityMatch != new.identityMatch
    || old.identity != new.identity || old.selfTest != new.selfTest || old.supplyLow != new.supplyLow
    || old.doorOpen != new.doorOpen || old.requestPending != new.requestPending || old.barred != new.barred
    || old.testCancelled != new.testCancelled || old.deferred != new.deferred
    || (limit ≤ old.misses) != (limit ≤ new.misses)

/-- A post record written: its check code is made anew, a change of R57 is reported once, and the polled set
follows (R33). -/
def State.setPost (i : Fin 256) (p : Post) (s : State) : State :=
  let old := s.post i
  let s := { s with posts := put s.posts i { p with corrupt := false } }
  let s := if Post.reportable old p s.postMissLimit then s.reportBoth (.post i) else s
  s.syncPolled i

/-- A call record written, its check code made anew (R90). -/
def State.setCall (r : Fin 64) (c : Call) (s : State) : State :=
  { s with calls := { s.calls with records := put s.calls.records r (some { c with corrupt := false }) } }

/-- A call reported with both marks (R90). -/
def State.reportCall (r : Fin 64) (s : State) : State := s.reportBoth (.call r)

/-- An incident record written (R112). -/
def State.setIncident (k : Fin 16) (x : Incident) (s : State) : State :=
  { s with cluster := { s.cluster with records := put s.cluster.records k (some { x with corrupt := false }) } }

/-- An incident reported with both marks (R112). -/
def State.reportIncident (k : Fin 16) (s : State) : State := s.reportBoth (.incident k)

/-- A position record written without a report: its timers alone changed. -/
def State.setPositionTimers (p : Fin 16) (x : Position) (s : State) : State :=
  { s with positions := put s.positions p { x with corrupt := false } }

/-- A position record written and reported (R128). -/
def State.setPosition (p : Fin 16) (x : Position) (s : State) : State :=
  (s.setPositionTimers p x).reportBoth (.position p)

/-- The change of a segment record is one of those R67 lists: its state, retry count, FAR feed or break record. -/
def Segment.reportable (old new : Segment) : Bool :=
  old.state != new.state || old.retryCount != new.retryCount || old.farFeed != new.farFeed || old.broken != new.broken

/-- A segment record written without a report: its timers alone changed. -/
def State.setSegmentTimers (g : Fin 8) (x : Segment) (s : State) : State := { s with segments := put s.segments g x }

/-- A segment record written: a change of R67 is reported, and a write that changes none of its fields is not (R170). -/
def State.setSegment (g : Fin 8) (x : Segment) (s : State) : State :=
  if Segment.reportable (s.segment g) x then (s.setSegmentTimers g x).reportBoth (.segment g) else s.setSegmentTimers g x

/-- Dispatch is to run once the event's own effects have been applied (R132). -/
def State.wantDispatch (s : State) : State := { s with dispatchDue := true }

/-! ### Pending commands and service lists (R32, R36, R37, R41) -/

/-- A command is a TEST. -/
def PendingCommand.isTest (c : PendingCommand) : Bool := c.kind == .test

/-- The pending list after a command is pended, by the table of R36. -/
def pendList (l : List PendingCommand) (c : PendingCommand) : List PendingCommand :=
  match l with
  | [] => [c]
  | a :: _ => if a.kind == .release then (if c.kind == .release then [a] else [a, c]) else [c]

/-- The service list of the post's line side follows its pending list (R32). -/
def State.syncService (i : Fin 256) (s : State) : State :=
  s.updateLine (s.lineOf i) (fun x =>
    if (s.post i).commands.isEmpty then { x with service := x.service.erase (postDrop i) }
    else if x.service.contains (postDrop i) then x
    else { x with service := x.service ++ [postDrop i] })

/-- A post's pending list replaced. -/
def State.setCommands (i : Fin 256) (l : List PendingCommand) (s : State) : State :=
  (s.setPost i { s.post i with commands := l }).syncService i

/-- A TEST of a post is lost, where one is: test cancelled is set, and each loss reports the post, also one that finds it
set (R37, R60). -/
def State.loseTest (i : Fin 256) (lost : Bool) (s : State) : State :=
  let p := s.post i
  if lost then (if p.testCancelled then s.reportBoth (.post i) else s.setPost i { p with testCancelled := true }) else s

/-- A command is pended to a post (R36); a TEST replaced or removed is lost (R37). -/
def pend (i : Fin 256) (kind : CommandKind) (call : Option Nat) : Op Unit := do
  let p ← readPost i
  modify (fun s =>
    (s.loseTest i (p.commands.any PendingCommand.isTest)).setCommands i (pendList p.commands { kind, call }))

/-- A post's pending list is emptied and its drop leaves the service list (R41); a TEST in it is lost when the post has
become SILENT or UNREACHABLE (R60). -/
def State.emptyCommands (i : Fin 256) (cancels : Bool) (s : State) : State :=
  let l := (s.post i).commands
  if l.isEmpty then s else (s.loseTest i (cancels && l.any PendingCommand.isTest)).setCommands i []

/-- A post's side changes: its drop leaves the service list of the old side and joins that of the new one at the
tail, if it was on it (R41). -/
def State.setSide (i : Fin 256) (side : Side) (s : State) : State :=
  let p := s.post i
  if p.side == side then s
  else
    let old := s.lineOf i
    let listed := (s.line old).service.contains (postDrop i)
    let s := s.updateLine old (fun x => { x with service := x.service.erase (postDrop i) })
    let s := s.setPost i { p with side := side }
    if listed then
      s.updateLine { old with side := side } (fun x => { x with service := x.service.erase (postDrop i) ++ [postDrop i] })
    else s

end Sys2Proof.Machine
end

