-- ==== Sys2Proof/Machine/Speech.lean ====
section
/-! DEFINITION. The speech switch: channel map, connection memory and readback (R150 to R156). -/

namespace Sys2Proof.Machine

/-- A call record in use changed in place; a free record stays free. -/
def State.modifyCall (r : Fin 64) (f : Call → Call) (s : State) : State :=
  match s.call r with
  | none => s
  | some c => s.setCall r (f c)

/-- A position record changed in place and reported. -/
def State.modifyPosition (p : Fin 16) (f : Position → Position) (s : State) : State := s.setPosition p (f (s.position p))

/-- A channel-map entry written: its segment's board entry changes (R150). -/
def State.setChannel (g : Fin 8) (ch : Fin 4) (x : Channel) (s : State) : State :=
  ({ s with speech := { s.speech with channels := put s.speech.channels (channelIndex g ch) { x with corrupt := false } } } :
    State).report (.segment g) true false false

/-- The channel-map entry that a call holds, if any. -/
def State.channelHeldBy (s : State) (n : Nat) : Option (Fin 32) :=
  (List.finRange 32).find? (fun c => (s.channel c).call == some n && (s.channel c).state != .free)

/-- The lowest FREE talk channel of the segment is RESERVED for the call, which takes its number (R151). For a call that
already holds an entry of the map, the RECORD_CHECK names that entry, whether or not another is FREE (log entry 49); where
none is FREE, the record it names is a free value (log entry 7). -/
def reserveChannel (g : Fin 8) (r : Fin 64) : Op Unit := withCall r fun c => do
  let s ← get
  match s.channelHeldBy c.number, s.freeChannel g with
  | some held, _ => throw (recordCheck (.channel held))
  | none, none => throw (recordCheck (Config.reservationFault g))
  | none, some ch => do
    let _ ← readChannel (channelIndex g ch)
    modify (fun s => (s.setChannel g ch { state := .reserved, call := some c.number, corrupt := false }).modifyCall r
      (fun c => { c with channel := some ch }))

/-- The byte of a connection in the restart area (12.2). -/
def connectionByte : Option Connection → Nat
  | none => 0
  | some c => 128 + c.segment.val * 16 + c.channel.val

/-- What a crosspoint reads once it has been set: its setting, unless it does not follow it. -/
def State.crosspointReads (s : State) (p : Fin 16) (setting : Option Connection) : Option Connection :=
  match s.speech.stuck.get p with
  | none => setting
  | some reads => reads

/-- A connection-memory entry and the crosspoint of its position are set. -/
def State.setConnection (p : Fin 16) (x : Option Connection) (s : State) : State :=
  { s with speech := { s.speech with
      connections := put s.speech.connections p x, crosspoints := put s.speech.crosspoints p (s.crosspointReads p x) } }

/-- SWITCH_CHECK of a position: the entry written and the setting read (R186). -/
def switchCheck (p : Fin 16) (written reads : Option Connection) : ClassB :=
  { cause := .switchCheck, first := BitVec.ofNat 16 p.val,
    second := BitVec.ofNat 16 (connectionByte written * 2 ^ 8 + connectionByte reads) }

/-- A connection-memory entry is changed and read back (R156). -/
def changeConnection (p : Fin 16) (x : Option Connection) : Op Unit := do
  modify (fun s => s.setConnection p x)
  let s ← get
  if s.speech.crosspoints.get p = x then pure () else throw (switchCheck p x (s.speech.crosspoints.get p))

/-- Positions other than `p` connected to a channel. -/
def State.othersOn (s : State) (p : Fin 16) (x : Connection) : Nat :=
  ((List.finRange 16).filter (fun q => q != p && s.speech.connections.get q == some x)).length

/-- A connect request of a position and a call (R155). The record that its RECORD_CHECK names is a free value (log entry
7). -/
def connectRequest (p : Fin 16) (r : Fin 64) : Op Unit := withCall r fun c => do
  let s ← get
  match c.channel with
  | none => throw (recordCheck (Config.connectFault p))
  | some ch => do
    let g := postSegment c.post
    let e ← readChannel (channelIndex g ch)
    if (s.speech.connections.get p).isNone ∧ e.state ≠ .free ∧ e.call = some c.number ∧ c.parties.contains p
        ∧ s.othersOn p ⟨g, ch⟩ ≤ 1 then
      changeConnection p (some ⟨g, ch⟩)
    else throw (recordCheck (Config.connectFault p))

/-- A disconnect request of a position (R155). The record that its RECORD_CHECK names is a free value (log entry 7). -/
def disconnectRequest (p : Fin 16) : Op Unit := do
  let s ← get
  if (s.speech.connections.get p).isNone then throw (recordCheck (Config.disconnectFault p))
  else changeConnection p none

/-- The channel a call holds is freed: its connections are removed, in rising position order (log entry 52), the entry
becomes FREE, the call's talk channel is cleared, and dispatch is told (R153). For a call that holds no channel nothing is
asked of the map (log entry 48). -/
def freeCallChannel (r : Fin 64) : Op Unit := withCall r fun c => do
  match c.channel with
  | none => pure ()
  | some ch => do
    let g := postSegment c.post
    let e ← readChannel (channelIndex g ch)
    if e.state = .free ∨ e.call ≠ some c.number then throw (recordCheck (.channel (channelIndex g ch)))
    else do
      (List.finRange 16).forM (fun p => do
        let s ← get
        if s.speech.connections.get p = some ⟨g, ch⟩ then changeConnection p none else pure ())
      modify (fun s => ((s.setChannel g ch .freed).modifyCall r (fun c => { c with channel := none })).wantDispatch)

/-- The channel of a call whose CONNECT is confirmed becomes IN_USE (R152). A call that holds no channel has no entry
RESERVED for it; the record that the RECORD_CHECK names is then a free value (log entry 7). -/
def channelInUse (r : Fin 64) : Op Unit := withCall r fun c => do
  match c.channel with
  | none => throw (recordCheck (Config.inUseFault (postSegment c.post)))
  | some ch => do
    let g := postSegment c.post
    let e ← readChannel (channelIndex g ch)
    if e.state = .reserved ∧ e.call = some c.number then
      modify (fun s => s.setChannel g ch { e with state := .inUse })
    else throw (recordCheck (.channel (channelIndex g ch)))

end Sys2Proof.Machine
end

