-- ==== Sys2Proof/Machine/Incidents.lean ====
section
/-! DEFINITION. The cluster unit: creating, joining, merging and closing incidents (R112 to R126). -/

namespace Sys2Proof.Machine

/-- The estimate chainage of a sum over a count: the mean, an exact half rounded up (R118). -/
def estimateOf (sum count : Nat) : Nat := (2 * sum + count) / (2 * count)

/-- An incident with its estimate and marker computed again (R118). -/
def Incident.estimated (x : Incident) : Incident :=
  { x with estimate := estimateOf x.sum x.count, marker := markerOf (estimateOf x.sum x.count) }

/-- The reach window of an incident (R115). -/
def reachWindow (carriageway : Carriageway) (lo hi up down : Nat) : Nat × Nat :=
  match carriageway with
  | .b => (lo - down, min 999999 (hi + up))
  | _ => (lo - up, min 999999 (hi + down))

/-- A chainage on a carriageway matches an OPEN incident (R115). -/
def State.incidentMatches (s : State) (carriageway : Carriageway) (c : Nat) (x : Incident) : Bool :=
  let w := reachWindow x.carriageway x.lo x.hi s.upstreamReach s.downstreamReach
  x.state == .opened && x.carriageway == carriageway && w.1 ≤ c && c ≤ w.2

/-- Creation sequence of an incident record. -/
def State.creationOf (s : State) (k : Fin 16) : Sequence :=
  match s.incident k with
  | some x => x.creation
  | none => 0

/-- A record put into a list that stands in increasing creation sequence. -/
def State.insertByCreation (s : State) (k : Fin 16) : List (Fin 16) → List (Fin 16)
  | [] => [k]
  | j :: rest => if earlier (s.creationOf k) (s.creationOf j) then k :: j :: rest else j :: s.insertByCreation k rest

/-- The incident records that a chainage on a carriageway matches, earliest creation first. -/
def State.matchingIncidents (s : State) (carriageway : Carriageway) (c : Nat) : List (Fin 16) :=
  ((List.finRange 16).filter (fun k =>
    match s.incident k with | some x => s.incidentMatches carriageway c x | none => false)).foldr s.insertByCreation []

/-- `n` numbers on from counter value `c` in 1 to `top`, the number after `top` being 1. -/
def wrapNumber (top c n : Nat) : Nat := (c - 1 + n) % top + 1

/-- The next free incident number, and the counter after it (R113). -/
def State.nextIncidentNumber (s : State) : Nat × Nat :=
  let n := ((List.range 17).map (wrapNumber 255 s.cluster.nextNumber)).find? (fun n => (s.incidentNumbered n).isNone)
  let n := n.getD s.cluster.nextNumber
  (n, wrapNumber 255 n 1)

/-- A new OPEN incident for a call (R116); none when no record is free. -/
def State.createIncident (carriageway : Carriageway) (c : Nat) (lead : Lead) (s : State) : Option Nat × State :=
  match s.freeIncident with
  | none => (none, s)
  | some k =>
    let n := s.nextIncidentNumber
    let x : Incident :=
      { number := n.1, state := .opened, carriageway, lo := c, hi := c, sum := c, count := 1, live := 1,
        lastCall := s.time, lead := some lead, leadAnswered := false, creation := s.cluster.nextCreation,
        estimate := c, marker := markerOf c, windowTimer := some (s.after s.incidentTicks), quietCause := none,
        closeCause := none, corrupt := false }
    let s := { s with cluster := { s.cluster with nextNumber := n.2, nextCreation := s.cluster.nextCreation + 1 } }
    (some n.1, ((s.setIncident k x).reportIncident k).reportCounts)

/-- A call joins an incident, but for the estimate (R117). -/
def Incident.join (x : Incident) (c : Nat) (lead : Lead) (now expiry : Time) : Incident :=
  { x with
    lo := min x.lo c, hi := max x.hi c
    sum := if x.count < 255 then x.sum + c else x.sum
    count := if x.count < 255 then x.count + 1 else x.count
    live := x.live + 1
    lastCall := now
    lead := match x.lead with | some l => some l | none => some lead
    leadAnswered := if x.lead.isSome then x.leadAnswered else false
    windowTimer := some expiry }

/-- The survivor after absorbing one incident, but for the lead (R119). -/
def Incident.absorb (x y : Incident) : Incident :=
  { x with
    lo := min x.lo y.lo, hi := max x.hi y.hi
    sum := if x.count + y.count ≤ 255 then x.sum + y.sum else x.sum
    count := if x.count + y.count ≤ 255 then x.count + y.count else x.count
    live := x.live + y.live }

/-- An absorbed incident: CLOSED, merged into the survivor (R119). -/
def Incident.absorbed (y : Incident) (survivor : Nat) : Incident :=
  { y with state := .closed, closeCause := some (.mergedInto survivor), windowTimer := none, lead := none, live := 0 }

/-- The earlier of two candidate leads. -/
def earlierLead : Option Lead → Lead → Option Lead
  | none, l => some l
  | some a, l => if earlier l.sequence a.sequence then some l else some a

/-- The lead of a merged incident and its answered flag (R120). -/
def chooseLead (xs : List Incident) : Option Lead × Bool :=
  let candidates (answered : Bool) := xs.filterMap (fun x => if x.leadAnswered == answered then x.lead else none)
  match (candidates true).foldl earlierLead none with
  | some l => (some l, true)
  | none => ((candidates false).foldl earlierLead none, false)

/-- The records of the live member calls of an incident. -/
def State.membersOf (s : State) (n : Nat) : List (Fin 64) :=
  (List.finRange 64).filter (fun r => match s.call r with | some c => c.incident == some n && c.state != .ended | none => false)

/-- A member call of an absorbed incident takes the survivor's number, and is reported (R119). -/
def renumberMember (new : Nat) (r : Fin 64) : Op Unit := withCall r fun c =>
  modify (fun s => (s.setCall r { c with incident := some new }).reportCall r)

/-- One matching incident is absorbed into the survivor record, and its live members take the survivor's number, in rising
record order, before the next incident is absorbed (R119; log entry 52). -/
def absorbIncident (k j : Fin 16) : Op Unit := do
  let s ← get
  match s.incident k, s.incident j with
  | some x, some y => do
    set (((s.setIncident k (x.absorb y)).setIncident j (y.absorbed x.number)).reportIncident j)
    (s.membersOf y.number).forM (renumberMember x.number)
  | _, _ => pure ()

/-- The matching incidents become one: the earliest survives, the others are absorbed in increasing creation sequence,
and the lead is chosen (R119, R120). The survivor is reported once, after the call has joined it (log entry 47). -/
def mergeIncidents (k : Fin 16) (others : List (Fin 16)) : Op Unit := do
  let s ← get
  if others.isEmpty then pure ()
  else do
    let lead := chooseLead ((k :: others).filterMap s.incident)
    others.forM (absorbIncident k)
    modify (fun s =>
      match s.incident k with
      | some x => s.setIncident k { x with lead := lead.1, leadAnswered := lead.2 }
      | none => s)

/-- The incident of a call being registered, by the number of matching incidents (R114). The OPEN incidents of its carriageway
are read in rising record order, so that a RECORD_CHECK names the lowest that fails (R115; log entry 52). -/
def assignIncident (carriageway : Carriageway) (c : Nat) (lead : Lead) : Op (Option Nat) := do
  let s ← get
  (List.finRange 16).forM (fun k =>
    match s.incident k with
    | some x => if x.state == .opened && x.carriageway == carriageway then do let _ ← readIncident k else pure ()
    | none => pure ())
  match s.matchingIncidents carriageway c with
  | [] => do
    let r := s.createIncident carriageway c lead
    set r.2
    pure r.1
  | k :: others => do
    mergeIncidents k others
    let s ← get
    match s.incident k with
    | none => pure none
    | some x => do
      set ((s.setIncident k (x.join c lead s.time (s.after s.incidentTicks)).estimated).reportIncident k)
      pure (some x.number)

/-- The close cause a quiet cause gives (R124). -/
def QuietCause.close : QuietCause → CloseCause
  | .expired => .lapsed | .command => .closedByCommand | .stopped => .stopped

/-- A QUIET incident with no live member closes (R124). -/
def Incident.closeIfEmpty (x : Incident) : Incident :=
  if x.state == .quiet && x.live == 0 then { x with state := .closed, closeCause := x.quietCause.map QuietCause.close } else x

/-- An OPEN incident becomes QUIET, and closes at once if it has no live member (R123, R125, R126). -/
def Incident.becomeQuiet (x : Incident) (cause : QuietCause) : Incident :=
  Incident.closeIfEmpty { x with state := .quiet, quietCause := some cause, windowTimer := none }

/-- The OPEN or QUIET record that holds an incident number. -/
def State.liveIncident (s : State) (n : Nat) : Option (Fin 16) :=
  match s.incidentNumbered n with
  | none => none
  | some k => match s.incident k with
    | some x => if x.state == .closed then none else some k
    | none => none

/-- The lead candidates among the members: QUEUED or OFFERED calls of the incident (R122). -/
def State.passCandidates (s : State) (n : Nat) : List Lead :=
  s.calls.records.toList.filterMap (fun o =>
    match o with
    | some c =>
      if c.incident = some n ∧ (c.state = .queued ∨ c.state = .offered) then
        c.arrivalSeq.map (fun q => { call := c.number, sequence := q })
      else none
    | none => none)

/-- A call is the lead: its number and its sequence both match (R121). -/
def Incident.isLead (x : Incident) (call : Nat) (sequence : Option Sequence) : Bool :=
  match x.lead, sequence with
  | some l, some q => l.call == call && l.sequence == q
  | _, _ => false

/-- A member of an incident has ended (R122). -/
def memberEnded (c : Call) : Op Unit := do
  let s ← get
  match c.incident.bind s.liveIncident with
  | none => pure ()
  | some k => do
    match ← readIncident k with
    | none => pure ()
    | some x => do
      let y := { x with live := x.live - 1 }
      let y := if x.isLead c.number c.arrivalSeq && !x.leadAnswered then
          { y with lead := (s.passCandidates x.number).foldl earlierLead none, leadAnswered := false } else y
      set ((s.setIncident k y.closeIfEmpty).reportIncident k)

/-- A call has been answered: the lead of an OPEN or QUIET incident is fixed (R121). -/
def memberAnswered (c : Call) : Op Unit := do
  let s ← get
  match c.incident.bind s.liveIncident with
  | none => pure ()
  | some k => do
    match ← readIncident k with
    | none => pure ()
    | some x =>
      if x.isLead c.number c.arrivalSeq && !x.leadAnswered then
        set ((s.setIncident k { x with leadAnswered := true }).reportIncident k)
      else pure ()

/-- An OPEN or empty QUIET incident as the engine enters STOPPING (R126). -/
def Incident.stopped (x : Incident) : Incident := if x.state = .opened then x.becomeQuiet .stopped else x.closeIfEmpty

/-- The incident changes as the engine enters STOPPING: it is OPEN, or QUIET with no live member (R126). -/
def Incident.stops (x : Incident) : Bool := x.state == .opened || (x.state == .quiet && x.live == 0)

/-- One incident record as the engine enters STOPPING (R126). -/
def quietIncident (k : Fin 16) : Op Unit := do
  let s ← get
  if (s.incident k).any Incident.stops then do
    match ← readIncident k with
    | none => pure ()
    | some x => modify (fun s => (s.setIncident k x.stopped).reportIncident k)
  else pure ()

/-- The incidents as the engine enters STOPPING, in rising record order (R126; log entry 52). -/
def quietIncidents : Op Unit := (List.finRange 16).forM quietIncident

end Sys2Proof.Machine
end

