-- ==== Sys2Proof/Machine/LineSides.lean ====
section
/-! DEFINITION. Line sides and segment ends as blocks above them move them: leaving and entering states (R21), the
FAR feed (R68, R81, R82), sweeps (R42, R44), entering SWEEP (R50, R68), the line monitor (R46, R47), and the restore
of a break (R85, R86). -/

namespace Sys2Proof.Machine

/-- The NEAR side or end of a segment. -/
def nearOf (g : Fin 8) : LineId := { segment := g, side := .near }

/-- The FAR side or end of a segment. -/
def farOf (g : Fin 8) : LineId := { segment := g, side := .far }

/-- The 32 posts of a segment in drop order. -/
def segmentPosts (g : Fin 8) : List (Fin 256) := (List.finRange 32).map (postIndex g)

/-! ### The line monitor -/

/-- An end begins to be watched: an over-current already asserted counts as asserting now (R46). -/
def State.watchEnd (l : LineId) (s : State) : State :=
  s.updateEnd l (fun e =>
    if e.state == .clear && e.overCurrent then { e with state := .awaiting, deglitch := some (s.after s.deglitchTicks) }
    else e)

/-- An end's feed goes off: it returns to CLEAR and its deglitch timer is discarded (R47). -/
def State.unwatchEnd (l : LineId) (s : State) : State := s.updateEnd l (fun e => { e with state := .clear, deglitch := none })

/-! ### Leaving the line -/

/-- A line side goes to OFF: its exchange in flight is abandoned (R21). -/
def LineSide.toOff (x : LineSide) : LineSide :=
  { x with state := .off, exchange := none, sweepList := [], probe := none, discard := false, answered := [],
           afterTelegram := false, afterSweep := false }

/-- A line side goes to HALTING (R21). -/
def LineSide.toHalting (x : LineSide) (discard : Bool) : LineSide :=
  { x with state := .halting, sweepList := [], probe := none, discard := discard }

/-! ### The FAR feed -/

/-- The posts of a segment whose side is FAR, in drop order. -/
def State.farPosts (s : State) (g : Fin 8) : List (Fin 256) := (segmentPosts g).filter (fun i => (s.post i).side == .far)

/-- A post takes side NEAR (R41, R194). -/
def takeNear (i : Fin 256) : Op Unit := do
  let _ ← readPost i
  modify (fun s => s.setSide i .near)

/-- The drops on the FAR service list take side NEAR in their order on that list (R41). -/
def handOverFar (g : Fin 8) : Op Unit := do
  let s ← get
  (s.line (farOf g)).service.forM (fun d => takeNear (postIndex g d))

/-- The FAR feed becomes OFF: its end returns to CLEAR (R47), and every post that still has side FAR takes side NEAR, the
drops on the FAR service list first and in their order on it, so that each is on the service list of its own side (R32, R41,
R194; log entry 56). -/
def farFeedOff (g : Fin 8) : Op Unit := do
  modify (fun s => (s.setSegment g { s.segment g with farFeed := false }).unwatchEnd (farOf g))
  handOverFar g
  let s ← get
  (s.farPosts g).forM takeNear

/-- A line side in HALTING whose exchange has ended goes to OFF; where the FAR feed was being stopped, the feed goes
off with it (R21, R68). -/
def haltingEnds (l : LineId) : Op Unit := do
  let s ← get
  let x := s.line l
  if x.state = .halting ∧ x.exchange = none then do
    modify (fun s => s.updateLine l LineSide.toOff)
    if x.discard = false ∧ l.side = .far ∧ (s.segment l.segment).farFeed then farFeedOff l.segment else pure ()
  else pure ()

/-- The fault supervisor stops the FAR feed: the FAR side halts, and the feed is off once that side is OFF (R68). -/
def stopFarFeed (g : Fin 8) : Op Unit := do
  let s ← get
  if (s.segment g).farFeed then
    if (s.line (farOf g)).state = .off then farFeedOff g
    else do
      modify (fun s => s.updateLine (farOf g) (fun x => x.toHalting false))
      haltingEnds (farOf g)
  else pure ()

/-- An exchange that is a restore probe is withdrawn: its outcome is discarded (R84). -/
def Exchange.withdraw (e : Exchange) : Exchange :=
  match e.purpose with
  | .probe _ => { e with purpose := .probe true }
  | .command _ | .poll | .sweep | .window => e

/-- Probes of a break that is removed: a waiting one is withdrawn, one in flight is discarded (R84). -/
def State.withdrawProbes (g : Fin 8) (s : State) : State :=
  let f (x : LineSide) : LineSide := { x with probe := none, exchange := x.exchange.map Exchange.withdraw }
  (s.updateLine (nearOf g) f).updateLine (farOf g) f

/-! ### The chainage interval and the restore timer -/

/-- Chainage of a drop's directory shadow entry, if it is VALID. -/
def State.validChainage (s : State) (g : Fin 8) (d : Fin 32) : Option Nat :=
  let e := s.entry (postIndex g d)
  if e.valid then some (entryChainage e.words) else none

/-- The chainage interval of a break (R79). -/
def State.breakInterval (s : State) (g : Fin 8) (b : Break) : Option (Nat × Nat) :=
  match b.nearLimit.bind (s.validChainage g), s.validChainage g (b.farLimit.getD b.firstRun) with
  | some a, some c => some (a, c)
  | _, _ => none

/-- Two break records have the limits that the chainage interval is read from in common (R79). -/
def Break.sameLimits (a b : Break) : Bool :=
  a.nearLimit == b.nearLimit && a.firstRun == b.firstRun && a.farLimit == b.farLimit

/-- A break record as it is to be written: a new break, or a change of the near limit, the first run drop or the far limit,
has its chainage interval computed from the entries as they stand, and any other change keeps it (R79). -/
def State.measuredBreak (s : State) (g : Fin 8) (b : Break) : Break :=
  if (s.broken g).any (fun o => o.sameLimits b) then b else { b with interval := s.breakInterval g b }

/-- A break record written, and the segment reported (R67, R79). -/
def State.setBreak (g : Fin 8) (b : Break) (s : State) : State :=
  s.setSegment g { s.segment g with broken := some (s.measuredBreak g b) }

/-! ### Sweeps -/

/-- The sweep list of the NEAR side: the drops configured now, in drop order (R42). -/
def State.nearSweepList (s : State) (g : Fin 8) : List (Fin 32) :=
  (List.finRange 32).filter (fun d => s.configured (postIndex g d))

/-- A sweep whose list is exhausted and whose exchange has ended is complete (R44): the segment becomes ACTIVE (R68),
or the FAR side reports the drops that answered (R82). A list that is empty when it is built while an exchange of SERVING
is still in flight is complete when that exchange ends (log entry 40). -/
def sweepEnds (l : LineId) : Op Unit := do
  let s ← get
  let x := s.line l
  if x.state = .sweeping ∧ x.sweepList = [] ∧ x.exchange = none then do
    modify (fun s => s.updateLine l (fun x => { x with state := .serving, afterSweep := false }))
    match l.side with
    | .near =>
      let seg := s.segment l.segment
      modify (fun s => (s.setSegment l.segment { seg with
        state := .active
        stableTimer := if seg.retryCount > 0 then some (s.after s.stableTicks) else none }).wantDispatch)
    | .far =>
      match s.broken l.segment with
      | none => pure ()
      | some b => do
        let b := { b with restoreTimer := some (s.after s.restoreTicks) }
        match (List.finRange 32).find? (fun d => x.answered.contains d) with
        | some d => modify (fun s => s.setBreak l.segment { b with farLimit := some d })
        | none => do
          stopFarFeed l.segment
          modify (fun s => s.setBreak l.segment { b with state := .cut, farLimit := none })
  else pure ()

/-- The NEAR side enters SWEEPING and builds its list; a sweep under way is abandoned with its exchange, an exchange
of SERVING runs on (R21, R42). -/
def startNearSweep (g : Fin 8) : Op Unit := do
  modify (fun s => s.updateLine (nearOf g) (fun x =>
    { x with
      state := .sweeping, sweepList := s.nearSweepList g, afterSweep := false, discard := false, answered := []
      exchange := if x.state == .sweeping then none else x.exchange
      errors := if x.state == .off then 0 else x.errors }))
  sweepEnds (nearOf g)

/-- The FAR side enters SWEEPING with the drops supplied (R42, R81). -/
def State.startFarSweep (g : Fin 8) (drops : List (Fin 32)) (s : State) : State :=
  let s := s.updateLine (farOf g) (fun x =>
    { x with
      state := .sweeping, sweepList := drops, afterSweep := false, discard := false, answered := []
      errors := if x.state == .off then 0 else x.errors })
  s.watchEnd (farOf g)

/-- One post record of a segment entering SWEEP (R50). -/
def preparePost (i : Fin 256) : Op Unit := do
  let _ ← readPost i
  modify (fun s =>
    let s := s.setSide i .near
    let p := s.post i
    if p.state == .isolated then s
    else s.setPost i { p with state := .unknown, misses := 0, identity := none, identityMatch := .unread })

/-- The NEAR end as its segment enters SWEEP: a SHORT is judged afresh, an asserted over-current starts a deglitch
(R46, R68 step 3). -/
def State.refeedNear (g : Fin 8) (s : State) : State :=
  (s.updateEnd (nearOf g) (fun e => if e.state == .short then { e with state := .clear } else e)).watchEnd (nearOf g)

/-- A segment enters SWEEP (R68); its posts are prepared in rising drop order (log entry 52). One that is in SWEEP already,
with nothing changed in its record, is not listed (R67, R170). -/
def enterSweep (g : Fin 8) : Op Unit := do
  modify (fun s =>
    let s := s.setSegment g { s.segment g with state := .sweep, retryTimer := none, stableTimer := none, broken := none }
    s.withdrawProbes g)
  stopFarFeed g
  handOverFar g
  modify (fun s => s.refeedNear g)
  (segmentPosts g).forM preparePost
  startNearSweep g

/-! ### Restore of a break -/

/-- Some call of a FAR-side post of the segment is CONNECTING, ACTIVE or RETRIEVING (R85). -/
def State.farInSpeech (s : State) (g : Fin 8) : Bool :=
  s.calls.records.toList.any (fun o =>
    match o with
    | some c => postSegment c.post == g && (s.post c.post).side == .far
        && (c.state == .connecting || c.state == .active || c.state == .retrieving)
    | none => false)

/-- A call of a FAR-side post has left CONNECTING, ACTIVE or RETRIEVING: a pending restore takes place at the last of
them (R86). -/
def farCallLeft (g : Fin 8) : Op Unit := do
  let s ← get
  match s.broken g with
  | some b =>
    if b.state == .restorePending && s.inRun && !s.farInSpeech g then enterSweep g else pure ()
  | none => pure ()

/-- A good IDENT to the restore probe: the restore takes place, or waits for the FAR-side calls in speech (R85). -/
def breakRepaired (g : Fin 8) : Op Unit := do
  let s ← get
  match s.broken g with
  | some b =>
    if b.state == .restorePending || !s.inRun then pure ()
    else if s.farInSpeech g then
      set (s.setBreak g { b with state := .restorePending, restoreTimer := none })
    else enterSweep g
  | none => pure ()

end Sys2Proof.Machine
end

