-- ==== Sys2Proof/Machine/Positions.lean ====
section
/-! DEFINITION. Position records as events change them: entering FREE and WRAPUP, the end of an offer, and what the
end of a call does to its positions (R129, R130, R138, R139, R141, R148). -/

namespace Sys2Proof.Machine

/-- A position record with its timers and current call removed (R129). -/
def Position.cleared (x : Position) : Position :=
  { x with current := none, offerTimer := none, ringTimer := none, wrapTimer := none }

/-- A position record entering FREE (R130). -/
def Position.toFree (x : Position) (now : Time) : Position := { x.cleared with state := .free, freeSince := now }

/-- A position record entering WRAPUP; with a wrap time of 0 it goes on at once to FREE (R141). -/
def Position.toWrapup (x : Position) (now : Time) (wrapTicks : Nat) : Position :=
  if wrapTicks = 0 then x.toFree now
  else { x.cleared with state := .wrapup, wrapTimer := some (now + BitVec.ofNat 32 wrapTicks) }

/-- A position record written; dispatch is told when it is eligible (R132). -/
def State.placePosition (p : Fin 16) (x : Position) (s : State) : State :=
  let s := s.setPosition p x
  if x.eligible then s.wantDispatch else s

/-- An offer timer is removed (R136, R137 step 1). -/
def removeOfferTimer (p : Fin 16) : Op Unit := do
  let x ← readPosition p
  modify (fun s => s.setPositionTimers p { x with offerTimer := none })

/-- A ring timer is removed (R147 step 1, R148). -/
def removeRingTimer (p : Fin 16) : Op Unit := do
  let x ← readPosition p
  modify (fun s => s.setPositionTimers p { x with ringTimer := none })

/-- A position becomes FREE (R130). -/
def freePosition (p : Fin 16) : Op Unit := do
  let x ← readPosition p
  modify (fun s => s.placePosition p (x.toFree s.time))

/-- A party of an ended call goes to WRAPUP (R139, R141). -/
def wrapupPosition (p : Fin 16) : Op Unit := do
  let x ← readPosition p
  modify (fun s => s.placePosition p (x.toWrapup s.time s.wrapTicks))

/-- An offer to a position ends with an outcome, and the position becomes FREE (R138). -/
def endOffer (p : Fin 16) (call : Nat) (outcome : OfferOutcome) : Op Unit := do
  let x ← readPosition p
  modify (fun s => s.placePosition p { x.toFree s.time with lastOffer := some { call, outcome } })

/-- A held call leaves its holder's list; a FREE position that then holds none becomes eligible (R130, R139). -/
def dropHeld (p : Fin 16) (call : Nat) : Op Unit := do
  let x ← readPosition p
  modify (fun s => s.placePosition p { x with held := x.held.erase call })

/-- What the outcome of an offer is when its call ends with a cause (R138; ISOLATE_POST: log entry 10). -/
def EndCause.offerOutcome : EndCause → OfferOutcome
  | .abandoned | .callerHungUp => .callerGone
  | .clearedByOperator | .noAnswer | .postLost | .lineFault | .dropped | .stopped => .withdrawn

/-- The dispatcher acts on the positions of an ended call by its former state (R139); of two parties the primary one is
taken first (log entry 52). -/
def endPositions (c : Call) (cause : EndCause) : Op Unit :=
  match c.state with
  | .connecting | .active | .retrieving => c.parties.forM wrapupPosition
  | .offered => c.parties.forM (fun p => endOffer p c.number cause.offerOutcome)
  | .ringing => c.parties.forM freePosition
  | .held =>
    match c.holder with
    | some p => dropHeld p c.number
    | none => pure ()
  | .reserved | .queued | .ended => pure ()

end Sys2Proof.Machine
end

