-- ==== Sys2Proof/Machine/Calls.lean ====
section
/-! DEFINITION. The call table and queue: overflow (R104), the call queue (R96), the ending step (R99, R100), deferral
and invitation (R106 to R109), registration (R92 to R95), the location snapshot (R64), identity (R53), hook states
(R101, R147) and the outcomes of CONNECT (R102). -/

namespace Sys2Proof.Machine

/-! ### Overflow and the call queue -/

/-- The re-announcement timer started now, or none when the interval is 0 (R105). -/
def State.reannounceExpiry (s : State) : Option Time :=
  if s.reannounceTicks = 0 then none else some (s.after s.reannounceTicks)

/-- The OVERFLOW flag takes a value: the pin and the state word follow, the engine is listed, and the re-announcement
timer starts or is discarded (R104, R105). -/
def State.setOverflow (b : Bool) (s : State) : State :=
  ({ s with calls := { s.calls with overflow := b, reannounce := if b then s.reannounceExpiry else none } } :
    State).writeStateWord.reportEngine

/-- Overflow is judged with the QUEUED count (R104). -/
def State.judgeOverflow (s : State) : State :=
  if s.calls.overflow then (if s.queuedCount ≤ s.lowMark then s.setOverflow false else s)
  else (if s.highMark ≤ s.queuedCount then s.setOverflow true else s)

/-- Arrival sequence of a call record. -/
def State.sequenceOf (s : State) (r : Fin 64) : Sequence :=
  match s.call r with
  | some c => c.arrivalSeq.getD 0
  | none => 0

/-- A record put into the call queue by its arrival sequence (R96). -/
def State.insertBySequence (s : State) (r : Fin 64) : List (Fin 64) → List (Fin 64)
  | [] => [r]
  | q :: rest => if earlier (s.sequenceOf r) (s.sequenceOf q) then r :: q :: rest else q :: s.insertBySequence r rest

/-- A QUEUED call joins the call queue (R96): the QUEUED count changes (R164). -/
def State.joinQueue (r : Fin 64) (s : State) : State :=
  ({ s with calls := { s.calls with queue := s.insertBySequence r s.calls.queue } } : State).reportCounts

/-- A call leaves the call queue (R96). -/
def State.leaveQueue (r : Fin 64) (s : State) : State :=
  ({ s with calls := { s.calls with queue := s.calls.queue.erase r } } : State).reportCounts

/-- An OFFERED call whose channel has been freed returns to QUEUED by its arrival sequence, is reported, and overflow is
judged (R136 step 2, R163); dispatch is told (R132). -/
def State.returnToQueue (r : Fin 64) (s : State) : State :=
  let s := (s.modifyCall r (fun c => { c with state := .queued, parties := [] })).reportCall r
  (s.joinQueue r).judgeOverflow.wantDispatch

/-! ### Deferral list -/

/-- The length of the deferral list changes (R164). -/
def State.setDeferrals (l : List Deferral) (s : State) : State :=
  let old := s.calls.deferrals.length
  let s := { s with calls := { s.calls with deferrals := l } }
  if old = l.length then s else s.reportCounts

/-- A post leaves the deferral list and its deferred flag is cleared (R109). -/
def State.removeDeferral (i : Fin 256) (s : State) : State :=
  let s := s.setDeferrals (s.calls.deferrals.filter (fun d => d.post != i))
  s.setPost i { s.post i with deferred := false }

/-- A post moves to the tail of the deferral list, keeping its reason (R108). -/
def State.deferralToTail (i : Fin 256) (s : State) : State :=
  s.setDeferrals (s.calls.deferrals.filter (fun d => d.post != i) ++ s.calls.deferrals.filter (fun d => d.post == i))

/-- A post is deferred (R106). -/
def State.defer (i : Fin 256) (reason : DeferralReason) (s : State) : State :=
  if s.calls.deferrals.any (fun d => d.post == i) then
    s.setDeferrals (s.calls.deferrals.map (fun d => if d.post == i then { d with reason } else d))
  else
    let s := s.setDeferrals (s.calls.deferrals ++ [{ post := i, reason }])
    s.setPost i { s.post i with deferred := true }

/-! ### The ending step -/

/-- A RELEASE is pended when a call of a former state ends with a cause (R100). -/
def EndCause.releases (cause : EndCause) (former : CallState) (post : PostState) : Bool :=
  match cause with
  | .clearedByOperator | .noAnswer | .dropped => true
  | .callerHungUp | .abandoned | .lineFault => false
  | .postLost => former != .reserved
  | .stopped => post != .unreachable && post != .silent

/-- The ending step of a call (R99). A call in ENDED ignores it (R91). -/
def endCall (r : Fin 64) (cause : EndCause) : Op Unit := withCall r fun c => do
  if c.state = .ended then pure () else do
    modify (fun s =>
      let s := s.setCall r { c with state := .ended, endCause := some cause }
      if c.state = .queued then s.leaveQueue r else s)
    if c.channel.isSome then freeCallChannel r else pure ()
    endPositions c cause
    modify (fun s => s.modifyCall r (fun c => { c with parties := [], holder := none }))
    let p ← readPost c.post
    modify (fun s => if p.liveCall = some c.number then s.setPost c.post { p with liveCall := none } else s)
    if cause.releases c.state p.state then pend c.post .release (some c.number) else pure ()
    memberEnded c
    modify (fun s => if c.state = .queued then s.judgeOverflow else s)
    if (c.state = .connecting ∨ c.state = .active ∨ c.state = .retrieving) ∧ p.side = .far then
      farCallLeft (postSegment c.post) else pure ()
    modify (fun s => s.reportCall r)

/-- The record RESERVED for a post ends with a cause (R109). -/
def endReserved (i : Fin 256) (cause : EndCause) : Op Unit := do
  let s ← get
  match s.reservedFor i with
  | some r => endCall r cause
  | none => pure ()

/-! ### Identity and naming -/

/-- Judgement of a reported identity against a post's directory shadow entry (R53). A drop above the configured drop count
is judged by its entry too (log entry 42). -/
def State.judge (s : State) (i : Fin 256) (id : Option Identity) : IdentityMatch :=
  match id with
  | none => .unread
  | some x => if s.entryInUse i then (if x = entryIdentity (s.entry i).words then .same else .differs) else .unread

/-- A post record written with a reported identity and its judgement; a judgement that gives MISMATCH anew, or for
another code, records WRONG_IDENTITY (R53). -/
def State.writeJudged (i : Fin 256) (p : Post) (id : Option Identity) (s : State) : State :=
  let old := s.post i
  let m := s.judge i id
  let s' := s.setPost i { p with identity := id, identityMatch := m }
  if m = .differs ∧ (old.identityMatch ≠ .differs ∨ old.identity ≠ id) then
    s'.recordFault (segmentSlot (postSegment i)) .wrongIdentity ((postDrop i).val + 1) ((id.getD 0).setWidth 32)
  else s'

/-- The location snapshot of a post (R64): absent for an unconfigured drop. -/
def State.snapshot (s : State) (i : Fin 256) : Option Snapshot :=
  if s.configured i then
    let w := (s.entry i).words
    match (s.post i).identityMatch, entryCarriageway w with
    | .unread, _ | _, none => none
    | m, some carriageway =>
      some { carriageway, chainage := entryChainage w, kind := entryKind w, critical := entryCritical w, confirmed := m == .same }
  else none

/-! ### Numbers -/

/-- The next call number that no record in use holds, and the counter after it (R94). -/
def State.nextCallNumber (s : State) : Nat × Nat :=
  let n := ((List.range 65).map (wrapNumber 65535 s.calls.nextNumber)).find? (fun n => (s.callNumbered n).isNone)
  let n := n.getD s.calls.nextNumber
  (n, wrapNumber 65535 n 1)

/-- An empty record of a number, for a post (R93, R107, R146). -/
def Call.fresh (number : Nat) (post : Fin 256) (kind : CallKind) (state : CallState) : Call :=
  { number, kind, requestType := none, post, snapshot := none, arrivalTime := none, arrivalSeq := none, incident := none,
    state, channel := none, parties := [], holder := none, declinedBy := [], answered := false, reRegistered := false,
    far := false, endCause := none, corrupt := false }

/-- A free record takes the next call number (R94); the records in use change (R164). -/
def State.takeRecord (r : Fin 64) (post : Fin 256) (kind : CallKind) (state : CallState) (s : State) : State :=
  let n := s.nextCallNumber
  let s := { s with calls := { s.calls with nextNumber := n.2 } }
  (s.setCall r (Call.fresh n.1 post kind state)).reportCounts

/-! ### Invitation -/

/-- A deferral list entry qualifies for a record come free (R107). -/
def State.qualifies (s : State) (d : Deferral) : Bool :=
  (s.reservedFor d.post).isNone && ((s.post d.post).state == .present || (s.post d.post).state == .unknown)
    && (d.reason == .tableFull || !s.calls.overflow)

/-- A record has come free: in RUN it is RESERVED for the first qualifying deferred post, and INVITE is pended to that
post (R103, R107). The kind of a RESERVED record is INCOMING (log entry 44). -/
def inviteInto (r : Fin 64) : Op Unit := do
  let s ← get
  if s.inRun then
    match s.calls.deferrals.find? s.qualifies with
    | none => pure ()
    | some d => do
      set (s.takeRecord r d.post .incoming .reserved)
      let s ← get
      pend d.post .invite ((s.call r).map (fun c => c.number))
      modify (fun s => s.reportCall r)
  else pure ()

/-! ### Registration -/

/-- How a request reached the call table (5.2). -/
inductive RequestSource where
  | window | ident | inviteDone
deriving DecidableEq, Repr

/-- The message id of a REGISTERED answer (R93 step 7). -/
def State.registeredMessage (s : State) (type : RequestType) : MessageId :=
  if s.calls.overflow && type == .emergency then .busyWait else .wait

/-- A registered call is clustered when its snapshot is present on carriageway A or B (R93 step 6, R114). -/
def clusterCall (r : Fin 64) : Op Unit := withCall r fun c =>
  match c.snapshot, c.arrivalSeq with
  | some x, some q =>
    if x.carriageway = .x then pure ()
    else do
      let n ← assignIncident x.carriageway x.chainage { call := c.number, sequence := q }
      modify (fun s => s.modifyCall r (fun c => { c with incident := n }))
  | _, _ => pure ()

/-- Steps 2 to 5 of registration into a record already taken (R93). -/
def State.fillRegistration (r : Fin 64) (i : Fin 256) (type : RequestType) (far again : Bool) (s : State) : State :=
  match s.call r with
  | none => s
  | some c =>
    let x := s.snapshot i
    let s := s.setCall r { Call.fresh c.number i .incoming .queued with
      requestType := some type, snapshot := x, arrivalTime := some s.time, arrivalSeq := some s.calls.nextSequence
      reRegistered := again, far := far }
    let s := { s with calls := { s.calls with nextSequence := s.calls.nextSequence + 1 } }
    let s := if x.isSome && (s.post i).identityMatch == .differs then
        s.recordFault (segmentSlot (postSegment i)) .wrongIdentity ((postDrop i).val + 1) (((s.post i).identity.getD 0).setWidth 32)
      else s
    let s := s.joinQueue r
    let s := s.setPost i { s.post i with liveCall := some c.number }
    if (s.post i).deferred then s.removeDeferral i else s

/-- Registration of a call into a record, RESERVED or free (R93): the answer of step 7. -/
def registerCall (r : Fin 64) (i : Fin 256) (type : RequestType) (far again : Bool) (source : RequestSource) :
    Op (Option PartTelegram) := do
  let _ ← readCall r
  modify (fun s =>
    let s := if (s.call r).isNone then s.takeRecord r i .incoming .queued else s
    s.fillRegistration r i type far again)
  clusterCall r
  let s ← get
  let answer := PartTelegram.registered (s.registeredMessage type)
  match source with
  | .window => pure ()
  | .ident | .inviteDone => pend i (.play .wait) ((s.call r).map (fun c => c.number))
  modify (fun s => ((s.judgeOverflow).reportCall r).wantDispatch)
  pure (some answer)

/-- The overflow rule (R92 row 5). -/
def State.overflowRule (s : State) (type : RequestType) : Bool := s.calls.overflow && type != .emergency

/-- A request is decided by the first row of R92 that holds; the answer is for a REQUEST. -/
def decideRequest (i : Fin 256) (type : RequestType) (far again : Bool) (source : RequestSource) :
    Op (Option PartTelegram) := do
  let p ← readPost i
  let s ← get
  if p.liveCall.isSome then pure (some (.registered (s.registeredMessage type)))
  else if !s.inRun then pure (some .deferred)
  else
    match s.reservedFor i with
    | some r => registerCall r i type far again source
    | none =>
      if source = .inviteDone then pure none
      else if s.overflowRule type then do
        set (s.defer i .overflow)
        pure (some .deferred)
      else
        match s.freeCall with
        | some r => registerCall r i type far again source
        | none => do
          set (s.defer i .tableFull)
          pure (some .deferred)

/-! ### Hook states and CONNECT -/

/-- Off-hook at a RINGING callback's post: the caller has answered (R147). -/
def callbackAnswered (r : Fin 64) : Op Unit := withCall r fun c =>
  match c.parties, c.channel with
  | p :: _, some ch => do
    let x ← readPosition p
    modify (fun s => (s.modifyCall r (fun c => { c with state := .connecting })).reportCall r)
    modify (fun s => s.setPosition p { x.cleared with state := .active, current := some c.number })
    connectRequest p r
    pend c.post (.connect ch) (some c.number)
  | _, _ => pure ()

/-- The hook state of an IDENT, STATUS or DONE reaches the call table (R101, R109, R147). -/
def hookReport (i : Fin 256) (hook : Hook) : Op Unit := do
  let s ← get
  let p := s.post i
  match p.liveCall.bind s.callNumbered with
  | some r => withCall r fun c =>
    match hook, c.state with
    | .on, .ringing => pure ()
    | .off, .ringing => callbackAnswered r
    | .on, _ => endCall r (if c.answered then .callerHungUp else .abandoned)
    | .off, _ => pure ()
  | none =>
    if hook = .on ∧ p.liveCall = none ∧ p.deferred then do
      endReserved i .abandoned
      modify (fun s => s.removeDeferral i)
    else pure ()

/-- A DONE to a CONNECT showing off-hook makes its call ACTIVE (R102); on-hook has ended it as a hang-up already. -/
def connectDone (n : Nat) (hook : Hook) : Op Unit := do
  let s ← get
  match s.callNumbered n with
  | none => pure ()
  | some r => withCall r fun c => do
    if hook = .off ∧ (c.state = .connecting ∨ c.state = .retrieving) then do
      modify (fun s => s.setCall r { c with state := .active, answered := true })
      channelInUse r
      if c.answered then pure () else memberAnswered c
      modify (fun s => s.reportCall r)
    else pure ()

/-- A miss on a CONNECT ends its call POST_LOST (R102). -/
def connectMissed (n : Nat) : Op Unit := do
  let s ← get
  match s.callNumbered n with
  | none => pure ()
  | some r => withCall r fun c => do
    if c.state = .connecting ∨ c.state = .retrieving then endCall r .postLost else pure ()

/-- A miss on the INVITE of a RESERVED record: the record ends POST_LOST and the post waits again at the tail (R108). -/
def inviteMissed (i : Fin 256) (n : Nat) : Op Unit := do
  let s ← get
  match s.reservedFor i with
  | none => pure ()
  | some r => withCall r fun c => do
    if c.number = n then do
      endCall r .postLost
      modify (fun s => s.deferralToTail i)
    else pure ()

/-! ### Loss of a post -/

/-- The live call of a lost post is withdrawn or ended by its state (R75). -/
def callOfLostPost (i : Fin 256) : Op Unit := do
  let s ← get
  match (s.post i).liveCall.bind s.callNumbered with
  | none => pure ()
  | some r => withCall r fun c =>
    match c.state with
    | .queued | .reserved | .ended => pure ()
    | .offered => do
      freeCallChannel r
      modify (fun s => s.returnToQueue r)
      c.parties.forM (fun p => endOffer p c.number .withdrawn)
    | .connecting | .active | .held | .retrieving | .ringing => endCall r .lineFault

/-- The place of a lost post on the deferral list (R76, R109). -/
def deferralOfLostPost (i : Fin 256) : Op Unit := do
  let s ← get
  if (s.post i).deferred then do
    let reserved := (s.reservedFor i).isSome
    endReserved i .lineFault
    modify (fun s =>
      if (s.post i).state == .isolated then s.removeDeferral i
      else if reserved then s.deferralToTail i else s)
  else pure ()

end Sys2Proof.Machine
end

