-- ==== Sys2Proof/Machine/Supervisor.lean ====
section
/-! DEFINITION. The fault supervisor: segments leaving service (R73), segment faults and their modes (R69 to R71),
telegram errors (R27), post misses and silent posts (R52, R74), break analysis (R78 to R83) and the far limit
(R83, R194). -/

namespace Sys2Proof.Machine

/-! ### Leaving service -/

/-- A post is lost to its calls (R75, R76). -/
def lostPost (i : Fin 256) : Op Unit := do
  callOfLostPost i
  deferralOfLostPost i

/-- A post that is UNKNOWN, PRESENT or SILENT becomes UNREACHABLE and its pending list is emptied (R41, R73). -/
def State.makeUnreachable (i : Fin 256) (s : State) : State :=
  let p := s.post i
  match p.state with
  | .unknown | .present | .silent => (s.setPost i { p with state := .unreachable }).emptyCommands i true
  | .unreachable | .isolated => s

/-- One post of a segment leaving service: it is added to the posts that became UNREACHABLE (R73 step 3). -/
def unreachablePost (lost : List (Fin 256)) (i : Fin 256) : Op (List (Fin 256)) := do
  let p ← readPost i
  match p.state with
  | .unknown | .present | .silent => do
    modify (fun s => s.makeUnreachable i)
    pure (lost ++ [i])
  | .unreachable | .isolated => pure lost

/-- Both feeds of a segment go off: its sides go to OFF, its ends to CLEAR, and its break is removed (R73 steps 1
and 2). -/
def State.feedsOff (g : Fin 8) (x : Segment) (s : State) : State :=
  let s := s.setSegment g { x with stableTimer := none, farFeed := false, broken := none }
  let s := (s.updateLine (nearOf g) LineSide.toOff).updateLine (farOf g) LineSide.toOff
  (s.unwatchEnd (nearOf g)).unwatchEnd (farOf g)

/-- A segment leaves service, with its record as it is to stand (R73). Its posts are taken in rising drop order (log entry
43). -/
def leaveService (g : Fin 8) (x : Segment) : Op Unit := do
  modify (fun s => s.feedsOff g x)
  let lost ← (segmentPosts g).foldlM unreachablePost []
  lost.forM lostPost

/-- A used segment enters INHIBITED without a timer as the engine enters STANDBY or FAILED, or as a restart ends in
STOPPING (R89): no calls remain, and no record is read to be acted on. One that is INHIBITED already, with nothing changed
in it, is not listed (R67, R170). -/
def State.inhibitSegmentNow (g : Fin 8) (s : State) : State :=
  let s := s.feedsOff g { s.segment g with state := .inhibited, retryTimer := none }
  (segmentPosts g).foldl (fun s i => s.makeUnreachable i) s

/-- Every used segment enters INHIBITED, in rising segment order (R89, R189; log entry 52). -/
def State.inhibitUsed (s : State) : State :=
  (List.finRange 8).foldl (fun s g => if segmentUsed s.path.anchor g then s.inhibitSegmentNow g else s) s

/-! ### Segment faults -/

/-- The two fault classes of a segment (4.2). -/
inductive SegmentFault where
  | short | errors
deriving DecidableEq, Repr

/-- The class A kind of a segment fault (R69). -/
def SegmentFault.kind : SegmentFault → FaultKind
  | .short => .lineShort | .errors => .telegramErrors

/-- The response mode of a segment fault as it stands. -/
def State.modeOf (s : State) : SegmentFault → SegmentMode
  | .short => s.shortMode | .errors => s.errorsMode

/-- Code of a line side or end as a fault object (12.5). -/
def Side.code : Side → Nat
  | .near => 0 | .far => 1

/-- The segment record that mode RETRY leaves (R71). -/
def State.retryOutcome (s : State) (x : Segment) : Segment :=
  if 1 ≤ s.retryLimit && s.retryLimit ≤ x.retryCount then { x with state := .latched, retryTimer := none }
  else { x with
    state := .inhibited, retryCount := saturate255 x.retryCount, retryTimer := some (s.after s.retryTicks) }

/-- A segment fault reaches the fault supervisor (R69, R70, R71). -/
def segmentFault (l : LineId) (f : SegmentFault) : Op Unit := do
  let s ← get
  let x := s.segment l.segment
  if x.serving ∧ s.modeOf f ≠ .off then do
    modify (fun s => s.recordFault (segmentSlot l.segment) f.kind (Side.code l.side) 0)
    if s.inRun then
      match s.modeOf f with
      | .latch => leaveService l.segment { x with state := .latched, retryTimer := none }
      | .retry => leaveService l.segment (s.retryOutcome x)
      | .report | .off => pure ()
    else pure ()
  else pure ()

/-- A telegram error of a line side; at the limit TELEGRAM_ERRORS is raised and the count returns to 0 (R27). -/
def countError (l : LineId) : Op Unit := do
  let s ← get
  let n := (s.line l).errors + 1
  if s.errorLimit ≤ n then do
    modify (fun s => s.updateLine l (fun x => { x with errors := 0 }))
    segmentFault l .errors
  else modify (fun s => s.updateLine l (fun x => { x with errors := n }))

/-! ### Breaks -/

/-- A member drop of the NEAR side (R78). -/
def State.member (s : State) (g : Fin 8) (d : Fin 32) : Bool :=
  let i := postIndex g d
  s.configured i && (s.post i).state != .isolated && (s.post i).side == .near

/-- The member drops, highest first. -/
def State.members (s : State) (g : Fin 8) : List (Fin 32) := ((List.finRange 32).filter (s.member g)).reverse

/-- The post of a member drop belongs to a silent run: SILENT, or UNREACHABLE beyond a break held (R78). -/
def State.inSilentRun (s : State) (g : Fin 8) (d : Fin 32) : Bool :=
  let i := postIndex g d
  (s.post i).state == .silent || ((s.post i).state == .unreachable && s.beyondBreak i)

/-- The run of a segment, highest drop first (R78). -/
def State.silentRun (s : State) (g : Fin 8) : List (Fin 32) := (s.members g).takeWhile (s.inSilentRun g)

/-- The highest PRESENT member drop below the run (R79). -/
def State.nearLimitBelow (s : State) (g : Fin 8) (first : Fin 32) : Option (Fin 32) :=
  (s.members g).find? (fun d => d < first && (s.post (postIndex g d)).state == .present)

/-- BREAK is recorded for the break a segment holds (R79, R172). -/
def State.recordBreak (g : Fin 8) (s : State) : State :=
  match s.broken g with
  | some b => s.recordFault (segmentSlot g) .lineBreak (b.firstRun.val + 1) (BitVec.ofNat 32 (dropNumber b.nearLimit))
  | none => s

/-- The drops become UNREACHABLE and are lost to their calls (R79, R83), in the order of the list, which is the run's with
the highest drop first (log entry 43). -/
def loseDrops (g : Fin 8) (drops : List (Fin 32)) : Op Unit := do
  let lost ← (drops.map (postIndex g)).foldlM unreachablePost []
  lost.forM lostPost

/-- A break on a looped segment under FEED is fed from the FAR end (R81); any other is held CUT (R80). -/
def State.proceedBreak (g : Fin 8) (drops : List (Fin 32)) (s : State) : State :=
  match s.broken g with
  | none => s
  | some b =>
    if segmentLooped s.path.anchor g && s.breakMode == .feed then
      (s.setSegment g { s.segment g with farFeed := true, broken := some { b with state := .fed } }).startFarSweep g drops
    else s.setBreak g { b with state := .cut, restoreTimer := some (s.after s.restoreTicks) }

/-- A break is suspected: the record is built, BREAK is recorded, and the posts of the run are lost (R79). -/
def suspectBreak (g : Fin 8) (run : List (Fin 32)) (first : Fin 32) : Op Unit := do
  modify (fun s =>
    let b : Break :=
      { state := .cut, firstRun := first, nearLimit := s.nearLimitBelow g first, farLimit := none, interval := none,
        probeList := [], restoreTimer := none }
    (s.setBreak g b).recordBreak g)
  loseDrops g run
  modify (fun s => s.proceedBreak g run)

/-- A break is extended by a longer run (R83). -/
def extendBreak (g : Fin 8) (run : List (Fin 32)) (first : Fin 32) (old : Fin 32) : Op Unit := do
  let added := run.filter (fun d => d < old)
  loseDrops g added
  modify (fun s =>
    match s.broken g with
    | none => s
    | some b =>
      let list := if b.state == .fed then b.probeList ++ added.filter (fun d => !b.probeList.contains d) else b.probeList
      (s.setBreak g { b with firstRun := first, nearLimit := s.nearLimitBelow g first, probeList := list }).recordBreak g)

/-- Break analysis of a segment (R78). -/
def analyseBreak (g : Fin 8) : Op Unit := do
  let s ← get
  let run := s.silentRun g
  if s.inRun ∧ (s.segment g).state = .active ∧ s.breakMode ≠ .off then
    match run.getLast?, s.broken g with
    | none, _ => pure ()
    | some first, none => if s.breakSpan ≤ run.length then suspectBreak g run first else pure ()
    | some first, some b =>
      if b.state ≠ .restorePending ∧ first < b.firstRun then extendBreak g run first b.firstRun else pure ()
  else pure ()

/-! ### The far limit -/

/-- The lowest drop whose post has side FAR and is PRESENT (R194). -/
def State.lowestFar (s : State) (g : Fin 8) : Option (Fin 32) :=
  (List.finRange 32).find? (fun d => (s.post (postIndex g d)).side == .far && (s.post (postIndex g d)).state == .present)

/-- A post that had side FAR takes side NEAR, unless it was handed over already, as the feed has lost its last PRESENT
post; a SILENT one becomes UNREACHABLE (R194). -/
def takeNearAgain (i : Fin 256) : Op Unit := do
  takeNear i
  modify (fun s => if (s.post i).state == .silent then s.makeUnreachable i else s)

/-- No post with side FAR is PRESENT any more (R194). In FED the drops on the FAR service list change side first, in their
order on it (R41), and the others in rising drop order (log entry 52), at the loss itself, not at the end of HALTING (log
entry 56); whatever was pending, every post that had side FAR and is SILENT becomes UNREACHABLE. -/
def farLost (g : Fin 8) (b : Break) : Op Unit :=
  match b.state with
  | .fed => do
    let s ← get
    stopFarFeed g
    handOverFar g
    (s.farPosts g).forM takeNearAgain
    modify (fun s => s.setBreak g { b with state := .cut, farLimit := none, probeList := [] })
  | .restorePending => modify (fun s => s.setBreak g { b with farLimit := none })
  | .cut => pure ()

/-- The far limit follows the loss of the post at the far limit drop (R194). -/
def followFar (i : Fin 256) : Op Unit := do
  let s ← get
  let g := postSegment i
  match s.broken g with
  | none => pure ()
  | some b =>
    if b.state = .cut ∨ (s.post i).side ≠ .far ∨ b.farLimit ≠ some (postDrop i) then pure ()
    else
      match s.lowestFar g with
      | none => farLost g b
      | some d => set (s.setBreak g { b with farLimit := some d })

/-- A post heard on the FAR side below the far limit lowers it (R83, R194). -/
def State.lowerFar (i : Fin 256) (s : State) : State :=
  let g := postSegment i
  match s.broken g with
  | none => s
  | some b =>
    match b.farLimit with
    | some d => if b.state != .cut && postDrop i < d then s.setBreak g { b with farLimit := some (postDrop i) } else s
    | none => s

/-! ### Misses and silent posts -/

/-- A post made ISOLATED under the POST_SILENT mode ISOLATE (R74, R76). -/
def isolateSilent (i : Fin 256) : Op Unit := do
  let p ← readPost i
  modify (fun s => s.setPost i { p with state := .isolated })
  lostPost i

/-- A post has become SILENT: the mode is applied, its call and deferral are dealt with, and break analysis runs (R74). -/
def postSilent (i : Fin 256) : Op Unit := do
  let s ← get
  let mode := s.silentMode
  if mode = .off then pure ()
  else modify (fun s => s.recordFault (segmentSlot (postSegment i)) .postSilent ((postDrop i).val + 1) 0)
  lostPost i
  if mode = .isolate then isolateSilent i else pure ()
  followFar i
  analyseBreak (postSegment i)

/-- A miss for a post (R52). -/
def postMiss (i : Fin 256) : Op Unit := do
  let p ← readPost i
  let s ← get
  let q := { p with misses := min 15 (p.misses + 1) }
  let reached := s.postMissLimit ≤ q.misses
  match p.state with
  | .unknown | .present =>
    if reached then do
      modify (fun s => (s.setPost i { q with state := .silent }).emptyCommands i true)
      postSilent i
    else modify (fun s => s.setPost i q)
  | .isolated => modify (fun s => let s := s.setPost i q; if reached then s.emptyCommands i false else s)
  | .silent | .unreachable => modify (fun s => s.setPost i q)

end Sys2Proof.Machine
end

