-- ==== Sys2Proof/Machine/Dispatcher.lean ====
section
/-! DEFINITION. The dispatch arbiter: class and rank (R97, R98), the dispatch run (R133) and the offer (R134). -/

namespace Sys2Proof.Machine

/-! ### Class and rank -/

/-- The call is the lead of the incident whose number it carries (R121). -/
def State.leadsIncident (s : State) (c : Call) : Bool :=
  match (c.incident.bind s.incidentNumbered).bind s.incident with
  | some x => x.isLead c.number c.arrivalSeq
  | none => false

/-- A snapshot of kind TUNNEL, or with the critical flag set. -/
def Snapshot.urgent (x : Snapshot) : Bool := x.kind == .tunnel || x.critical

/-- The base class of a call (R97). A CALLBACK has no request type and is never queued. -/
def State.baseClass (s : State) (c : Call) : Nat :=
  match c.requestType with
  | some .assist | some .engineer => 4
  | some .emergency | none =>
    if (c.snapshot.map Snapshot.urgent).getD false then 1
    else if s.leadsIncident c || c.incident.isNone then 2
    else 3

/-- Steps of promotion that a waiting time gives (R98). -/
def promotionSteps (waited interval : Nat) : Nat := if interval = 0 then 0 else waited / interval

/-- The effective class of a base class after a number of steps (R98). -/
def effectiveClass (base steps : Nat) : Nat := max (if base = 1 then 1 else 2) (base - steps)

/-- The effective class of a call as it stands now (R98). -/
def State.classOf (s : State) (c : Call) : Nat :=
  if s.promoteTicks = 0 then s.baseClass c
  else effectiveClass (s.baseClass c) (promotionSteps (elapsed s.time (c.arrivalTime.getD s.time)) s.promoteTicks)

/-- Class of a call record; 5 for a record that holds no call. -/
def State.classAt (s : State) (r : Fin 64) : Nat :=
  match s.call r with
  | some c => s.classOf c
  | none => 5

/-- The call queue in rank order: by class, and within a class by arrival sequence, which is the queue's order
(R96, R98). -/
def State.ranked (s : State) : List (Fin 64) :=
  [1, 2, 3, 4].flatMap (fun k => s.calls.queue.filter (fun r => s.classAt r == k))

/-! ### Pairing -/

/-- Idle time of a position (R130). -/
def State.idleTime (s : State) (p : Fin 16) : Nat := elapsed s.time (s.position p).freeSince

/-- The longest idle of some positions; equal idle times go to the lower number (R133). -/
def State.longestIdle (s : State) : List (Fin 16) → Option (Fin 16)
  | [] => none
  | p :: rest =>
    match s.longestIdle rest with
    | none => some p
    | some q => if s.idleTime q ≤ s.idleTime p then some p else some q

/-- The position that an offer of a call would go to (R133). -/
def State.candidate (s : State) (c : Call) : Option (Fin 16) :=
  if s.offerable c then s.longestIdle (s.eligiblePositions.filter (fun p => !c.declinedBy.contains p)) else none

/-- A QUEUED call leaves the queue for a position in the state given and is reported, and overflow is judged (R134 step 2,
R145, R163). -/
def State.takeFromQueue (r : Fin 64) (p : Fin 16) (st : CallState) (s : State) : State :=
  (((s.modifyCall r (fun c => { c with state := st, parties := [p] })).reportCall r).leaveQueue r).judgeOverflow

/-- An offer of a call to a position (R134). -/
def offer (r : Fin 64) (p : Fin 16) : Op Unit := withCall r fun c => do
  let x ← readPosition p
  reserveChannel (postSegment c.post) r
  modify (fun s => s.takeFromQueue r p .offered)
  modify (fun s => s.setPosition p { x with
    state := .offered, current := some c.number, offerTimer := some (s.after s.offerTicks) })

/-- One ranked call is paired, or passed over (R133). While some position is eligible the call's post is read to act on
(R48). -/
def pairCall (r : Fin 64) : Op Unit := do
  let s ← get
  if s.eligiblePositions.isEmpty then pure ()
  else withCall r fun c => do
    let _ ← readPost c.post
    match s.candidate c with
    | some p => offer r p
    | none => pure ()

/-- The incident record of a queued call is read to rank it. -/
def readRank (r : Fin 64) : Op Unit := withCall r fun c => do
  let s ← get
  match c.incident.bind s.incidentNumbered with
  | some k => do let _ ← readIncident k
  | none => pure ()

/-- A dispatch run (R133). -/
def dispatchRun : Op Unit := do
  let s ← get
  if s.eligiblePositions.isEmpty then pure ()
  else do
    s.calls.queue.forM readRank
    s.ranked.forM pairCall

end Sys2Proof.Machine
end

