-- ==== Sys2Proof/Machine/Formats.lean ====
section
/-! DEFINITION. The formats that the part writes (12.1, 12.5, 12.6): codes, event records, fault records and the live
board. A word is built as a number of its fields and cut to 16 bits. -/

namespace Sys2Proof.Machine

/-! ### Codes (12.1) -/

/-- Call state codes. -/
def CallState.code : CallState → Nat
  | .reserved => 0 | .queued => 1 | .offered => 2 | .connecting => 3 | .active => 4 | .held => 5 | .retrieving => 6
  | .ringing => 7 | .ended => 8

/-- End cause codes. -/
def EndCause.code : EndCause → Nat
  | .clearedByOperator => 1 | .callerHungUp => 2 | .abandoned => 3 | .noAnswer => 4 | .postLost => 5 | .lineFault => 6
  | .dropped => 7 | .stopped => 8

/-- Call kind codes. -/
def CallKind.code : CallKind → Nat
  | .incoming => 0 | .callback => 1

/-- Request type codes. -/
def RequestType.code : RequestType → Nat
  | .emergency => 1 | .assist => 2 | .engineer => 3

/-- Post state codes. -/
def PostState.code : PostState → Nat
  | .unknown => 0 | .present => 1 | .silent => 2 | .unreachable => 3 | .isolated => 4

/-- Hook codes. -/
def Hook.code : Hook → Nat
  | .on => 0 | .off => 1

/-- Identity match codes; `same` is MATCH, `differs` MISMATCH. -/
def IdentityMatch.code : IdentityMatch → Nat
  | .unread => 0 | .same => 1 | .differs => 2

/-- Self-test codes. -/
def SelfTest.code : SelfTest → Nat
  | .untested => 0 | .running => 1 | .pass => 2 | .fail => 3

/-- Position state codes. -/
def PositionState.code : PositionState → Nat
  | .closed => 0 | .free => 1 | .offered => 2 | .dialling => 3 | .active => 4 | .wrapup => 5

/-- Last offer outcome codes. -/
def OfferOutcome.code : OfferOutcome → Nat
  | .timedOut => 1 | .withdrawn => 2 | .callerGone => 3 | .accepted => 4

/-- Incident state codes of the live board. -/
def IncidentState.code : IncidentState → Nat
  | .opened => 0 | .quiet => 1 | .closed => 2

/-- Incident state and cause code of an event record. -/
def Incident.causeCode (x : Incident) : Nat :=
  match x.state with
  | .opened => 0
  | .quiet =>
    match x.quietCause with
    | some .command => 2 | some .stopped => 3 | some .expired | none => 1
  | .closed =>
    match x.closeCause with
    | some .closedByCommand => 5 | some .stopped => 6 | some (.mergedInto _) => 7 | some .lapsed | none => 4

/-- Segment state codes. -/
def SegmentState.code : SegmentState → Nat
  | .unused => 0 | .sweep => 1 | .active => 2 | .inhibited => 3 | .latched => 4

/-- Break state codes. -/
def BreakState.code : BreakState → Nat
  | .cut => 1 | .fed => 2 | .restorePending => 3

/-- Carriageway codes. -/
def Carriageway.code : Carriageway → Nat
  | .a => 0 | .b => 1 | .x => 2

/-- Class A fault kind codes. -/
def FaultKind.code : FaultKind → Nat
  | .wrongIdentity => 1 | .selfTestFail => 2 | .supplyLow => 3 | .postSilent => 4 | .wrongResponder => 5
  | .telegramErrors => 6 | .lineShort => 7 | .lineBreak => 8 | .trespass => 9 | .producerInvalid => 10
  | .consumerInvalid => 11

/-- Class B cause codes (12.2). -/
def FaultCause.code : FaultCause → Nat
  | .recordCheck => 1 | .switchCheck => 2

/-- A number cut to a word. -/
def word (n : Nat) : Word := BitVec.ofNat 16 n

/-- The two words of a 32-bit number, high word first. -/
def twoWords (t : BitVec 32) : List Word := [t.extractLsb' 16 16, t.extractLsb' 0 16]

/-- A code of an optional value; absent is 0. -/
def optionCode {α : Type} (f : α → Nat) : Option α → Nat
  | none => 0
  | some x => f x

/-- A talk channel as its number, 0 when absent. -/
def channelNumber : Option (Fin 4) → Nat := optionCode (fun c => c.val + 1)

/-- An optional call or incident number, 0 when absent. -/
def numberOr : Option Nat → Nat := optionCode id

/-! ### Event records (12.5) -/

/-- Words 0 to 3 of an event record. -/
def eventHead (kind nibble count : Nat) (identity : Word) (time : Time) : List Word :=
  [word (kind * 2 ^ 12 + nibble * 2 ^ 8 + count), identity] ++ twoWords time

/-- The primary party shown in an event record: the first party, or the holder while HELD. -/
def Call.primary (c : Call) : Option (Fin 16) := if c.state = .held then c.holder else c.parties.head?

/-- The second party. -/
def Call.second (c : Call) : Option (Fin 16) := c.parties[1]?

/-- Event record of a call. -/
def callEvent (r : Fin 64) (c : Call) (count : Nat) (time : Time) : List Word :=
  eventHead 1 c.state.code count (word c.number) time ++
  [ word (optionCode EndCause.code c.endCause * 2 ^ 12 + c.kind.code * 2 ^ 11 + flagBit c.answered 10
      + flagBit c.snapshot.isSome 9 + flagBit ((c.snapshot.map (fun x => x.confirmed)).getD false) 8
      + flagBit c.reRegistered 7 + flagBit c.far 6 + r.val),
    word (c.post.val * 2 ^ 8 + optionCode RequestType.code c.requestType * 2 ^ 6 + channelNumber c.channel * 2 ^ 3
      + flagBit c.primary.isSome 2 + flagBit (c.state == .held && c.holder.isSome) 1 + flagBit c.second.isSome 0),
    word (numberOr c.incident * 2 ^ 8 + optionCode Fin.val c.primary * 2 ^ 4 + optionCode Fin.val c.second),
    (c.arrivalSeq.getD 0).extractLsb' 0 16 ]

/-- Event record of a post. -/
def postEvent (i : Fin 256) (p : Post) (count : Nat) (time : Time) : List Word :=
  eventHead 2 p.state.code count (word (p.barred * 2 ^ 8 + i.val)) time ++
  [ word (Side.code p.side * 2 ^ 15 + p.hook.code * 2 ^ 14 + p.identityMatch.code * 2 ^ 12 + p.selfTest.code * 2 ^ 10
      + flagBit p.supplyLow 9 + flagBit p.doorOpen 8 + flagBit p.requestPending 7 + flagBit p.deferred 6
      + flagBit p.testCancelled 5 + flagBit p.identity.isSome 4 + p.misses),
    word ((p.identity.getD 0).toNat / 65536), word (p.identity.getD 0).toNat, 0 ]

/-- Event record of a position. -/
def positionEvent (p : Fin 16) (x : Position) (count : Nat) (time : Time) : List Word :=
  eventHead 3 x.state.code count (word p.val) time ++
  [ word (x.misses * 2 ^ 13 + optionCode (fun o => OfferOutcome.code (LastOffer.outcome o)) x.lastOffer * 2 ^ 10
      + x.held.length * 2 ^ 8),
    word (numberOr x.current), word (optionCode LastOffer.call x.lastOffer), 0 ]

/-- The survivor's number of an incident merged into another, else 0. -/
def Incident.survivor (x : Incident) : Nat :=
  match x.closeCause with
  | some (.mergedInto n) => n
  | some .lapsed | some .closedByCommand | some .stopped | none => 0

/-- Event record of an incident. -/
def incidentEvent (x : Incident) (count : Nat) (time : Time) : List Word :=
  eventHead 4 (x.carriageway.code % 2 * 8 + x.causeCode) count (word (x.survivor * 2 ^ 8 + x.number)) time ++
  [ word (flagBit x.leadAnswered 15 + x.live * 2 ^ 8 + x.lo / 65536 * 2 ^ 4 + x.hi / 65536),
    word (optionCode Lead.call x.lead), word x.lo, word x.hi ]

/-- Break state code of a segment. -/
def Segment.breakCode (g : Segment) : Nat := optionCode (fun b => BreakState.code (Break.state b)) g.broken

/-- Event record of a segment. -/
def segmentEvent (n : Fin 8) (g : Segment) (count : Nat) (time : Time) : List Word :=
  let interval := g.broken.bind Break.interval
  let near := (interval.map Prod.fst).getD 0
  let far := (interval.map Prod.snd).getD 0
  eventHead 5 g.state.code count (word (g.retryCount * 2 ^ 8 + n.val)) time ++
  [ word (flagBit g.farFeed 15 + g.breakCode * 2 ^ 13 + flagBit interval.isSome 12
      + dropNumber (g.broken.map Break.firstRun) * 2 ^ 6 + dropNumber (g.broken.bind Break.nearLimit)),
    word (dropNumber (g.broken.bind Break.farLimit) * 2 ^ 10 + near / 65536 * 2 ^ 4 + far / 65536),
    word near, word far ]

/-- Event record of the engine. -/
def engineEvent (s : State) (count : Nat) (time : Time) : List Word :=
  eventHead 6 s.engine.state.code count 0 time ++
  [ word (flagBit s.calls.overflow 15 + flagBit s.engine.clamped 14 + s.engine.restartCount), word s.queuedCount, 0, 0 ]

/-- Fault record of a slot. -/
def faultEvent (owner : Fin 9) (f : FaultRecord) : List Word :=
  eventHead 7 f.kind.code f.repeats (word (f.lastObject * 2 ^ 8 + f.lastKind.code * 2 ^ 4 + owner.val)) f.lastTime
    ++ twoWords f.firstTime ++ twoWords f.lastDetail

/-- Event record of a report list object; a record that is free has none. -/
def State.eventRecord (s : State) (o : Obj) (count : Nat) (time : Time) : List Word :=
  match o with
  | .call r => match s.call r with | some c => callEvent r c count time | none => []
  | .post i => postEvent i (s.post i) count time
  | .position p => positionEvent p (s.position p) count time
  | .incident k => match s.incident k with | some x => incidentEvent x count time | none => []
  | .segment g => segmentEvent g (s.segment g) count time
  | .engine => engineEvent s count time

/-! ### The live board (12.6) -/

/-- Byte of a post in the post section. -/
def Post.byte (p : Post) : Nat :=
  p.state.code * 2 ^ 5 + Side.code p.side * 2 ^ 4 + p.hook.code * 2 ^ 3 + flagBit p.deferred 2 + flagBit p.liveCall.isSome 1
    + flagBit (p.selfTest == .fail || p.supplyLow || p.identityMatch == .differs) 0

/-- Word `n` of the post section: the posts of indices 2n and 2n + 1. -/
def State.postWord (s : State) (n : Fin 128) : Word :=
  word ((s.post ⟨2 * n.val, by omega⟩).byte * 2 ^ 8 + (s.post ⟨2 * n.val + 1, by omega⟩).byte)

/-- The position a call's board entry shows: primary party, holder while HELD, 0 in other states. -/
def Call.boardParty (c : Call) : Nat :=
  match c.state with
  | .offered | .connecting | .active | .retrieving | .ringing => optionCode Fin.val c.parties.head?
  | .held => optionCode Fin.val c.holder
  | .reserved | .queued | .ended => 0

/-- Board entry of a call record. -/
def callBoard : Option Call → List Word
  | none => [0, 0, 0]
  | some c =>
    [ word c.number,
      word (c.state.code * 2 ^ 12 + c.kind.code * 2 ^ 11 + flagBit c.answered 10 + flagBit c.reRegistered 9
        + flagBit c.far 8 + c.post.val),
      word (numberOr c.incident * 2 ^ 8 + channelNumber c.channel * 2 ^ 5 + c.boardParty) ]

/-- Board entry of a position. -/
def positionBoard (x : Position) : List Word :=
  [ word (x.state.code * 2 ^ 13 + x.misses * 2 ^ 10
      + optionCode (fun o => OfferOutcome.code (LastOffer.outcome o)) x.lastOffer * 2 ^ 7),
    word (numberOr x.current), word (numberOr x.held[0]?), word (numberOr x.held[1]?) ]

/-- The call number that a channel's board word shows. -/
def State.channelWord (s : State) (g : Fin 8) (c : Fin 4) : Word := word (numberOr (s.channel (channelIndex g c)).call)

/-- Board entry of a segment. -/
def State.segmentBoard (s : State) (n : Fin 8) : List Word :=
  let g := s.segment n
  [ word (g.state.code * 2 ^ 13 + flagBit g.farFeed 12 + g.breakCode * 2 ^ 10 + g.retryCount),
    word (dropNumber (g.broken.bind Break.nearLimit) * 2 ^ 8 + dropNumber (g.broken.bind Break.farLimit)) ]
    ++ (List.finRange 4).map (s.channelWord n)

/-- Board entry of an incident record. -/
def incidentBoard : Option Incident → List Word
  | none => [0, 0, 0, 0]
  | some x =>
    [ word (x.number * 2 ^ 8 + x.state.code * 2 ^ 6 + x.carriageway.code % 2 * 2 ^ 5 + flagBit x.leadAnswered 4
        + x.estimate / 65536),
      word x.estimate, word (x.marker.km * 2 ^ 6 + x.marker.tenth * 2 ^ 2), word (optionCode Lead.call x.lead) ]

/-- Occupied fault slots: bit n for segment n, bit 8 for the engine. -/
def State.occupiedSlots (s : State) : Nat :=
  ((List.finRange 9).map (fun k => flagBit (s.reports.slots.get k).isSome k.val)).sum

/-- Board entry of the engine. -/
def State.engineBoard (s : State) : List Word :=
  [ word (s.engine.state.code * 2 ^ 13 + flagBit s.calls.overflow 12 + flagBit s.engine.clamped 11 + s.engine.restartCount),
    word s.queuedCount, word s.calls.deferrals.length, word s.callsInUse, word s.incidentsInUse, word s.occupiedSlots ]
    ++ twoWords s.engine.lastChange ++ List.replicate 8 0

/-- Words at consecutive addresses. -/
def wordsAt (a : Nat) (l : List Word) : List QueueEntry := l.zipIdx.map (fun p => { address := a + 2 * p.2, value := p.1 })

/-- The board words of an object, at a board base (R173). -/
def State.boardWords (s : State) (base : Nat) (o : Obj) : List QueueEntry :=
  match o with
  | .post i => wordsAt (base + 2 * (i.val / 2)) [s.postWord ⟨i.val / 2, by omega⟩]
  | .call r => wordsAt (base + 0x100 + 6 * r.val) (callBoard (s.call r))
  | .position p => wordsAt (base + 0x280 + 8 * p.val) (positionBoard (s.position p))
  | .segment g => wordsAt (base + 0x300 + 12 * g.val) (s.segmentBoard g)
  | .incident k => wordsAt (base + 0x360 + 8 * k.val) (incidentBoard (s.incident k))
  | .engine => wordsAt (base + 0x3E0) s.engineBoard

/-- All 512 words of the live board, section by section (R174). -/
def State.wholeBoard (s : State) (base : Nat) : List QueueEntry :=
  wordsAt base ((List.finRange 128).map s.postWord ++ (List.finRange 64).flatMap (fun r => callBoard (s.call r))
    ++ (List.finRange 16).flatMap (fun p => positionBoard (s.position p)) ++ (List.finRange 8).flatMap s.segmentBoard
    ++ (List.finRange 16).flatMap (fun k => incidentBoard (s.incident k)) ++ s.engineBoard)

end Sys2Proof.Machine
end

