-- ==== Sys2Proof/Machine/EngineControl.lean ====
section
/-! DEFINITION. Engine control: class B faults (R186, R187), the restart and the failure clear (R188 to R192), the
engine's transitions (R178, R183, R184), the control word, the report writer's steps that wait for the queue, and the
form in which every event runs (`runEvent`). -/

namespace Sys2Proof.Machine

/-! ### Class B faults and the start of a restart -/

/-- The restart history as a fault is handed over in RUN (R187). -/
def nextHistory (history : List Time) (now : Time) : List Time :=
  history.filter (fun t => elapsed now t < Config.historySpan) ++ [now]

/-- A line side as step 1 of a restart leaves it: HALTING until its exchange has ended, its outcome discarded (R188). -/
def LineSide.held (x : LineSide) : LineSide :=
  if x.state == .off then x else if x.exchange.isNone then x.toOff else x.toHalting true

/-- Steps 1 and 2 of a restart or a failure clear begin: every line side that is not OFF goes to HALTING and the
drain starts (R188). A directory read of a start-up under way is abandoned. -/
def State.beginClear (s : State) : State :=
  { s with
    lines := s.lines.map LineSide.held
    path := { s.path with readWords := 0 }
    engine := { s.engine with step := .draining } }

/-- The fault handed over is kept for the restart area (R191). -/
def State.keepFault (f : ClassB) (s : State) : State :=
  { s with engine := { s.engine with fault := f, faultTime := s.time } }

/-- A class B fault is handed to engine control (R186). -/
def State.classB (f : ClassB) (s : State) : State :=
  match s.engine.state with
  | .run =>
    let history := nextHistory s.engine.history s.time
    let s := (s.keepFault f).beginClear
    let s := { s with engine := { s.engine with
      history := history, restartCount := saturate255 s.engine.restartCount
      outcomeFailed := history.length == 3 } }
    s.setEngineState .restarting
  | .starting | .stopping =>
    if s.clearing then s
    else
      let s := (s.keepFault f).beginClear
      { s with engine := { s.engine with outcomeFailed := true } }
  | .restarting => { s with engine := { s.engine with outcomeFailed := true } }
  | .standby | .failed => s

/-- An operation carried out as far as no class B fault cuts it short; a fault is handed to engine control (R186). -/
def State.settle (s : State) (op : Op Unit) : State :=
  match op s with
  | .ok _ s' => s'
  | .error f s' => s'.classB f

/-! ### The restart area (R191) -/

/-- Calls whose state is neither RESERVED nor ENDED (R188 step 3). -/
def State.liveCalls (s : State) : Nat :=
  (s.calls.records.toList.filter (fun o =>
    match o with | some c => c.state != .reserved && c.state != .ended | none => false)).length

/-- Incidents in OPEN or QUIET (R188 step 3). -/
def State.liveIncidents (s : State) : Nat :=
  (s.cluster.records.toList.filter (fun o => match o with | some x => x.state != .closed | none => false)).length

/-- The contents of the restart area (12.2, R191). -/
def State.restartArea (s : State) : Vector Word 8 :=
  #v[ word s.engine.fault.cause.code, s.engine.fault.first, s.engine.fault.second,
      s.engine.faultTime.extractLsb' 16 16, s.engine.faultTime.extractLsb' 0 16, word s.liveCalls, word s.liveIncidents,
      word (flagBit s.engine.outcomeFailed 15 + s.engine.restartCount) ]

/-- The restart area written directly to memory, in increasing address order (R15 step 4, R191). -/
def State.writeRestartArea (s : State) : State :=
  (List.finRange 8).foldl (fun s n =>
    s.writeMemory (Config.anchorAddress (Config.restartArea + n.val)) (s.engine.area.get n)) s

/-! ### Restart steps 4 to 6 (R189) -/

/-- The call table emptied; the counters are kept (R111). -/
def CallTable.emptied (t : CallTable) : CallTable :=
  { t with records := Vector.replicate 64 none, queue := [], deferrals := [], overflow := false, reannounce := none }

/-- A post as step 4 leaves it: live call, deferred flag and pending list cleared. A record with none of them is not
written, so that its check code stays as it is. -/
def Post.unlinked (p : Post) : Post :=
  if p.liveCall.isNone && !p.deferred && p.commands.isEmpty then p
  else { p with liveCall := none, deferred := false, commands := [], corrupt := false }

/-- Every occupied fault slot is listed through its owner with its fault mark, in rising slot order with the engine's last
(R176, R189; log entry 52). -/
def State.relistFaults (s : State) : State :=
  (List.finRange 9).foldl (fun s k =>
    if (s.reports.slots.get k).isSome then s.report (slotOwner k) false false true else s) s

/-- The connection memory emptied and every crosspoint opened (R162). -/
def SpeechSwitch.emptied (x : SpeechSwitch) : SpeechSwitch :=
  { x with
    channels := Vector.replicate 32 .freed, connections := Vector.replicate 16 none
    crosspoints := x.stuck.map (fun o => o.getD none) }

/-- A crosspoint that reads back as closed after step 4 (R162). -/
def SpeechSwitch.misread (x : SpeechSwitch) : Bool := x.crosspoints.toList.any Option.isSome

/-- A class B fault found by restart steps 4 and 5: in RESTARTING the outcome becomes FAILED (R190); while a failure
clear runs it has no effect. -/
def State.restartFault (b : Bool) (s : State) : State :=
  if b && s.engine.state == .restarting then { s with engine := { s.engine with outcomeFailed := true } } else s

/-- A line side as step 4 leaves it: its service list empty and its error count 0 (R45). -/
def LineSide.cleared (x : LineSide) : LineSide := { x with service := [], errors := 0 }

/-- Step 4: the tables emptied (R189). The state word is written where OVERFLOW was set (R5, R179). -/
def State.emptyTables (s : State) : State :=
  let overflow := s.calls.overflow
  let speech := s.speech.emptied
  let s := { s with
    calls := s.calls.emptied
    cluster := { s.cluster with records := Vector.replicate 16 none }
    speech := speech
    posts := s.posts.map Post.unlinked
    lines := s.lines.map LineSide.cleared }
  let s := (s.restartFault speech.misread).syncAllPolled
  let s := if overflow then s.writeStateWord else s
  ({ s with reports := { s.reports with list := [], steps := [], startFaults := [] } } : State).relistFaults

/-- A position as step 5 leaves it (R149). -/
def Position.restarted (x : Position) (now : Time) : Position :=
  let y := { x.cleared with held := [], lastOffer := none }
  if x.state == .closed then y else { y with state := .free, freeSince := now }

/-- Step 5: positions; a record whose check code fails is not acted on, and is a class B fault (R149, R190). -/
def State.restartPositions (s : State) : State :=
  ({ s with positions := s.positions.map (fun x => if x.corrupt then x else x.restarted s.time) } : State).restartFault
    (s.positions.toList.any (fun x => x.corrupt))

/-- An entry made INVALID (R61). -/
def DirectoryEntry.invalidated (e : DirectoryEntry) : DirectoryEntry := { e with valid := false }

/-- A directory read begins: every entry is INVALID until its words have been read (R61), so that no drop is configured and
the polled sets lose those that were (R33, R34). -/
def State.beginDirectoryRead (step : EngineStep) (s : State) : State :=
  ({ s with
    directory := s.directory.map DirectoryEntry.invalidated
    path := { s.path with readWords := Config.directoryWords }
    engine := { s.engine with step := step } } : State).syncAllPolled

/-- Every line side is OFF. -/
def State.linesOff (s : State) : Bool := s.lines.toList.all (fun x => x.state == .off)

/-- Restart steps 4 to 6 follow once the area has been written and every line side is OFF (R189). -/
def State.restartProceeds (s : State) : State :=
  if s.engine.step == .linesHalting && s.linesOff then
    s.emptyTables.restartPositions.beginDirectoryRead .reloading
  else s

/-! ### Transitions to STANDBY, FAILED and STOPPING -/

/-- A line side gone to OFF with its service list emptied (R45). -/
def LineSide.shut (x : LineSide) : LineSide := { x.toOff with service := [] }

/-- Every line side goes to OFF, with its service list and the pending lists of its posts emptied (R45). -/
def State.linesToOff (s : State) : State :=
  let s := { s with lines := s.lines.map LineSide.shut }
  (List.finRange 256).foldl (fun s i => s.emptyCommands i false) s

/-- A position becomes CLOSED as the engine enters STANDBY (R149); the positions do so in rising order (log entry 52). -/
def shutPosition (p : Fin 16) : Op Unit := do
  let x ← readPosition p
  let y := { x.cleared with state := .closed, held := [] }
  if x = y then pure () else modify (fun s => s.setPosition p y)

/-- The engine is in STANDBY, with an empty restart history, and the control word is consulted (R178, R184). -/
def State.toStandby (s : State) : State :=
  let s := s.setEngineState .standby
  { s with engine := { s.engine with history := [], startRequest := s.controlRun } }

/-- A completed STOPPING goes on to STANDBY (R184). A position whose check code fails is a class B fault in STOPPING
(R128, R186). -/
def completeStopping : Op Unit := do
  modify (fun s => s.linesToOff.inhibitUsed)
  (List.finRange 16).forM shutPosition
  modify State.toStandby

/-- The engine leaves FAILED for STANDBY (R192). A class B fault has no effect in FAILED (R186): a position whose check code
fails is not acted on, and the others are CLOSED (log entry 31). -/
def State.leaveFailed (s : State) : State :=
  ((List.finRange 16).foldl (fun s p => s.settle (shutPosition p)) s.linesToOff.inhibitUsed).toStandby

/-- The engine enters FAILED, and goes on to STANDBY where the control word reads STOP (R192). -/
def State.enterFailed (s : State) : State :=
  let s := (s.linesToOff.inhibitUsed).setEngineState .failed
  let s := { s with engine := { s.engine with step := .idle } }
  if s.controlRun then s else s.leaveFailed

/-- A line side as the engine enters STOPPING (R45). -/
def LineSide.toFinishing (x : LineSide) : LineSide :=
  match x.state with
  | .sweeping | .serving =>
    { x with state := .finishing, sweepList := [], probe := none, afterSweep := false, answered := [] }
  | .off | .finishing | .halting => x

/-- A post leaves the deferral list as the engine enters STOPPING (R111). -/
def clearDeferral (i : Fin 256) : Op Unit := do
  let _ ← readPost i
  modify (fun s => s.removeDeferral i)

/-- The deferral list emptied as the engine enters STOPPING (R111). -/
def clearDeferrals : Op Unit := do
  let s ← get
  (s.calls.deferrals.map (fun d => d.post)).forM clearDeferral

/-- The engine enters STOPPING (R183). Every call ends before the incidents become QUIET (log entry 46). -/
def enterStopping : Op Unit := do
  modify (fun s => ({ s with lines := s.lines.map LineSide.toFinishing } : State).setEngineState .stopping)
  (List.finRange 64).forM (fun r => endCall r .stopped)
  clearDeferrals
  quietIncidents

/-- A line side that STOPPING need not wait for (R184). -/
def LineSide.stopped (x : LineSide) : Bool :=
  x.state == .off || (x.state == .finishing && x.exchange.isNone && x.service.isEmpty)

/-- STOPPING is complete (R184). -/
def State.stoppingComplete (s : State) : Bool :=
  s.engine.state == .stopping && !s.clearing && s.reports.list.isEmpty && s.lines.toList.all LineSide.stopped

/-- STOPPING that is complete goes on to STANDBY (R184). -/
def State.stoppingEnds (s : State) : State := if s.stoppingComplete then s.settle completeStopping else s

/-! ### The form of an event -/

/-- The dispatch run that an event asked for, in RUN (R132). -/
def State.dispatchIfDue (s : State) : State :=
  let t := { s with dispatchDue := false }
  if s.dispatchDue && s.inRun then t.settle dispatchRun else t

/-- What follows an event's own effects: the dispatch run it starts, then the restart steps or the end of STOPPING
that it makes possible. -/
def State.followUp (s : State) : State :=
  { s.dispatchIfDue.restartProceeds.stoppingEnds with dispatchDue := false }

/-- An event: its own effects, then what follows them. -/
def State.runEvent (s : State) (op : Op Unit) : State := (s.settle op).followUp

/-! ### The control word (R178) -/

/-- The control word has been written: engine control acts by its state (R178). -/
def controlWritten : Op Unit := do
  let s ← get
  match s.engine.state with
  | .standby => set { s with engine := { s.engine with startRequest := s.controlRun } }
  | .run => if s.controlRun then pure () else enterStopping
  | .failed => if s.controlRun then pure () else set s.leaveFailed
  | .starting | .stopping | .restarting => pure ()

/-! ### Waiting writes of the report writer (R11, R166) -/

/-- The event producer index word. -/
def producerAddress : Nat := Config.anchorAddress Config.eventProducer.val

/-- What is left of some waiting words once the queue has taken what it can. -/
def takeWords : List ReportStep → List QueueEntry → List ReportStep × List QueueEntry
  | .word a v :: rest, q =>
    if queueTakes q a then takeWords rest (enqueue q { address := a, value := v }) else (.word a v :: rest, q)
  | steps, q => (steps, q)

/-- The writer's waiting words are queued as far as the queue takes them. -/
def State.queueSteps (steps : List ReportStep) (s : State) : State :=
  let r := takeWords steps s.path.queue
  { s with path := { s.path with queue := r.2 }, reports := { s.reports with steps := r.1 } }

/-- The board words of an object as steps of the writer. -/
def State.boardSteps (s : State) (o : Obj) : List ReportStep :=
  match s.path.windows with
  | none => []
  | some w => (s.boardWords w.boardBase o).map (fun e => .word e.address e.value)

/-- The entry of an object leaves the report list, and frees a record whose final report has been written, its check code
verified (R90, R112, R167). The invitation choice for a freed call record runs at once, also where the record's zero board
words must wait for a full queue (log entry 64). -/
def entryLeaves (o : Obj) : Op Unit := do
  modify (fun s => { s with reports := { s.reports with list := s.reports.list.filter (fun e => e.object != o), steps := [] } })
  let s ← get
  match o with
  | .call r =>
    match s.call r with
    | some c =>
      if c.state = .ended then do
        let _ ← readCall r
        modify (fun s => ({ s with calls := { s.calls with records := put s.calls.records r none } } : State).reportCounts)
        modify (fun s => s.queueSteps (s.boardSteps o))
        inviteInto r
      else pure ()
    | none => pure ()
  | .incident k =>
    match s.incident k with
    | some x =>
      if x.state = .closed then do
        let _ ← readIncident k
        modify (fun s => ({ s with cluster := { s.cluster with records := put s.cluster.records k none } } : State).reportCounts)
        modify (fun s => s.queueSteps (s.boardSteps o))
      else pure ()
    | none => pure ()
  | .post _ | .position _ | .segment _ | .engine => pure ()

/-- The report list entry of an object has no mark left. -/
def State.unmarked (s : State) (o : Obj) : Bool :=
  s.reports.list.all (fun e => e.object != o || !(e.board || e.event || e.fault))

/-- The serving of an entry ends (R166 step 5). -/
def finishEntry (o : Obj) : Op Unit := do
  let s ← get
  if s.unmarked o then entryLeaves o
  else set ({ s with reports := { s.reports with steps := [] } } : State)

/-- The slot whose record has been queued becomes empty, unless a fault has been recorded in it since the snapshot
(R166 step 4). -/
def State.emptySlot (k : Fin 9) (s : State) : State :=
  if s.reports.list.any (fun e => e.object == slotOwner k && e.fault) then s
  else ({ s with reports := { s.reports with slots := put s.reports.slots k none } } : State).reportCounts

/-- The writer's waiting steps, carried out until a word must wait for the queue (R11, R166). -/
def serveSteps : List ReportStep → Op Unit
  | [] => modify (fun s => { s with reports := { s.reports with steps := [] } })
  | .word a v :: rest => do
    let s ← get
    if queueTakes s.path.queue a then do
      set { s with path := { s.path with queue := enqueue s.path.queue { address := a, value := v } } }
      serveSteps rest
    else set { s with reports := { s.reports with steps := .word a v :: rest } }
  | .advanceProducer :: rest => do
    let s ← get
    let v := s.reports.producer + 1
    if queueTakes s.path.queue producerAddress then do
      set { s with
        reports := { s.reports with producer := v }
        path := { s.path with queue := enqueue s.path.queue { address := producerAddress, value := v } } }
      serveSteps rest
    else set { s with reports := { s.reports with producer := v, steps := .word producerAddress v :: rest } }
  | .faultGate k :: rest => do
    let s ← get
    if s.ringSpace then serveSteps rest
    else do
      modify (fun s => s.report (slotOwner k) false false true)
      modify (fun s => { s with reports := { s.reports with steps := [] } })
  | .emptySlot k :: rest => do
    modify (fun s => s.emptySlot k)
    serveSteps rest
  | .finish o :: _ => finishEntry o

/-- The report writer appends what it can, if it works (R11, R165). In STANDBY it pauses, so that a word that still waited for
a full queue as the engine entered STANDBY is not appended as an entry leaves: it waits until a start-up drops it (log entry
60). -/
def flushReports : Op Unit := do
  let s ← get
  if s.writerWorks then serveSteps s.reports.steps else pure ()

end Sys2Proof.Machine
end

