-- ==== Sys2Proof/Machine/LineEvents.lean ====
section
/-! DEFINITION. The events of a line side: choosing an exchange (R31, R42), the end of the part's telegram (R24), the
arbitration field (R28), received telegrams (R24 to R30, R39, R43, R51, R54 to R56) and the reply time (R25, R40). -/

namespace Sys2Proof.Machine

/-! ### Starting an exchange -/

/-- A telegram is put on the line (R22). -/
def LineSide.send (x : LineSide) (e : Exchange) : LineSide :=
  { x with exchange := some { e with phase := .sending }, sent := some (e.telegram.frame e.drop) }

/-- An exchange of the purpose given starts with a telegram to a drop (R24). -/
def State.startExchange (l : LineId) (purpose : Purpose) (d : Fin 32) (t : PartTelegram) (s : State) : State :=
  s.updateLine l (fun x => x.send { purpose, drop := d, telegram := t, retry := false, phase := .sending })

/-- A contention window opens; its drop and answer are those of the winner once it is known (R28). -/
def State.openWindow (l : LineId) (s : State) : State :=
  s.updateLine l (fun x => { x with
    exchange := some { purpose := .window, drop := 0, telegram := .deferred, retry := false, phase := .arbitrating } })

/-- The command at the head of a drop's pending list is taken for sending (R39). -/
def sendCommand (l : LineId) (d : Fin 32) : Op Unit := do
  let i := postIndex l.segment d
  let p ← readPost i
  match p.commands with
  | [] => pure ()
  | c :: rest => do
    modify (fun s => s.setCommands i rest)
    modify (fun s => s.startExchange l (.command c) d (.command c.kind))

/-- Lateness of the poll of a drop that is due (R34). -/
def State.lateness (s : State) (l : LineId) (d : Fin 32) : Option Nat :=
  match (s.line l).lastExchange.get d with
  | none => none
  | some t =>
    let i := postIndex l.segment d
    if s.polled i l.side && s.pollTicks i ≤ elapsed s.time t then some (elapsed s.time t - s.pollTicks i) else none

/-- The most overdue of some drops; equal lateness goes to the lower drop (R31 step 4). -/
def State.mostOverdue (s : State) (l : LineId) : List (Fin 32) → Option (Fin 32 × Nat)
  | [] => none
  | d :: rest =>
    match s.lateness l d, s.mostOverdue l rest with
    | none, o => o
    | some n, none => some (d, n)
    | some n, some (d', n') => if n' ≤ n then some (d, n) else some (d', n')

/-- The restore probe asked of a line side: the one waiting on the NEAR side, or the head of the FAR probe list on the
FAR side (R31 step 2, R83, R84). -/
def State.probeAsked (s : State) (l : LineId) : Option (Fin 32) :=
  match l.side with
  | .near => (s.line l).probe
  | .far => (s.broken l.segment).bind (fun b => b.probeList.head?)

/-- The telegram of a poll (R35). -/
def pollTelegram (p : Post) : PartTelegram := if p.state = .unknown then .identify else .poll

/-- Steps 4 and 5 of the choice in SERVING: a poll that is due, or a contention window (R31). -/
def State.pollOrWindow (l : LineId) (s : State) : State :=
  match s.mostOverdue l (List.finRange 32) with
  | some (d, _) => s.startExchange l .poll d (pollTelegram (s.post (postIndex l.segment d)))
  | none => s.openWindow l

/-- The choice in SERVING (R31). A command pended to a post that is UNREACHABLE beyond a break is sent like any other (R38;
log entry 41). -/
def chooseServing (l : LineId) : Op Unit := do
  let s ← get
  let x := s.line l
  if x.afterTelegram then set (s.openWindow l)
  else
    match s.probeAsked l, x.service with
    | some d, _ => set ((s.updateLine l (fun x => { x with probe := none })).startExchange l (.probe false) d .identify)
    | none, d :: _ => sendCommand l d
    | none, [] => set (s.pollOrWindow l)

/-- The choice in SWEEPING: after a sweep exchange the command at the head of the service list, otherwise the next
IDENTIFY of the sweep (R42). -/
def chooseSweeping (l : LineId) : Op Unit := do
  let s ← get
  let x := s.line l
  match x.afterSweep, x.service, x.sweepList with
  | true, d :: _, _ => sendCommand l d
  | _, _, d :: _ => set (s.startExchange l .sweep d .identify)
  | _, _, [] => pure ()

/-- A line side with no exchange in flight chooses its next one by its state (R21, R31, R38, R42). -/
def chooseNext (l : LineId) : Op Unit := do
  let s ← get
  let x := s.line l
  if x.exchange.isSome then pure ()
  else
    match x.state, x.service with
    | .serving, _ => chooseServing l
    | .sweeping, _ => chooseSweeping l
    | .finishing, d :: _ => sendCommand l d
    | .finishing, [] | .off, _ | .halting, _ => pure ()

/-! ### The end of an exchange -/

/-- An exchange of the purpose given leaves a line side (R31, R34, R42). It sets the last-exchange time that this side keeps
of the drop, and not the one that the other side of the segment keeps (log entry 61); a contention window sets none (log
entry 62). -/
def LineSide.ended (x : LineSide) (purpose : Purpose) (d : Fin 32) (now : Time) : LineSide :=
  let t := x.lastExchange.get d
  { x with
    exchange := none
    afterTelegram := purpose != .window
    afterSweep := purpose == .sweep
    sweepList := if purpose == .sweep then x.sweepList.erase d else x.sweepList
    lastExchange := if purpose == .window then x.lastExchange
      else put x.lastExchange d (if t.isSome then some now else none) }

/-- The exchange in flight of a line side ends. -/
def State.endExchange (l : LineId) (e : Exchange) (s : State) : State :=
  s.updateLine l (fun x => x.ended e.purpose e.drop s.time)

/-- What follows the end of an exchange once its outcome has been applied: a sweep may be complete, a side in HALTING
goes to OFF (R21, R44). -/
def afterExchange (l : LineId) : Op Unit := do
  sweepEnds l
  haltingEnds l

/-- The outcome of a line side's exchange is discarded (R21). -/
def State.discards (s : State) (l : LineId) : Bool := (s.line l).state == .halting && (s.line l).discard

/-! ### Misses (R25, R40) -/

/-- A RELEASE that missed is put back at the head of the pending list, unless that list begins with one (R40). -/
def State.putBackRelease (i : Fin 256) (c : PendingCommand) (s : State) : State :=
  match (s.post i).commands with
  | a :: _ => if a.kind == .release then s else s.setCommands i (c :: (s.post i).commands)
  | [] => s.setCommands i [c]

/-- What a missed command does before the miss reaches the post table (R40). -/
def commandMissed (i : Fin 256) (c : PendingCommand) : Op Unit :=
  match c.kind, c.call with
  | .release, _ => do
    let _ ← readPost i
    modify (fun s => s.putBackRelease i c)
  | .connect _, some n => connectMissed n
  | .invite, some n => inviteMissed i n
  | .test, _ => do
    let _ ← readPost i
    modify (fun s => s.loseTest i true)
  | .connect _, none | .invite, none | .ring, _ | .play _, _ => pure ()

/-- The restore probe of the NEAR side missed: the restore timer starts again (R84). -/
def State.nearProbeMissed (g : Fin 8) (s : State) : State :=
  match s.broken g with
  | some b => if b.state == .restorePending then s else s.setBreak g { b with restoreTimer := some (s.after s.restoreTicks) }
  | none => s

/-- A FAR probe has ended: its drop leaves the FAR probe list (R83). -/
def State.farProbeEnded (g : Fin 8) (d : Fin 32) (s : State) : State :=
  match s.broken g with
  | some b => s.setBreak g { b with probeList := b.probeList.erase d }
  | none => s

/-- The outcome miss of an exchange by its purpose (R25, R40). -/
def missed (l : LineId) (e : Exchange) : Op Unit := do
  let i := postIndex l.segment e.drop
  match e.purpose, l.side with
  | .command c, _ => do
    commandMissed i c
    postMiss i
  | .poll, _ | .sweep, _ => postMiss i
  | .probe false, .near => modify (fun s => s.nearProbeMissed l.segment)
  | .probe false, .far => modify (fun s => s.farProbeEnded l.segment e.drop)
  | .probe true, _ | .window, _ => pure ()

/-- An exchange gets no reply: the telegram is sent once more, or the exchange ends in a miss (R25). -/
def noReply (l : LineId) : Op Unit := do
  let s ← get
  match (s.line l).exchange with
  | none => pure ()
  | some e =>
    if e.retry then do
      let discarded := s.discards l
      set (s.endExchange l e)
      if discarded then pure () else missed l e
      afterExchange l
    else set (s.updateLine l (fun x => x.send { e with retry := true }))

/-- A telegram error, unless the outcome of the exchange is discarded (R27, R45). -/
def lineError (l : LineId) : Op Unit := do
  let s ← get
  if s.discards l then pure () else countError l

/-- A telegram exchange gets an unusable reply (R24). -/
def badReply (l : LineId) : Op Unit := do
  lineError l
  noReply l

/-- A contention window ends without an answer. -/
def endWindow (l : LineId) : Op Unit := do
  let s ← get
  match (s.line l).exchange with
  | some e => do
    set (s.endExchange l e)
    afterExchange l
  | none => pure ()

/-- A contention window fails (R30). -/
def failWindow (l : LineId) : Op Unit := do
  lineError l
  endWindow l

/-! ### Good telegrams applied to the post record (R51, R54) -/

/-- A post heard by a good telegram: miss count 0, and PRESENT unless it is ISOLATED (R51). -/
def Post.heard (p : Post) : Post :=
  { p with misses := 0, state := match p.state with
    | .unknown | .present | .silent | .unreachable => .present
    | .isolated => .isolated }

/-- The fields that a telegram updates, but for the identity and the side (R51, R54). -/
def Post.updated (p : Post) : PostTelegram → Post
  | .ident _ _ offHook => { p.heard with hook := Hook.ofBit offHook }
  | .status hook request test supply door =>
    { p.heard with hook := hook, requestPending := request, selfTest := test, supplyLow := supply, doorOpen := door }
  | .done hook _ => { p.heard with hook := hook }
  | .request _ _ => { p.heard with hook := .off }

/-- The identity that a telegram records (R51). -/
def PostTelegram.identity : PostTelegram → Option Identity
  | .ident x _ _ => some x
  | .status .. => none
  | .done _ r => r.map Prod.snd
  | .request _ x => some x

/-- A class A fault of a post's segment, with the drop as its object (R54). -/
def State.postFault (i : Fin 256) (kind : FaultKind) (s : State) : State :=
  s.recordFault (segmentSlot (postSegment i)) kind ((postDrop i).val + 1) 0

/-- The faults that a STATUS records (R54). -/
def State.statusFaults (i : Fin 256) (old new : Post) (s : State) : State :=
  let s := if new.selfTest == .fail && old.selfTest != .fail then s.postFault i .selfTestFail else s
  if new.supplyLow && !old.supplyLow then s.postFault i .supplyLow else s

/-- The post record takes a good telegram heard by a line side; a post that becomes PRESENT may make a call offerable
(R77), and a post of side FAR that the FAR side hears lowers the far limit (R83, R194). A post that keeps side NEAR, though
a window of the FAR side hears it, does not (log entry 54). -/
def applyTelegram (l : LineId) (i : Fin 256) (t : PostTelegram) (side : Side) : Op Unit := do
  let p ← readPost i
  modify (fun s => s.setSide i side)
  modify (fun s =>
    let q := { s.post i with side := side }.updated t
    let s := match t.identity with
      | some x => s.writeJudged i q (some x)
      | none => s.setPost i q
    let s := s.statusFaults i p q
    let s := if l.side == .far && side == .far && q.state == .present then s.lowerFar i else s
    if p.state != .present && q.state == .present then s.wantDispatch else s)

/-- The hook state that a telegram hands to the call table (R51). -/
def PostTelegram.hook : PostTelegram → Option Hook
  | .ident _ _ offHook => some (Hook.ofBit offHook)
  | .status hook .. => some hook
  | .done hook _ => some hook
  | .request .. => none

/-- The hook state of a telegram reaches the call table (R51, R101). -/
def reportHook (i : Fin 256) (t : PostTelegram) : Op Unit :=
  match t.hook with
  | some h => hookReport i h
  | none => pure ()

/-- A barred attempt of an ISOLATED post: it is counted, and the post is reported also where the count stays at 255
(R55, R56). -/
def State.barPost (i : Fin 256) (s : State) : State :=
  let p := s.post i
  let s := s.setPost i { p with barred := saturate255 p.barred }
  if saturate255 p.barred = p.barred then s.reportBoth (.post i) else s

/-- An IDENT shows a call in progress (R43). -/
def PostTelegram.callInProgress : PostTelegram → Bool
  | .ident _ own offHook => offHook || own != .idle
  | .status .. | .done .. | .request .. => false

/-- An IDENT of a sweep or a poll that shows a call in progress is a request, of a post with no live call (R43); of an
ISOLATED post, with a live call or without one, it is a barred attempt (R56). -/
def identRequest (l : LineId) (i : Fin 256) (hadCall : Bool) (t : PostTelegram) : Op Unit := do
  let s ← get
  if !t.callInProgress then pure ()
  else if (s.post i).state = .isolated then set (s.barPost i)
  else if hadCall then pure ()
  else do let _ ← decideRequest i .emergency (l.side == .far) true .ident

/-- A DONE to INVITE (R56, R108). Its on-hook form has acted as a hook report already (R109). It is registered into the
record RESERVED for the post now, whichever record its INVITE named (log entry 45). -/
def inviteDone (l : LineId) (i : Fin 256) (t : PostTelegram) : Op Unit := do
  let s ← get
  match t with
  | .done _ (some (type, _)) =>
    if (s.post i).state = .isolated then set (s.barPost i)
    else do let _ ← decideRequest i type (l.side == .far) false .inviteDone
  | .done _ none | .ident .. | .status .. | .request .. => pure ()

/-- The DONE of a command reaches the block that pended it (R39). -/
def commandDone (l : LineId) (i : Fin 256) (c : PendingCommand) (t : PostTelegram) : Op Unit :=
  match c.kind, c.call with
  | .connect _, some n => connectDone n (t.hook.getD .on)
  | .invite, _ => inviteDone l i t
  | .connect _, none | .release, _ | .ring, _ | .play _, _ | .test, _ => pure ()

/-- The side a post's record takes with a good reply: FAR when a sweep or a probe of the FAR side hears it (R43, R83). -/
def sideHeard (l : LineId) (purpose : Purpose) (p : Post) : Side :=
  match l.side, purpose with
  | .far, .sweep | .far, .probe _ => .far
  | _, _ => p.side

/-- The drop that answered a FAR sweep is noted (R44). -/
def State.noteAnswer (l : LineId) (e : Exchange) (s : State) : State :=
  if e.purpose == .sweep && l.side == .far then s.updateLine l (fun x => { x with answered := x.answered ++ [e.drop] }) else s

/-- The outcome of a good reply by its purpose, after the post record and the hook state (R39, R43, R83, R85). -/
def replyOutcome (l : LineId) (e : Exchange) (i : Fin 256) (hadCall : Bool) (t : PostTelegram) : Op Unit :=
  match e.purpose, l.side with
  | .command c, _ => commandDone l i c t
  | .poll, _ | .sweep, _ => identRequest l i hadCall t
  | .probe _, .near => breakRepaired l.segment
  | .probe _, .far => modify (fun s => s.farProbeEnded l.segment e.drop)
  | .window, _ => pure ()

/-- A good reply ends its exchange (R24). -/
def goodReply (l : LineId) (e : Exchange) (t : PostTelegram) : Op Unit := do
  let s ← get
  let i := postIndex l.segment e.drop
  let discarded := s.discards l || e.purpose == .probe true
  set (((s.updateLine l (fun x => { x with errors := 0 })).endExchange l e).noteAnswer l e)
  if discarded then pure ()
  else do
    let p ← readPost i
    applyTelegram l i t (sideHeard l e.purpose p)
    reportHook i t
    replyOutcome l e i p.liveCall.isSome t
  afterExchange l

/-! ### Requests in a window (R29, R55) -/

/-- The answer to an accepted REQUEST (R55). -/
def requestAnswer (l : LineId) (i : Fin 256) (type : RequestType) : Op (Option PartTelegram) := do
  let s ← get
  if (s.post i).state = .isolated then do
    set (s.barPost i)
    pure (some .barred)
  else decideRequest i type (l.side == .far) false .window

/-- The answer of a window is sent to the winning drop (R29). -/
def State.answerWindow (l : LineId) (answer : Option PartTelegram) (s : State) : State :=
  s.updateLine l (fun x =>
    match x.exchange, answer with
    | some e, some t => { x with
        exchange := some { e with telegram := t, phase := .answering }, sent := some (t.frame e.drop) }
    | _, _ => x)

/-- A REQUEST from the winning drop is accepted (R29). -/
def acceptRequest (l : LineId) (d : Fin 32) (type : RequestType) (identity : Identity) : Op Unit := do
  let s ← get
  let i := postIndex l.segment d
  if s.discards l then endWindow l
  else do
    modify (fun s => s.updateLine l (fun x => { x with errors := 0 }))
    let p ← readPost i
    applyTelegram l i (.request type identity) (if p.state = .unreachable then l.side else p.side)
    let answer ← requestAnswer l i type
    modify (fun s => s.answerWindow l answer)

/-! ### Reception (R24 to R26, R30, R196) -/

/-- A WRONG_RESPONDER fault: the drop addressed and the drop that answered (R26). -/
def State.wrongResponderFault (l : LineId) (addressed answered : Fin 32) (s : State) : State :=
  s.recordFault (segmentSlot l.segment) .wrongResponder (addressed.val + 1)
    (BitVec.ofNat 32 ((addressed.val + 1) * 256 + (answered.val + 1)))

/-- The telegram that an exchange takes a decoded telegram for: a DONE to another command than INVITE is taken as
1-byte; an off-hook DONE to INVITE without a request is treated as failing its check (R196). -/
def Exchange.taken (e : Exchange) (t : PostTelegram) : Option PostTelegram :=
  match t, e.telegram with
  | .done .off none, .command .invite => none
  | .done h r, .command .invite => some (.done h r)
  | .done h _, _ => some (.done h none)
  | t, _ => some t

/-- A telegram is of the kind that the sent telegram expects (2.2). -/
def PartTelegram.expects (sent : PartTelegram) (t : PostTelegram) : Bool :=
  match sent, t with
  | .identify, .ident .. | .poll, .status .. | .command _, .done .. => true
  | _, _ => false

/-- A telegram received while a telegram exchange awaits its reply (R24, R26). A wrong responder is recorded also in HALTING
for a restart, where its telegram error is not counted (log entry 53). A telegram of another drop is a wrong responder also
where it is a 1-byte off-hook DONE and an INVITE awaits its reply (R196; log entry 65). -/
def receiveReply (l : LineId) (e : Exchange) (f : Option (Fin 32 × PostTelegram)) : Op Unit := do
  match f with
  | none => badReply l
  | some (d, t) =>
    if d = e.drop then
      match e.taken t with
      | some t => if e.telegram.expects t then goodReply l e t else badReply l
      | none => badReply l
    else do
      lineError l
      modify (fun s => s.wrongResponderFault l e.drop d)
      noReply l

/-- A telegram received while a window awaits the winner's REQUEST (R29, R30); of a wrong responder in HALTING for a restart
log entry 53 holds here too. A telegram of another drop is a wrong responder whatever its kind (log entry 65). -/
def receiveInWindow (l : LineId) (e : Exchange) (f : Option (Fin 32 × PostTelegram)) : Op Unit := do
  match f with
  | none => failWindow l
  | some (d, t) =>
    if d = e.drop then
      match t with
      | .request type identity => acceptRequest l d type identity
      | .ident .. | .status .. | .done .. => failWindow l
    else do
      lineError l
      modify (fun s => s.wrongResponderFault l e.drop d)
      endWindow l

/-- A telegram received while no reply time runs: one that fails its check is a telegram error (R25). A side in OFF
does not hear (R21). -/
def receiveStray (l : LineId) (f : Option (Fin 32 × PostTelegram)) : Op Unit := do
  let s ← get
  if (s.line l).state = .off then pure ()
  else
    match f with
    | none => countError l
    | some _ => pure ()

/-- A telegram received on a line side, decoded or failing its check (R24 to R30). -/
def receiveTelegram (l : LineId) (f : Option (Fin 32 × PostTelegram)) : Op Unit := do
  let s ← get
  match (s.line l).exchange with
  | some e =>
    match e.phase, e.purpose with
    | .awaiting _, .window => receiveInWindow l e f
    | .awaiting _, _ => receiveReply l e f
    | .sending, _ | .arbitrating, _ | .answering, _ => receiveStray l f
  | none => receiveStray l f

/-- A received telegram of the kind given, decoded (R22, R196). -/
def decodeParts (kind drop : Byte) (payload : List Byte) (check : Word) : Option (Fin 32 × PostTelegram) :=
  Frame.decode { drop, kind, payload, check }

/-- A received byte sequence, decoded; one too short for a telegram fails its check. -/
def decodeBytes (bytes : List Byte) : Option (Fin 32 × PostTelegram) := (Frame.ofBytes bytes).bind Frame.decode

/-- The part's telegram has been transmitted: the reply time starts, or the window ends with its answer (R24, R29). -/
def telegramTransmitted (l : LineId) : Op Unit := do
  let s ← get
  match (s.line l).exchange with
  | some e =>
    match e.phase with
    | .sending => set (s.updateLine l (fun x => { x with exchange := some { e with phase := .awaiting (s.after s.replyTicks) } }))
    | .answering => endWindow l
    | .arbitrating | .awaiting _ => pure ()
  | none => pure ()

/-- The arbitration field of a window is read (R28). -/
def readArbitration (l : LineId) (n : BitVec 6) : Op Unit := do
  let s ← get
  match (s.line l).exchange with
  | some e =>
    if e.phase = .arbitrating then
      if n = 63 then endWindow l
      else
        match dropArg (n.setWidth 16) with
        | some d => set (s.updateLine l (fun x => { x with
            exchange := some { e with drop := d, phase := .awaiting (s.after s.replyTicks) } }))
        | none => failWindow l
    else pure ()
  | none => pure ()

/-- The reply time runs out (R25, R30). -/
def replyTimeOut (l : LineId) : Op Unit := do
  let s ← get
  match (s.line l).exchange with
  | some e =>
    match e.phase with
    | .awaiting deadline =>
      if reached s.time deadline then (if e.purpose = .window then failWindow l else noReply l) else pure ()
    | .sending | .arbitrating | .answering => pure ()
  | none => pure ()

/-! ### The rows -/

/-- CHOOSE_NEXT_EXCHANGE (R31). -/
def execChooseNextExchange (l : LineId) (s : State) : Host.Outcome State Fault Refusal := .next (s.runEvent (chooseNext l))

/-- TELEGRAM_SENT (R24). -/
def execTelegramSent (l : LineId) (s : State) : Host.Outcome State Fault Refusal := .next (s.runEvent (telegramTransmitted l))

/-- ARBITRATION_FIELD (R28). -/
def execArbitrationField (l : LineId) (n : BitVec 6) (s : State) : Host.Outcome State Fault Refusal :=
  .next (s.runEvent (readArbitration l n))

/-- IDENT (R43). -/
def execIdent (l : LineId) (drop : Byte) (payload : List Byte) (check : Word) (s : State) :
    Host.Outcome State Fault Refusal := .next (s.runEvent (receiveTelegram l (decodeParts 0x41 drop payload check)))

/-- STATUS (R54). -/
def execStatus (l : LineId) (drop : Byte) (payload : List Byte) (check : Word) (s : State) :
    Host.Outcome State Fault Refusal := .next (s.runEvent (receiveTelegram l (decodeParts 0x42 drop payload check)))

/-- DONE (R39). -/
def execDone (l : LineId) (drop : Byte) (payload : List Byte) (check : Word) (s : State) :
    Host.Outcome State Fault Refusal := .next (s.runEvent (receiveTelegram l (decodeParts 0x43 drop payload check)))

/-- REQUEST (R29). -/
def execRequest (l : LineId) (drop : Byte) (payload : List Byte) (check : Word) (s : State) :
    Host.Outcome State Fault Refusal := .next (s.runEvent (receiveTelegram l (decodeParts 0x44 drop payload check)))

/-- CHECK_FAILURE (R24). -/
def execCheckFailure (l : LineId) (bytes : List Byte) (s : State) : Host.Outcome State Fault Refusal :=
  .next (s.runEvent (receiveTelegram l (decodeBytes bytes)))

/-- WRONG_RESPONDER (R26). -/
def execWrongResponder (l : LineId) (bytes : List Byte) (s : State) : Host.Outcome State Fault Refusal :=
  .next (s.runEvent (receiveTelegram l (decodeBytes bytes)))

/-- STRAY_TELEGRAM (R25). -/
def execStrayTelegram (l : LineId) (bytes : List Byte) (s : State) : Host.Outcome State Fault Refusal :=
  .next (s.runEvent (receiveTelegram l (decodeBytes bytes)))

/-- REPLY_TIME_EXPIRY (R25). -/
def execReplyTimeExpiry (l : LineId) (s : State) : Host.Outcome State Fault Refusal := .next (s.runEvent (replyTimeOut l))

end Sys2Proof.Machine
end

