-- ==== Sys2Proof/Machine/ReportEvents.lean ====
section
/-! DEFINITION. The report writer serves an entry (R165, R166). -/

namespace Sys2Proof.Machine

/-- An entry holds a mark that can be served: the board mark at any time, the others while the ring has space (R165). -/
def ReportEntry.servable (e : ReportEntry) (space : Bool) : Bool := e.board || (space && (e.event || e.fault))

/-- Byte address of an event ring entry, by its producer count (R168). -/
def WindowSet.eventEntry (w : WindowSet) (count : Word) : Nat := w.eventBase + 16 * (count.toNat % w.eventCount)

/-- The words of a record at an event ring entry, and the new producer behind them (R168). -/
def recordSteps (w : WindowSet) (count : Word) (words : List Word) : List ReportStep :=
  (wordsAt (w.eventEntry count) words).map (fun e => .word e.address e.value) ++ [.advanceProducer]

/-- The marks of an entry that one serving takes (R165, R166). -/
structure Marks where
  board : Bool
  event : Bool
  fault : Bool
deriving DecidableEq, Repr

/-- The marks that can be served at once (R165). -/
def ReportEntry.marksNow (e : ReportEntry) (space : Bool) : Marks :=
  { board := e.board, event := e.event && space, fault := e.fault && space }

/-- The steps that serve some marks of an entry: board words, event record, fault record, end (R166). -/
def State.entrySteps (s : State) (w : WindowSet) (e : ReportEntry) (m : Marks) : List ReportStep :=
  let count := s.reports.producer
  let next := if m.event then count + 1 else count
  let ofFault (k : Fin 9) : List ReportStep :=
    match s.reports.slots.get k with
    | some f => .faultGate k :: (recordSteps w next (faultEvent k f) ++ [.emptySlot k])
    | none => []
  (if m.board then s.boardSteps e.object else [])
    ++ (if m.event then recordSteps w count (s.eventRecord e.object e.coalesced e.time) else [])
    ++ (match e.object.slot with | some k => (if m.fault then ofFault k else []) | none => [])
    ++ [.finish e.object]

/-- An entry with the marks that are about to be served cleared (R166 step 1). -/
def ReportEntry.without (e : ReportEntry) (m : Marks) : ReportEntry :=
  { e with
    board := e.board && !m.board
    event := e.event && !m.event
    coalesced := if m.event then 0 else e.coalesced
    fault := e.fault && !m.fault }

/-- The writer takes the snapshot of an entry and begins to serve some of its marks (R166). -/
def beginServing (w : WindowSet) (e : ReportEntry) (m : Marks) : Op Unit := do
  let s ← get
  let steps := s.entrySteps w e m
  let list := s.reports.list.map (fun (x : ReportEntry) => if x.object == e.object then x.without m else x)
  set { s with reports := { s.reports with list := list } }
  serveSteps steps

/-- The entry of a fault held from before the start-up, while the ring has space for its record, and its slot (R181). -/
def State.startFault (s : State) : Option (Fin 9 × ReportEntry) :=
  if s.ringSpace then
    s.reports.startFaults.findSome? (fun k =>
      (s.reports.list.find? (fun e => e.object == slotOwner k && e.fault)).map (fun e => (k, e)))
  else none

/-- The writer serves the first entry that holds a mark it can serve at once (R165). It serves one entry at a time. The
faults held from before a start-up come first: they are written before what step 8 lists (R181; log entry 51). -/
def serveEntry : Op Unit := do
  let s ← get
  match s.writerWorks && s.reports.steps.isEmpty, s.path.windows with
  | true, some w =>
    match s.startFault, s.reports.list.find? (fun e => e.servable s.ringSpace) with
    | some (k, e), _ => do
      set ({ s with reports := { s.reports with startFaults := s.reports.startFaults.erase k } } : State)
      beginServing w e { board := false, event := false, fault := true }
    | none, some e => beginServing w e (e.marksNow s.ringSpace)
    | none, none => pure ()
  | _, _ => pure ()

/-- SERVE_REPORT_ENTRY (R166). -/
def execServeReportEntry (s : State) : Host.Outcome State Fault Refusal := .next (s.runEvent serveEntry)

end Sys2Proof.Machine
end

