-- ==== Sys2Proof/Machine/Commands.lean ====
section
/-! DEFINITION. The form of a control processor's command (R18): tests 3 and 4, the result, and the records that a
call number argument names. -/

namespace Sys2Proof.Machine

/-- The owning block decides the result of a command (R18). -/
def answer (r : ResultCode) : Op Unit := modify (fun s => { s with commandResult := some r })

/-- A command as its owning block's event: an argument out of range gives BAD_ARG and an engine not in RUN gives
NOT_RUNNING (R18). An act cut short before it has decided a result leaves NOT_RUNNING (R186). -/
def command {α : Type} (args : Option α) (act : α → Op Unit) : Op Unit :=
  match args with
  | none => answer .badArg
  | some a => do
    answer .notRunning
    let s ← get
    if s.inRun then act a else pure ()

/-- Two arguments in range. -/
def bothArgs {α β : Type} (a : Option α) (b : Option β) : Option (α × β) :=
  match a, b with
  | some x, some y => some (x, y)
  | _, _ => none

/-- The record that holds a call number and is not ENDED, read to be acted on (R91). -/
def liveRecord (n : Nat) : Op (Option (Fin 64 × Call)) := do
  let s ← get
  match s.callNumbered n with
  | none => pure none
  | some r => do
    match ← readCall r with
    | none => pure none
    | some c => pure (if c.state = .ended then none else some (r, c))

/-- What is done with the record of a call number that is not ENDED, read to be acted on; nothing where there is none (R91). -/
def withLive (n : Nat) (f : Fin 64 → Call → Op Unit) : Op Unit := do
  match ← liveRecord n with
  | none => pure ()
  | some (r, c) => f r c

/-- The record of a position's current call, read to be acted on. -/
def currentRecord (x : Position) : Op (Option (Fin 64 × Call)) :=
  match x.current with
  | none => pure none
  | some n => liveRecord n

end Sys2Proof.Machine
end

