-- ==== Sys2Proof/Machine/CallCommands.lean ====
section
/-! DEFINITION. DROP_CALL (R110) and CLOSE_INCIDENT (R125). -/

namespace Sys2Proof.Machine

/-- DROP_CALL as decided by the call table (R110). -/
def dropCall (n : Nat) : Op Unit := do
  match ← liveRecord n with
  | none => answer .gone
  | some (r, c) =>
    match c.state with
    | .queued | .offered | .held => do
      answer .done
      endCall r .dropped
    | .reserved => do
      answer .done
      endCall r .dropped
      modify (fun s => s.removeDeferral c.post)
    | .connecting | .active | .retrieving | .ringing => answer .badState
    | .ended => answer .gone

/-- CLOSE_INCIDENT as decided by the cluster unit (R125). -/
def closeIncident (n : Nat) : Op Unit := do
  let s ← get
  match s.incidentNumbered n with
  | none => answer .gone
  | some k => do
    match ← readIncident k with
    | none => answer .gone
    | some x =>
      match x.state with
      | .closed => answer .gone
      | .quiet => answer .badState
      | .opened => do
        answer .done
        modify (fun s => (s.setIncident k (x.becomeQuiet .command)).reportIncident k)

/-- DROP_CALL (R110). -/
def execDropCall (call : Word) (s : State) : Host.Outcome State Fault Refusal :=
  .next (s.runEvent (command (callArg call) dropCall))

/-- CLOSE_INCIDENT (R125). -/
def execCloseIncident (incident : Word) (s : State) : Host.Outcome State Fault Refusal :=
  .next (s.runEvent (command (incidentArg incident) closeIncident))

end Sys2Proof.Machine
end

