-- ==== Sys2Proof/Machine/PostCommands.lean ====
section
/-! DEFINITION. The commands of the post table and the fault supervisor: ISOLATE_POST, RESTORE_POST, TEST_POST
(R58 to R60), CLEAR_SEGMENT and INHIBIT_SEGMENT (R87, R88). -/

namespace Sys2Proof.Machine

/-- ISOLATE_POST as decided by the post table (R58). -/
def isolatePost (i : Fin 256) : Op Unit := do
  let p ← readPost i
  if p.state = .isolated then answer .badState
  else do
    answer .done
    let s ← get
    match p.liveCall.bind s.callNumbered with
    | some r => endCall r .lineFault
    | none => pure ()
    if p.deferred then do
      endReserved i .lineFault
      modify (fun s => s.removeDeferral i)
    else pure ()
    pend i .release none
    modify (fun s => s.setPost i { s.post i with state := .isolated, barred := 0 })
    followFar i

/-- State that RESTORE_POST gives a post (R59). -/
def State.restoredState (s : State) (i : Fin 256) : PostState :=
  if (s.segment (postSegment i)).serving && !s.beyondBreak i then .unknown else .unreachable

/-- RESTORE_POST as decided by the post table (R59). A post at the far limit that becomes UNREACHABLE moves the far limit
(R194). -/
def restorePost (i : Fin 256) : Op Unit := do
  let p ← readPost i
  if p.state = .isolated ∨ p.state = .silent then do
    answer .done
    modify (fun s => (s.setPost i { p with
      state := s.restoredState i, misses := 0, identity := none, identityMatch := .unread }).rejoinPolled i)
    let s ← get
    if (s.post i).state = .unreachable then followFar i else pure ()
  else answer .badState

/-- TEST_POST as decided by the post table (R60). -/
def testPost (i : Fin 256) : Op Unit := do
  let p ← readPost i
  if p.state ≠ .present then answer .badState
  else if p.liveCall.isSome ∨ p.deferred ∨ p.commands ≠ [] then answer .busy
  else do
    answer .done
    modify (fun s => s.setPost i { p with testCancelled := false })
    pend i .test none

/-- CLEAR_SEGMENT as decided by the fault supervisor (R87). -/
def clearSegment (g : Fin 8) : Op Unit := do
  let s ← get
  let x := s.segment g
  if x.state = .latched ∨ x.state = .inhibited then do
    answer .done
    modify (fun s => s.setSegmentTimers g { x with retryTimer := none, retryCount := 0 })
    enterSweep g
  else answer .badState

/-- INHIBIT_SEGMENT as decided by the fault supervisor (R88). -/
def inhibitSegment (g : Fin 8) : Op Unit := do
  let s ← get
  let x := s.segment g
  let y := { x with state := .inhibited, retryTimer := none, retryCount := 0 }
  if x.state = .unused then answer .badState
  else do
    answer .done
    if x.serving then leaveService g y
    else if x = y then pure ()
    else modify (fun s => (s.setSegmentTimers g y).reportBoth (.segment g))

/-- ISOLATE_POST (R58). -/
def execIsolatePost (segment drop : Word) (s : State) : Host.Outcome State Fault Refusal :=
  .next (s.runEvent (command (postArg segment drop) isolatePost))

/-- RESTORE_POST (R59). -/
def execRestorePost (segment drop : Word) (s : State) : Host.Outcome State Fault Refusal :=
  .next (s.runEvent (command (postArg segment drop) restorePost))

/-- TEST_POST (R60). -/
def execTestPost (segment drop : Word) (s : State) : Host.Outcome State Fault Refusal :=
  .next (s.runEvent (command (postArg segment drop) testPost))

/-- CLEAR_SEGMENT (R87). -/
def execClearSegment (segment : Word) (s : State) : Host.Outcome State Fault Refusal :=
  .next (s.runEvent (command (segmentArg segment) clearSegment))

/-- INHIBIT_SEGMENT (R88). -/
def execInhibitSegment (segment : Word) (s : State) : Host.Outcome State Fault Refusal :=
  .next (s.runEvent (command (segmentArg segment) inhibitSegment))

end Sys2Proof.Machine
end

