-- ==== Sys2Proof/Machine/PositionCommands.lean ====
section
/-! DEFINITION. The dispatcher's commands: OPEN_POSITION, CLOSE_POSITION, ACCEPT, DECLINE, RELEASE, READY, PICK and
CALLBACK (R135, R137, R140, R142 to R146). -/

namespace Sys2Proof.Machine

/-! ### Shared steps -/

/-- A call's channel is connected to a position and CONNECT is pended to its post (R135 steps 4 and 5, R145, R158). -/
def connectCall (p : Fin 16) (r : Fin 64) : Op Unit := do
  connectRequest p r
  withCall r fun c =>
    match c.channel with
    | some ch => pend c.post (.connect ch) (some c.number)
    | none => pure ()

/-- A position ACTIVE with a call it has accepted: miss count 0 and last offer ACCEPTED (R135 step 3, R145). -/
def Position.accepting (x : Position) (n : Nat) : Position :=
  { x.cleared with state := .active, current := some n, misses := 0, lastOffer := some { call := n, outcome := .accepted } }

/-- One of two parties leaves a call, which stays ACTIVE (R140 row 2, R161). -/
def partyLeaves (p : Fin 16) (r : Fin 64) : Op Unit := do
  disconnectRequest p
  modify (fun s => (s.modifyCall r (fun c => { c with parties := c.parties.erase p })).reportCall r)
  wrapupPosition p

/-- The last offer of a position names a call. -/
def Position.offered (x : Position) (n : Nat) : Option OfferOutcome :=
  match x.lastOffer with
  | some o => if o.call = n then some o.outcome else none
  | none => none

/-- A call is the one a position is OFFERED with. -/
def Position.offeredNow (x : Position) (n : Nat) : Bool := x.state == .offered && x.current == some n

/-- An offer ends and its call returns to the queue: the channel is freed, the call is QUEUED again (R136, R137). -/
def returnOffer (r : Fin 64) : Op Unit := do
  freeCallChannel r
  modify (fun s => s.returnToQueue r)

/-! ### The commands -/

/-- OPEN_POSITION as decided by the dispatcher (R143). -/
def openPosition (p : Fin 16) : Op Unit := do
  let x ← readPosition p
  if x.state = .closed then do
    answer .done
    modify (fun s => s.placePosition p { x.toFree s.time with misses := 0 })
  else answer .badState

/-- CLOSE_POSITION as decided by the dispatcher (R144). -/
def closePosition (p : Fin 16) : Op Unit := do
  let x ← readPosition p
  if (x.state = .free ∨ x.state = .wrapup) ∧ x.held = [] then do
    answer .done
    modify (fun s => s.setPosition p { x.cleared with state := .closed })
  else answer .busy

/-- An offered call is accepted (R135). The position alone decides the result, and the offer timer goes before the call's
record is read. -/
def acceptOffer (p : Fin 16) (x : Position) (n : Nat) : Op Unit := do
  answer .done
  removeOfferTimer p
  withLive n fun r c => do
    modify (fun s => (s.setCall r { c with state := .connecting }).reportCall r)
    modify (fun s => s.setPosition p (x.accepting n))
    connectCall p r

/-- A call number that names no live call is refused GONE, and any other BAD_STATE (R135 rows 5 and 6, R137). -/
def refuseCall (n : Nat) : Op Unit := do
  let live ← liveRecord n
  answer (if live.isNone then .gone else .badState)

/-- ACCEPT as decided by the dispatcher (R135). -/
def acceptCall (a : Fin 16 × Nat) : Op Unit := do
  let x ← readPosition a.1
  if x.offeredNow a.2 then acceptOffer a.1 x a.2
  else
    match x.offered a.2 with
    | some .timedOut => answer .late
    | some .withdrawn => answer .withdrawn
    | some .callerGone => answer .gone
    | some .accepted | none => refuseCall a.2

/-- An offered call is declined (R137). The position alone decides the result, and the offer timer goes before the call's
record is read. -/
def declineOffer (p : Fin 16) (x : Position) (n : Nat) : Op Unit := do
  answer .done
  removeOfferTimer p
  withLive n fun r c => do
    modify (fun s => s.setCall r
      { c with declinedBy := if c.declinedBy.contains p then c.declinedBy else c.declinedBy ++ [p] })
    returnOffer r
    modify (fun s => s.placePosition p { x.toFree s.time with lastOffer := none })

/-- DECLINE as decided by the dispatcher (R137). -/
def declineCall (a : Fin 16 × Nat) : Op Unit := do
  let x ← readPosition a.1
  if x.offeredNow a.2 then declineOffer a.1 x a.2
  else if (x.offered a.2).isSome then answer .badState
  else refuseCall a.2

/-- RELEASE of an ACTIVE position. Its row of R140 depends on the parties, so the call's record is read before the result is
decided (log entry 5). -/
def releaseActive (p : Fin 16) (x : Position) : Op Unit := do
  match ← currentRecord x with
  | none => answer .badState
  | some (r, c) => do
    answer .done
    if c.parties.length = 2 then partyLeaves p r else endCall r .clearedByOperator

/-- RELEASE of a DIALLING position, whose state alone decides the result (R140): its callback ends (R148). -/
def releaseDialling (x : Position) : Op Unit := do
  answer .done
  match x.current with
  | none => pure ()
  | some n => withLive n fun r _ => endCall r .clearedByOperator

/-- RELEASE as decided by the dispatcher (R140). -/
def releasePosition (p : Fin 16) : Op Unit := do
  let x ← readPosition p
  match x.state with
  | .active => releaseActive p x
  | .dialling => releaseDialling x
  | .closed | .free | .offered | .wrapup => answer .badState

/-- READY as decided by the dispatcher (R142). -/
def readyPosition (p : Fin 16) : Op Unit := do
  let x ← readPosition p
  if x.state = .wrapup then do
    answer .done
    freePosition p
  else answer .badState

/-- A call is picked (R145). -/
def pickQueued (p : Fin 16) (x : Position) (r : Fin 64) (c : Call) : Op Unit := do
  answer .done
  reserveChannel (postSegment c.post) r
  modify (fun s => s.takeFromQueue r p .connecting)
  modify (fun s => s.setPosition p (x.accepting c.number))
  connectCall p r

/-- PICK as decided by the dispatcher (R145). -/
def pickCall (a : Fin 16 × Nat) : Op Unit := do
  match ← liveRecord a.2 with
  | none => answer .gone
  | some (r, c) => do
    let x ← readPosition a.1
    if ¬ x.eligible then answer .busy
    else if c.state ≠ .queued then answer .badState
    else do
      let q ← readPost c.post
      let s ← get
      let g := postSegment c.post
      if q.state ≠ .present ∨ (s.segment g).state ≠ .active then answer .badState
      else if (s.freeChannel g).isNone then answer .noChannel
      else pickQueued a.1 x r c

/-- A callback is created (R146). Its record is RINGING from step 1, in which it is filled, and not from the reservation of
step 2 (log entry 58). -/
def createCallback (p : Fin 16) (x : Position) (i : Fin 256) (r : Fin 64) : Op Unit := do
  answer .done
  modify (fun s => ((s.takeRecord r i .callback .ringing).modifyCall r (fun c =>
    { c with arrivalTime := some s.time, far := (s.post i).side == .far, parties := [p] })).reportCall r)
  reserveChannel (postSegment i) r
  withCall r fun c => do
    modify (fun s => s.setPost i { s.post i with liveCall := some c.number })
    modify (fun s => s.setPosition p { x.cleared with
      state := .dialling, current := some c.number, ringTimer := some (s.after s.ringTicks) })
    pend i .ring (some c.number)

/-- CALLBACK as decided by the dispatcher (R146). -/
def callbackPost (a : Fin 16 × Fin 256) : Op Unit := do
  let x ← readPosition a.1
  if ¬ x.eligible then answer .busy
  else do
    let q ← readPost a.2
    let s ← get
    let g := postSegment a.2
    if q.state ≠ .present ∨ (s.segment g).state ≠ .active ∨ q.liveCall.isSome ∨ q.deferred then answer .badState
    else if (s.freeChannel g).isNone then answer .noChannel
    else
      match s.freeCall with
      | none => answer .tableFull
      | some r => createCallback a.1 x a.2 r

/-- OPEN_POSITION (R143). -/
def execOpenPosition (position : Word) (s : State) : Host.Outcome State Fault Refusal :=
  .next (s.runEvent (command (positionArg position) openPosition))

/-- CLOSE_POSITION (R144). -/
def execClosePosition (position : Word) (s : State) : Host.Outcome State Fault Refusal :=
  .next (s.runEvent (command (positionArg position) closePosition))

/-- ACCEPT (R135). -/
def execAccept (position call : Word) (s : State) : Host.Outcome State Fault Refusal :=
  .next (s.runEvent (command (bothArgs (positionArg position) (callArg call)) acceptCall))

/-- DECLINE (R137). -/
def execDecline (position call : Word) (s : State) : Host.Outcome State Fault Refusal :=
  .next (s.runEvent (command (bothArgs (positionArg position) (callArg call)) declineCall))

/-- RELEASE (R140). -/
def execRelease (position : Word) (s : State) : Host.Outcome State Fault Refusal :=
  .next (s.runEvent (command (positionArg position) releasePosition))

/-- READY (R142). -/
def execReady (position : Word) (s : State) : Host.Outcome State Fault Refusal :=
  .next (s.runEvent (command (positionArg position) readyPosition))

/-- PICK (R145). -/
def execPick (position call : Word) (s : State) : Host.Outcome State Fault Refusal :=
  .next (s.runEvent (command (bothArgs (positionArg position) (callArg call)) pickCall))

/-- CALLBACK (R146). -/
def execCallback (position segment drop : Word) (s : State) : Host.Outcome State Fault Refusal :=
  .next (s.runEvent (command (bothArgs (positionArg position) (postArg segment drop)) callbackPost))

end Sys2Proof.Machine
end

