-- ==== Sys2Proof/Machine/SpeechCommands.lean ====
section
/-! DEFINITION. The speech switch's commands: HOLD, RETRIEVE, JOIN and LEAVE (R157, R158, R160, R161). -/

namespace Sys2Proof.Machine

/-- A call is held by a position (R157). -/
def holdActive (p : Fin 16) (r : Fin 64) (c : Call) : Op Unit := do
  answer .done
  modify (fun s => (s.setCall r { c with state := .held, holder := some p, parties := [] }).reportCall r)
  let q ← readPost c.post
  if q.side = .far then farCallLeft (postSegment c.post) else pure ()
  freeCallChannel r
  let x ← readPosition p
  modify (fun s => s.placePosition p { x.toFree s.time with held := x.held ++ [c.number] })
  pend c.post (.play .hold) (some c.number)

/-- HOLD as decided by the speech switch (R157). -/
def holdCall (p : Fin 16) : Op Unit := do
  let x ← readPosition p
  if x.state = .active then
    match ← currentRecord x with
    | none => answer .badState
    | some (r, c) =>
      if c.state ≠ .active then answer .badState
      else if c.parties.length = 2 then answer .badState
      else if x.held.length = 2 then answer .busy
      else holdActive p r c
  else answer .badState

/-- A held call is retrieved (R158). -/
def retrieveHeld (p : Fin 16) (x : Position) (r : Fin 64) (c : Call) : Op Unit := do
  answer .done
  reserveChannel (postSegment c.post) r
  modify (fun s => (s.modifyCall r (fun c => { c with state := .retrieving, parties := [p], holder := none })).reportCall r)
  modify (fun s => s.setPosition p { x.cleared with
    state := .active, current := some c.number, held := x.held.erase c.number })
  connectCall p r

/-- RETRIEVE as decided by the speech switch (R158). The position's record is read for row 3, the first row that needs it. -/
def retrieveCall (a : Fin 16 × Nat) : Op Unit := do
  match ← liveRecord a.2 with
  | none => answer .gone
  | some (r, c) =>
    if c.state ≠ .held ∨ c.holder ≠ some a.1 then answer .badState
    else do
      let x ← readPosition a.1
      let s ← get
      if x.state ≠ .free then answer .busy
      else if (s.freeChannel (postSegment c.post)).isNone then answer .noChannel
      else retrieveHeld a.1 x r c

/-- A second position joins a call (R160). -/
def joinActive (q : Fin 16) (x : Position) (r : Fin 64) (c : Call) : Op Unit := do
  answer .done
  modify (fun s => (s.setCall r { c with parties := c.parties ++ [q] }).reportCall r)
  modify (fun s => s.setPosition q { x.cleared with state := .active, current := some c.number })
  connectRequest q r

/-- JOIN as decided by the speech switch (R160). -/
def joinCall (a : Fin 16 × Nat) : Op Unit := do
  match ← liveRecord a.2 with
  | none => answer .gone
  | some (r, c) => do
    let x ← readPosition a.1
    if ¬ x.eligible then answer .busy
    else if c.state ≠ .active ∨ c.parties.length = 2 then answer .badState
    else joinActive a.1 x r c

/-- LEAVE as decided by the speech switch (R161). -/
def leaveCall (q : Fin 16) : Op Unit := do
  let x ← readPosition q
  if x.state = .active then
    match ← currentRecord x with
    | none => answer .badState
    | some (r, c) =>
      if c.parties.length = 2 then do
        answer .done
        partyLeaves q r
      else answer .badState
  else answer .badState

/-- HOLD (R157). -/
def execHold (position : Word) (s : State) : Host.Outcome State Fault Refusal :=
  .next (s.runEvent (command (positionArg position) holdCall))

/-- RETRIEVE (R158). -/
def execRetrieve (position call : Word) (s : State) : Host.Outcome State Fault Refusal :=
  .next (s.runEvent (command (bothArgs (positionArg position) (callArg call)) retrieveCall))

/-- JOIN (R160). -/
def execJoin (position call : Word) (s : State) : Host.Outcome State Fault Refusal :=
  .next (s.runEvent (command (bothArgs (positionArg position) (callArg call)) joinCall))

/-- LEAVE (R161). -/
def execLeave (position : Word) (s : State) : Host.Outcome State Fault Refusal :=
  .next (s.runEvent (command (positionArg position) leaveCall))

end Sys2Proof.Machine
end

