-- ==== Sys2Proof/Machine/HostBus.lean ====
section
/-! DEFINITION. The memory path: host accesses (R2, R9, R12, R13), the snoop (R4, R10, R16, R17, R63, R169), the write
of the queue head (R11, R13), the release of the window set (R7) and the command taker (R18, R19). -/

namespace Sys2Proof.Machine

/-! ### The snoop (R4) -/

/-- An anchor shadow word replaced. -/
def State.setAnchor (n : Fin 128) (v : Word) (s : State) : State :=
  { s with path := { s.path with anchor := put s.path.anchor n v } }

/-- A parameter word snooped: clamped outside STANDBY, and a clamp sets the flag (R10). -/
def State.parameterWritten (n : Fin 128) (v : Word) (s : State) : State :=
  let c := if s.engine.state == .standby then v else clampParameter n.val v
  let s := s.setAnchor n c
  let s := if n = Config.silentModeWord then s.syncAllPolled else s
  if c == v then s else s.setClamped true

/-- The slots named by `k` counts from `count` on (R17). -/
def slotsFrom (entries : Nat) (count : Word) (k : Nat) : List (Fin 64) :=
  (List.range k).map (fun i => Fin.ofNat 64 ((count.toNat + i) % entries))

/-- A class A fault of the host interface, with its detail (R172). -/
def State.hostFault (kind : FaultKind) (detail : Nat) (s : State) : State :=
  s.recordFault engineSlot kind 0 (BitVec.ofNat 32 detail)

/-- A snooped write of the command producer index is judged (R17). -/
def State.producerWritten (v : Word) (s : State) : State :=
  match s.path.windows with
  | none => s
  | some w =>
    let current := (s.path.heldProducer - s.path.heldConsumer).toNat
    let requested := (v - s.path.heldConsumer).toNat
    if current ≤ requested ∧ requested ≤ w.commandCount then
      { s with path := { s.path with
          heldProducer := v
          published := s.path.published ++ slotsFrom w.commandCount s.path.heldProducer (requested - current) } }
    else s.hostFault .producerInvalid v.toNat

/-- A snooped write of the event consumer index is judged (R169). -/
def State.consumerWritten (v : Word) (s : State) : State :=
  if s.path.windows.isNone then s
  else if (v - s.reports.consumer).toNat ≤ (s.reports.producer - s.reports.consumer).toNat then
    { s with reports := { s.reports with consumer := v } }
  else s.hostFault .consumerInvalid v.toNat

/-- A snooped write of an anchor word, with the merged value (R4). -/
def anchorWritten (n : Fin 128) (v : Word) : Op Unit := do
  if n = Config.controlWord then do
    modify (fun s => s.setAnchor n v)
    controlWritten
  else if isParameter n.val then modify (fun s => s.parameterWritten n v)
  else if n = Config.commandProducer then modify (fun s => (s.setAnchor n v).producerWritten v)
  else if n = Config.eventConsumer then modify (fun s => (s.setAnchor n v).consumerWritten v)
  else modify (fun s => s.setAnchor n v)

/-- The directory shadow is being read: no entry is VALID until the read has ended (R61). -/
def State.readingDirectory (s : State) : Bool := s.engine.step == .directoryRead || s.engine.step == .reloading

/-- Whether a change of a directory entry bears on its post: its validity, its configured flag while VALID, or its
expected identity while VALID (R63). -/
def DirectoryEntry.bears (old new : DirectoryEntry) : Bool :=
  old.valid != new.valid
    || (new.valid && (entryConfigured old.words != entryConfigured new.words
          || entryIdentity old.words != entryIdentity new.words))

/-- A directory shadow entry replaced. -/
def State.setEntry (i : Fin 256) (e : DirectoryEntry) (s : State) : State :=
  { s with directory := put s.directory i e }

/-- A snooped write of a directory word, with the merged value (R61 to R63). -/
def directoryWritten (i : Fin 256) (n : Fin 8) (v : Word) : Op Unit := do
  let s ← get
  let old := s.entry i
  let words := put old.words n v
  let new : DirectoryEntry := { words := words, valid := !s.readingDirectory && entryValid words }
  set (s.setEntry i new)
  if old.bears new then do
    let p ← readPost i
    modify (fun s => (s.syncPolled i).writeJudged i p p.identity)
  else pure ()

/-- The bytes of a slot word that the enables select, recorded as written (R16). -/
def markWritten (w : Vector Bool 16) (n : Fin 8) (en : Enables) : Vector Bool 16 :=
  let hi : Fin 16 := ⟨2 * n.val, by omega⟩
  let lo : Fin 16 := ⟨2 * n.val + 1, by omega⟩
  let w := if en.hi then put w hi true else w
  if en.lo then put w lo true else w

/-- A snooped write into a host-owned slot of the command ring (R16). -/
def State.slotWritten (k : Fin 64) (n : Fin 8) (en : Enables) (v : Word) (s : State) : State :=
  let sl := s.path.slots.get k
  let new : Slot := { words := put sl.words n (mergeWord en (sl.words.get n) v), written := markWritten sl.written n en }
  { s with path := { s.path with slots := put s.path.slots k new } }

/-- A host write that has reached the memory side is offered to the snoop (R4). -/
def snoop (a : Nat) (v : Word) (en : Enables) : Op Unit := do
  let s ← get
  match anchorWordAt a, s.directoryAt a, s.slotAt a with
  | some n, _, _ => anchorWritten n (mergeWord en (s.anchorWord n) v)
  | none, some (i, n), _ => directoryWritten i n (mergeWord en ((s.entry i).words.get n) v)
  | none, none, some (k, n) => modify (fun s => s.slotWritten k n en v)
  | none, none, none => pure ()

/-! ### Host accesses -/

/-- A host write of a word touches a part-owned word, or a layout word outside STANDBY (R9). -/
def State.trespasses (s : State) (a : Nat) : Bool :=
  s.partOwned a || (s.engine.state != .standby && (match anchorWordAt a with | some n => layoutWord n | none => false))

/-- Lowest byte address that a host write writes. -/
def byteWritten (a : Nat) (en : Enables) : Nat := if en.hi then a else a + 1

/-- A host write is served: suppressed as a trespass, or written and snooped (R2, R4, R9). -/
def serveWrite (address : BitVec 24) (v : Word) (en : Enables) : Op Unit := do
  let s ← get
  let a := wordAddress address
  if ¬ (en.hi ∨ en.lo) then pure ()
  else if s.trespasses a then set (s.hostFault .trespass (byteWritten a en))
  else do
    set { s with mem := Memory.write s.mem a en v }
    snoop a v en

/-- The word that a host read of an address returns: the queued value, or the memory's (R12). -/
def State.readWord (s : State) (a : Nat) : Word := (queuedValue s.path.queue a).getD (Memory.word s.mem a)

/-- A host read is served (R2, R12). -/
def State.serveRead (address : BitVec 24) (en : Enables) (s : State) : State :=
  { s with path := { s.path with
      reply := some { address := address, enables := en, data := s.readWord (wordAddress address) } } }

/-- A host access completes: the arbiter chooses who is next (R13). Each access that is acknowledged takes a turn, also one
that the memory side does not carry: a trespass, a write with no byte enabled, a read answered from the queue (log entry
14). -/
def State.accessDone (s : State) : State :=
  { s with path := { s.path with partTurn := Config.alternationMark ≤ s.path.queue.length || s.partReadWaiting } }

/-- A host access is served, its acknowledge given (R2); the snoop acts on a write that has reached the memory side
(R4). -/
def serveAccess (x : HostAccess) : Op Unit := do
  modify State.accessDone
  match x with
  | .read a en => modify (fun s => s.serveRead a en)
  | .write a v en => serveWrite a v en

/-- A host access must wait: the drain holds it, or the next grant is the part's, for the queue head or for the last word
of the part read under way, whose row is still to come (R13, R14, R15; log entry 16). -/
def State.accessWaits (s : State) : Bool :=
  s.hostHeld || (s.path.partTurn && (!s.path.queue.isEmpty || (s.partReadWaiting && s.path.readWords ≤ 1)))

/-- The part's grant before a host access that arrives: one word of the part read under way, where the next grant is the
part's and its queue is empty (R13). -/
def State.grantRead (s : State) : State :=
  if s.path.partTurn && s.path.queue.isEmpty && s.partReadWaiting then
    { s with path := { s.path with partTurn := false, readWords := s.path.readWords - 1 } }
  else s

/-- A host access behind those that wait already. -/
def State.holdAccess (x : HostAccess) (s : State) : State :=
  { s with path := { s.path with heldAccesses := s.path.heldAccesses ++ [x] } }

/-- Held host accesses are served in their order, each an event of its own, until one must wait again (R13, R15). -/
def State.serveHeldList : List HostAccess → State → State
  | [], s => s
  | x :: rest, s =>
    if s.accessWaits then s
    else
      let t := s.grantRead
      State.serveHeldList rest
        (State.settle { t with path := { t.path with heldAccesses := rest } } (serveAccess x))

/-- Held host accesses are served (R13, R15). -/
def State.serveHeld (s : State) : State := State.serveHeldList s.path.heldAccesses s

/-- A host access arrives: it is served, or held back with its acknowledge withheld, behind those that wait already
(R2, R13, R15). -/
def State.hostAccess (x : HostAccess) (s : State) : State := (s.holdAccess x).serveHeld

/-! ### The write-back queue and the window set -/

/-- A waiting writer appends what it can (R11). -/
def flushWriter : Writer → Op Unit
  | .engine => modify (fun s => s.engineWrites [])
  | .taker => modify (fun s => s.flushTaker)
  | .report => flushReports

/-- The waiting writers in the order they are taken, `first` first (R11). -/
def writerOrder : Writer → List Writer
  | .engine => [.engine, .taker, .report]
  | .taker => [.taker, .engine, .report]
  | .report => [.report, .engine, .taker]

/-- The head of the write-back queue is written to memory and leaves it; waiting writers append, and held host accesses are
served (R11, R13). -/
def State.queueHeadWritten (first : Writer) (s : State) : State :=
  match s.path.queue with
  | [] => s
  | e :: rest =>
    let s := { s with
      mem := Memory.write s.mem e.address bothLanes e.value
      path := { s.path with queue := rest, partTurn := false } }
    ((writerOrder first).foldl (fun s w => s.settle (flushWriter w)) s).serveHeld

/-- The window set is released in STANDBY with the queue empty (R7). -/
def windowSetReleased : Op Unit :=
  modify (fun s =>
    if s.engine.state == .standby && s.path.queue.isEmpty && s.path.engineWaiting.isEmpty && s.path.windows.isSome then
      { s with path := { s.path with
          windows := none, published := [], refused := [], slots := Vector.replicate 64 .reset } }
    else s)

/-! ### The command taker -/

/-- The command of a taken entry as its owning block's event (R18). -/
def commandEvent : Instr → Op Unit
  | .isolatePost g d => command (postArg g d) isolatePost
  | .restorePost g d => command (postArg g d) restorePost
  | .testPost g d => command (postArg g d) testPost
  | .clearSegment g => command (segmentArg g) clearSegment
  | .inhibitSegment g => command (segmentArg g) inhibitSegment
  | .dropCall c => command (callArg c) dropCall
  | .closeIncident k => command (incidentArg k) closeIncident
  | .openPosition p => command (positionArg p) openPosition
  | .closePosition p => command (positionArg p) closePosition
  | .accept p c => command (bothArgs (positionArg p) (callArg c)) acceptCall
  | .decline p c => command (bothArgs (positionArg p) (callArg c)) declineCall
  | .release p => command (positionArg p) releasePosition
  | .ready p => command (positionArg p) readyPosition
  | .pick p c => command (bothArgs (positionArg p) (callArg c)) pickCall
  | .callback p g d => command (bothArgs (positionArg p) (postArg g d)) callbackPost
  | .hold p => command (positionArg p) holdCall
  | .retrieve p c => command (bothArgs (positionArg p) (callArg c)) retrieveCall
  | .join p c => command (bothArgs (positionArg p) (callArg c)) joinCall
  | .leave p => command (positionArg p) leaveCall
  | .powerOnReset | .hostResetLine | .timeBaseTick | .hostRead .. | .hostWrite .. | .runWrite .. | .stopWrite ..
  | .parameterWrite .. | .commandSlotWrite .. | .commandProducerWrite .. | .eventConsumerWrite .. | .directoryWrite ..
  | .queueHeadWrite .. | .windowSetRelease | .startUp | .anchorReadDone | .directoryReadDone | .commandTake
  | .chooseNextExchange .. | .telegramSent .. | .arbitrationField .. | .ident .. | .status .. | .done .. | .request ..
  | .checkFailure .. | .wrongResponder .. | .strayTelegram .. | .replyTimeExpiry .. | .overCurrentAssert ..
  | .overCurrentClear .. | .deglitchTimerExpiry .. | .retryTimerExpiry .. | .stableTimerExpiry ..
  | .restoreTimerExpiry .. | .reAnnouncementTimerExpiry | .windowTimerExpiry .. | .offerTimerExpiry ..
  | .wrapTimerExpiry .. | .ringTimerExpiry .. | .serveReportEntry | .drainEnd | .restartAreaWritten
  | .restartReloadDone => answer .unknown

/-- The slot held is judged, and a command that passes is handed to its owner (R18). -/
def judgeSlot (sl : Slot) : Op Unit :=
  if sl.framed then
    match commandOf sl.words with
    | none => answer .unknown
    | some i => commandEvent i
  else answer .framing

/-- A command that waited out a restart has no effect: it is judged as outside RUN (R188, R190). -/
def State.refuseCommand (sl : Slot) (s : State) : State :=
  let t := State.settle { s with engine := { s.engine with state := .restarting } } (judgeSlot sl)
  { s with commandResult := t.commandResult }

/-- The result word of a slot: its tag and a result code (12.4, R19). -/
def resultWord (sl : Slot) (r : ResultCode) : Word := wordOf (highByte (sl.words.get 0)) r.code

/-- The answer of a slot begins: its written-words set is cleared and its result word is to be queued (R19). -/
def State.answerSlot (k : Fin 64) (s : State) : State :=
  let sl := s.path.slots.get k
  let r := s.commandResult.getD .notRunning
  ({ s with path := { s.path with
      slots := put s.path.slots k { sl with written := Vector.replicate 16 false }
      refused := s.path.refused.erase k
      taker := .result k (resultWord sl r) } } : State).flushTaker

/-- The slot that the command taker may take: the head of the published list, while it holds none and does not wait
(R18). -/
def State.takeableSlot (s : State) : Option (Fin 64) :=
  if s.path.taker == .idle && !s.takerPaused && s.path.windows.isSome then s.path.published.head? else none

/-- The command taker takes the head published slot, and answers it (R18, R19); one that waited out a restart is answered
NOT_RUNNING (R188). -/
def State.takeCommand (s : State) : State :=
  match s.takeableSlot with
  | none => s
  | some k =>
    let sl := s.path.slots.get k
    let t := if s.path.refused.contains k then (s.refuseCommand sl).followUp else s.runEvent (judgeSlot sl)
    t.answerSlot k

/-! ### The rows -/

/-- HOST_READ (R12). -/
def execHostRead (address : BitVec 24) (en : Enables) (s : State) : Host.Outcome State Fault Refusal :=
  .next (s.hostAccess (.read address en)).followUp

/-- HOST_WRITE (R2). -/
def execHostWrite (address : BitVec 24) (data : Word) (en : Enables) (s : State) : Host.Outcome State Fault Refusal :=
  .next (s.hostAccess (.write address data en)).followUp

/-- Byte address of an anchor word as a host address. -/
def anchorHostAddress (n : Fin 128) : BitVec 24 := BitVec.ofNat 24 (Config.anchorAddress n.val)

/-- RUN_WRITE (R178). -/
def execRunWrite (en : Enables) (s : State) : Host.Outcome State Fault Refusal :=
  .next (s.hostAccess (.write (anchorHostAddress Config.controlWord) 1 en)).followUp

/-- STOP_WRITE (R178). -/
def execStopWrite (data : Word) (en : Enables) (s : State) : Host.Outcome State Fault Refusal :=
  .next (s.hostAccess (.write (anchorHostAddress Config.controlWord) data en)).followUp

/-- PARAMETER_WRITE (R10). -/
def execParameterWrite (address : BitVec 24) (data : Word) (en : Enables) (s : State) : Host.Outcome State Fault Refusal :=
  .next (s.hostAccess (.write address data en)).followUp

/-- COMMAND_SLOT_WRITE (R16). -/
def execCommandSlotWrite (address : BitVec 24) (data : Word) (en : Enables) (s : State) : Host.Outcome State Fault Refusal :=
  .next (s.hostAccess (.write address data en)).followUp

/-- COMMAND_PRODUCER_WRITE (R17). -/
def execCommandProducerWrite (data : Word) (en : Enables) (s : State) : Host.Outcome State Fault Refusal :=
  .next (s.hostAccess (.write (anchorHostAddress Config.commandProducer) data en)).followUp

/-- EVENT_CONSUMER_WRITE (R169). -/
def execEventConsumerWrite (data : Word) (en : Enables) (s : State) : Host.Outcome State Fault Refusal :=
  .next (s.hostAccess (.write (anchorHostAddress Config.eventConsumer) data en)).followUp

/-- DIRECTORY_WRITE (R63). -/
def execDirectoryWrite (address : BitVec 24) (data : Word) (en : Enables) (s : State) : Host.Outcome State Fault Refusal :=
  .next (s.hostAccess (.write address data en)).followUp

/-- QUEUE_HEAD_WRITE (R11). -/
def execQueueHeadWrite (first : Writer) (s : State) : Host.Outcome State Fault Refusal :=
  .next (s.queueHeadWritten first).followUp

/-- WINDOW_SET_RELEASE (R7). -/
def execWindowSetRelease (s : State) : Host.Outcome State Fault Refusal := .next (s.runEvent windowSetReleased)

/-- COMMAND_TAKE (R18). -/
def execCommandTake (s : State) : Host.Outcome State Fault Refusal := .next s.takeCommand

end Sys2Proof.Machine
end

