-- ==== Sys2Proof/Machine/StartUp.lean ====
section
/-! DEFINITION. Resets and the time base (R1, R3, R193), start-up (R180, R181), and the steps of a restart or a failure
clear that wait for the memory port (R15, R188 to R192). -/

namespace Sys2Proof.Machine

/-! ### Resets and the time base -/

/-- One tick of 10 ms (R1). -/
def State.tick (s : State) : State := { s with time := s.time + 1 }

/-- The host's reset line asserts: accesses that have not reached the memory side are dropped (R3). -/
def State.hostReset (s : State) : State :=
  { s with path := { s.path with heldAccesses := [], resetPulses := s.path.resetPulses + 1 } }

/-- A segment end at power-on reset: its input is the line's (R47). -/
def LineEnd.atReset (e : LineEnd) : LineEnd := { LineEnd.reset with overCurrent := e.overCurrent }

/-- The speech switch at power-on reset: every crosspoint is opened without readback (R162). -/
def SpeechSwitch.atReset (x : SpeechSwitch) : SpeechSwitch :=
  { SpeechSwitch.reset with stuck := x.stuck, crosspoints := x.stuck.map (fun o => o.getD none) }

/-- Power-on reset: every block takes its power-on values; the call memory, the inputs from outside and the commands
that wait are not the part's (R193). A host access held with its acknowledge withheld is dropped (log entry 4). -/
def State.powerOn (s : State) : State :=
  { State.reset with
    mem := s.mem, ends := s.ends.map LineEnd.atReset, speech := s.speech.atReset, pending := s.pending }

/-! ### Start-up -/

/-- No part write waits for the memory port, so that a part read is granted (R13). -/
def State.queueDry (s : State) : Bool := s.path.queue.isEmpty && s.path.engineWaiting.isEmpty

/-- A start request is acted on in STANDBY with no window set in effect (R180). -/
def actOnStart : Op Unit :=
  modify (fun s =>
    if s.engine.startRequest && s.engine.state == .standby && s.path.windows.isNone then
      let s := { s with
        engine := { s.engine with startRequest := false, step := .anchorRead }
        path := { s.path with readWords := Config.anchorWords } }
      s.setEngineState .starting
    else s)

/-- The anchor block as memory holds it (R180 step 1). -/
def memoryAnchor (m : List Host.Cell) : Vector Word 128 := Vector.ofFn (fun n => Memory.word m (Config.anchorAddress n.val))

/-- Every parameter of an anchor clamped (R10). -/
def clampAnchor (a : Vector Word 128) : Vector Word 128 :=
  Vector.ofFn (fun n => if isParameter n.val then clampParameter n.val (a.get n) else a.get n)

/-- The anchor did not validate: the reason is set and the engine returns to STANDBY (R180 step 2). -/
def State.anchorInvalid (reason : AnchorReason) (s : State) : State :=
  ({ s with engine := { s.engine with reason := reason, step := .idle } } : State).setEngineState .standby

/-- The anchor validated: the windows come into effect, the parameters are clamped and the directory read begins
(R180 steps 2 to 4). -/
def State.anchorValid (s : State) : State :=
  let changed := s.engine.reason != .ok
  let a := s.path.anchor
  let s := { s with
    path := { s.path with windows := some (layoutOf a), anchor := clampAnchor a }
    engine := { s.engine with reason := .ok } }
  let s := if changed then s.writeStateWord else s
  let s := s.setClamped false
  let s := if clampAnchor a = a then s else s.setClamped true
  s.beginDirectoryRead .directoryRead

/-- The last word of a part read has been granted: the arbiter returns to its order (R13). -/
def State.readDone (s : State) : State := { s with path := { s.path with partTurn := false, readWords := 0 } }

/-- The anchor read ends (R6, R180). -/
def anchorRead : Op Unit :=
  modify (fun s =>
    if s.engine.step == .anchorRead && s.queueDry then
      let s := s.readDone
      let s := { s with path := { s.path with anchor := memoryAnchor s.mem } }
      match validateAnchor s.path.anchor with
      | .ok => s.anchorValid
      | reason => s.anchorInvalid reason
    else s)

/-- A directory entry as memory holds it, judged (R61, R62). -/
def memoryEntry (m : List Host.Cell) (base : Nat) (i : Fin 256) : DirectoryEntry :=
  let words := Vector.ofFn (fun (n : Fin 8) => Memory.word m (base + 16 * i.val + 2 * n.val))
  { words := words, valid := entryValid words }

/-- A directory read ends: the shadow holds what memory holds (R61). -/
def State.loadDirectory (s : State) : State :=
  let s := s.readDone
  match s.path.windows with
  | none => s
  | some w =>
    { s with
      directory := Vector.ofFn (memoryEntry s.mem w.directoryBase)
      engine := { s.engine with step := .idle } }

/-- Step 5 of start-up: the command ring is cleared and its indices take the producer value (R20, R181). -/
def State.setCommandIndices (s : State) : State :=
  let v := s.anchorWord Config.commandProducer
  ({ s with path := { s.path with
      slots := Vector.replicate 64 .reset, published := [], refused := [], taker := .idle
      heldProducer := v, heldConsumer := v } } : State).engineWrites [{ address := Config.anchorAddress Config.commandConsumer.val, value := v }]

/-- Step 6 of start-up: both event indices take the event consumer value (R181). -/
def State.setEventIndices (s : State) : State :=
  let v := s.anchorWord Config.eventConsumer
  ({ s with reports := { s.reports with producer := v, consumer := v, steps := [] } } : State).engineWrites
    [{ address := producerAddress, value := v }]

/-- The restart count becomes 0 (R181); a change writes the state word and lists the engine (R164, R179). -/
def State.clearRestartCount (s : State) : State :=
  if s.engine.restartCount = 0 then s
  else ({ s with engine := { s.engine with restartCount := 0 } } : State).writeStateWord.reportEngine

/-- Step 6 of start-up: the part's records return to their start values (R66, R89, R111, R127, R149, R162, R181). -/
def State.startRecords (s : State) : State :=
  let s := { s with
    posts := Vector.replicate 256 .reset
    positions := Vector.replicate 16 .reset
    segments := Vector.replicate 8 .reset
    calls := s.calls.emptied
    cluster := { s.cluster with records := Vector.replicate 16 none }
    speech := { s.speech with channels := Vector.replicate 32 .freed, connections := Vector.replicate 16 none }
    engine := { s.engine with history := [] } }
  s.syncAllPolled.clearRestartCount

/-- The whole live board is queued by engine control (R174). -/
def State.writeBoard (s : State) : State :=
  match s.path.windows with
  | none => s
  | some w => s.engineWrites (s.wholeBoard w.boardBase)

/-- An entry with its board and event marks cleared (R174). -/
def ReportEntry.faultOnly (e : ReportEntry) : ReportEntry := { e with board := false, event := false, coalesced := 0 }

/-- The report list after the whole-board write of start-up: fault marks alone (R174, R181). The faults it holds are the
first events of the new service. -/
def State.keepFaultMarks (s : State) : State :=
  let s := ({ s with reports := { s.reports with
      list := (s.reports.list.filter (fun e => e.fault)).map ReportEntry.faultOnly } } : State).relistFaults
  { s with reports := { s.reports with startFaults := s.reports.list.filterMap (fun e => e.object.slot) } }

/-- The segments whose used flag is set. -/
def State.usedSegments (s : State) : List (Fin 8) := (List.finRange 8).filter (segmentUsed s.path.anchor)

/-- Each used segment enters SWEEP, in rising segment order (R89, R181, R189; log entry 52). -/
def sweepUsed : Op Unit := do
  let s ← get
  s.usedSegments.forM enterSweep

/-- The directory read of start-up ends: steps 5 to 8 (R181). -/
def directoryRead : Op Unit := do
  let s ← get
  if s.engine.step == .directoryRead && s.queueDry then do
    set (s.loadDirectory.setCommandIndices.setEventIndices.startRecords.writeBoard.keepFaultMarks)
    sweepUsed
    modify (fun s => s.setEngineState .run)
    let s ← get
    if s.controlRun then pure () else enterStopping
  else pure ()

/-! ### Restart and failure clear -/

/-- The drained queue is empty: the restart area is written (R15, R188 step 3). Its contents, the outcome among them, are
fixed here: a class B fault that comes before RESTART_AREA_WRITTEN finds the area written (R190; log entry 59). -/
def drained : Op Unit :=
  modify (fun s =>
    if s.engine.step == .draining && s.queueDry then
      ({ s with engine := { s.engine with area := s.restartArea, step := .areaWriting } } : State).writeRestartArea
    else s)

/-- The restart area write ends: held host accesses are served (R15 step 5), and the steps that follow wait for the
line sides (R189). -/
def State.areaWritten (s : State) : State :=
  if s.engine.step = .areaWriting then
    State.serveHeld { s with
      engine := { s.engine with step := .linesHalting }
      path := { s.path with partTurn := false } }
  else s

/-- Step 7: the whole board is written and the engine listed with its event mark (R189). -/
def State.restartBoard (s : State) : State :=
  let s := s.writeBoard.report .engine false true false
  { s with engine := { s.engine with lastChange := s.time } }

/-- Step 8: the used segments enter SWEEP and the engine returns to RUN; a class B fault found there ends the restart
in FAILED (R189, R190). -/
def State.returnToRun (s : State) : State :=
  match sweepUsed s with
  | .ok _ s => s.setEngineState .run
  | .error f s => (s.classB f).enterFailed

/-- The restart or failure clear ends (R189, R192). -/
def restartEnds : Op Unit := do
  let s ← get
  if s.engine.state ≠ .restarting ∨ s.engine.outcomeFailed then set s.enterFailed
  else if s.controlRun then set s.returnToRun
  else do
    set s.inhibitUsed
    enterStopping

/-- The command taker resumes after the reload: it goes on with the answer it holds, and every other slot published by now
is to be answered NOT_RUNNING (R188, R190; log entry 50). -/
def State.resumeTaker (s : State) : State :=
  let s := s.flushTaker
  let waiting := match s.path.taker with
    | .idle => s.path.published
    | .result k _ | .consumer k => s.path.published.erase k
  { s with path := { s.path with refused := waiting } }

/-- The directory reload ends: the command taker resumes, then step 7 and the end of the restart (R189). -/
def reloaded : Op Unit := do
  let s ← get
  if s.engine.step == .reloading && s.queueDry then do
    set (s.loadDirectory.syncAllPolled.resumeTaker.restartBoard)
    restartEnds
  else pure ()

/-- A part read ends at its row, and the host accesses that waited for its last word are served (R13). -/
def State.readEnds (s : State) (op : Op Unit) : State := (s.settle op).serveHeld.followUp

/-! ### The rows -/

/-- POWER_ON_RESET (R193). -/
def execPowerOnReset (s : State) : Host.Outcome State Fault Refusal := .next s.powerOn

/-- HOST_RESET_LINE (R3). -/
def execHostResetLine (s : State) : Host.Outcome State Fault Refusal := .next s.hostReset

/-- TIME_BASE_TICK (R1). -/
def execTimeBaseTick (s : State) : Host.Outcome State Fault Refusal := .next s.tick

/-- START_UP (R180). -/
def execStartUp (s : State) : Host.Outcome State Fault Refusal := .next (s.runEvent actOnStart)

/-- ANCHOR_READ_DONE (R6). -/
def execAnchorReadDone (s : State) : Host.Outcome State Fault Refusal := .next (s.readEnds anchorRead)

/-- DIRECTORY_READ_DONE (R181). -/
def execDirectoryReadDone (s : State) : Host.Outcome State Fault Refusal := .next (s.readEnds directoryRead)

/-- DRAIN_END (R15). -/
def execDrainEnd (s : State) : Host.Outcome State Fault Refusal := .next (s.runEvent drained)

/-- RESTART_AREA_WRITTEN (R191). -/
def execRestartAreaWritten (s : State) : Host.Outcome State Fault Refusal := .next s.areaWritten.followUp

/-- RESTART_RELOAD_DONE (R189). -/
def execRestartReloadDone (s : State) : Host.Outcome State Fault Refusal := .next (s.readEnds reloaded)

end Sys2Proof.Machine
end

