-- ==== Sys2Proof/Machine/TimerEvents.lean ====
section
/-! DEFINITION. The over-current inputs and the timers (R46, R72, R84, R105, R123, R136, R141, R148). A timer row acts
when its timer runs and the time base has reached its expiry; otherwise its expiry does not happen (log entry 9). -/

namespace Sys2Proof.Machine

/-! ### The line monitor (R46) -/

/-- The over-current input of an end asserts (R46). -/
def overCurrentOn (l : LineId) : Op Unit :=
  modify (fun s =>
    let s := s.updateEnd l (fun e => { e with overCurrent := true })
    if s.feedOn l then s.watchEnd l else s)

/-- The over-current input of an end goes away (R46). -/
def overCurrentOff (l : LineId) : Op Unit :=
  modify (fun s => s.updateEnd l (fun e => { e with overCurrent := false, state := .clear, deglitch := none }))

/-- The deglitch timer of a PENDING end expires: SHORT, and LINE_SHORT goes to the fault supervisor (R46). -/
def deglitchExpires (l : LineId) : Op Unit := do
  let s ← get
  if (s.segmentEnd l).state = .awaiting ∧ timerDue s.time (s.segmentEnd l).deglitch then do
    set (s.updateEnd l (fun e => { e with state := .short, deglitch := none }))
    segmentFault l .short
  else pure ()

/-! ### The timers of a segment -/

/-- The retry timer of an INHIBITED segment expires (R72). -/
def retryExpires (g : Fin 8) : Op Unit := do
  let s ← get
  let x := s.segment g
  if x.state = .inhibited ∧ timerDue s.time x.retryTimer then
    if s.inRun then enterSweep g else set (s.setSegmentTimers g { x with retryTimer := none })
  else pure ()

/-- The stable timer of an ACTIVE segment expires (R72). -/
def stableExpires (g : Fin 8) : Op Unit := do
  let s ← get
  let x := s.segment g
  if x.state = .active ∧ timerDue s.time x.stableTimer then
    set ((s.setSegmentTimers g { x with retryCount := 0, stableTimer := none }).reportBoth (.segment g))
  else pure ()

/-- The restore timer of a break in CUT or FED expires: in RUN a restore probe of the far limit drop, or of the first
run drop, is asked of the NEAR side (R84, R89). -/
def restoreExpires (g : Fin 8) : Op Unit := do
  let s ← get
  match s.broken g with
  | some b =>
    if timerDue s.time b.restoreTimer then do
      set (s.setBreak g { b with restoreTimer := none })
      if s.inRun ∧ b.state ≠ .restorePending then
        modify (fun s => s.updateLine (nearOf g) (fun x => { x with probe := some (b.farLimit.getD b.firstRun) }))
      else pure ()
    else pure ()
  | none => pure ()

/-! ### The timers of calls, incidents and positions -/

/-- PLAY STILL_WAITING pended to the post of a queued call (R105). -/
def reannounceCall (r : Fin 64) : Op Unit := withCall r fun c => pend c.post (.play .stillWaiting) (some c.number)

/-- The re-announcement timer expires (R105). The timer is restarted before the PLAYs are pended, so that it runs on where a
record that fails its check cuts the event short (log entry 63). -/
def reannounceExpires : Op Unit := do
  let s ← get
  if timerDue s.time s.calls.reannounce then do
    set { s with calls := { s.calls with reannounce := s.reannounceExpiry } }
    s.calls.queue.forM reannounceCall
  else pure ()

/-- The window timer of an OPEN incident is due (R123). -/
def Incident.windowDue (x : Incident) (now : Time) : Bool := x.state == .opened && timerDue now x.windowTimer

/-- The window timer of an OPEN incident expires (R123). The record is read to be acted on only where the timer is due (log
entry 9). -/
def windowExpires (k : Fin 16) : Op Unit := do
  let s ← get
  if (s.incident k).any (fun x => x.windowDue s.time) then
    match ← readIncident k with
    | none => pure ()
    | some x => modify (fun s => (s.setIncident k (x.becomeQuiet .expired)).reportIncident k)
  else pure ()

/-- What the expiry of a position's timer does: in the state given, with the timer due, the record is read to be acted on,
and otherwise nothing happens (log entry 9). In STARTING a record whose code fails is not read: steps 1 to 5 of a start-up
read none, and step 6 makes it anew (R182; log entry 31). -/
def positionTimer (p : Fin 16) (st : PositionState) (timer : Position → Option Time) (act : Position → Op Unit) : Op Unit := do
  let s ← get
  let x := s.position p
  if x.state = st ∧ timerDue s.time (timer x) ∧ ¬ (x.corrupt ∧ s.engine.state = .starting) then do
    let x ← readPosition p
    act x
  else pure ()

/-- A position after its offer has timed out, but for its state (R136 step 3). -/
def Position.missedOffer (x : Position) (n : Nat) : Position :=
  { x.cleared with misses := min 7 (x.misses + 1), lastOffer := some { call := n, outcome := .timedOut } }

/-- A position after its offer has timed out: CLOSED at the miss limit, otherwise FREE (R136 step 4). -/
def Position.timedOut (x : Position) (n limit : Nat) (now : Time) : Position :=
  let y := x.missedOffer n
  if limit ≤ y.misses then { y with state := .closed } else y.toFree now

/-- The offer timer of an OFFERED position expires (R136). It runs no more, also where the call's record fails its check (log
entry 9). -/
def offerExpires (p : Fin 16) : Op Unit := positionTimer p .offered Position.offerTimer fun x => do
  removeOfferTimer p
  let s ← get
  match x.current.bind s.callNumbered with
  | none => pure ()
  | some r => withCall r fun c => do
    returnOffer r
    modify (fun s => s.placePosition p (x.timedOut c.number s.positionMissLimit s.time))

/-- The wrap timer of a position in WRAPUP expires (R141). -/
def wrapExpires (p : Fin 16) : Op Unit := positionTimer p .wrapup Position.wrapTimer fun _ => freePosition p

/-- The ring timer of a DIALLING position expires: its callback ends NO_ANSWER (R148). The timer runs no more, also where the
call's record fails its check (log entry 9). -/
def ringExpires (p : Fin 16) : Op Unit := positionTimer p .dialling Position.ringTimer fun x => do
  removeRingTimer p
  let s ← get
  match x.current.bind s.callNumbered with
  | none => pure ()
  | some r => endCall r .noAnswer

/-! ### The rows -/

/-- OVER_CURRENT_ASSERT (R46). -/
def execOverCurrentAssert (l : LineId) (s : State) : Host.Outcome State Fault Refusal := .next (s.runEvent (overCurrentOn l))

/-- OVER_CURRENT_CLEAR (R46). -/
def execOverCurrentClear (l : LineId) (s : State) : Host.Outcome State Fault Refusal := .next (s.runEvent (overCurrentOff l))

/-- DEGLITCH_TIMER_EXPIRY (R46). -/
def execDeglitchTimerExpiry (l : LineId) (s : State) : Host.Outcome State Fault Refusal := .next (s.runEvent (deglitchExpires l))

/-- RETRY_TIMER_EXPIRY (R72). -/
def execRetryTimerExpiry (g : Fin 8) (s : State) : Host.Outcome State Fault Refusal := .next (s.runEvent (retryExpires g))

/-- STABLE_TIMER_EXPIRY (R72). -/
def execStableTimerExpiry (g : Fin 8) (s : State) : Host.Outcome State Fault Refusal := .next (s.runEvent (stableExpires g))

/-- RESTORE_TIMER_EXPIRY (R84). -/
def execRestoreTimerExpiry (g : Fin 8) (s : State) : Host.Outcome State Fault Refusal := .next (s.runEvent (restoreExpires g))

/-- RE_ANNOUNCEMENT_TIMER_EXPIRY (R105). -/
def execReAnnouncementTimerExpiry (s : State) : Host.Outcome State Fault Refusal := .next (s.runEvent reannounceExpires)

/-- WINDOW_TIMER_EXPIRY (R123). -/
def execWindowTimerExpiry (k : Fin 16) (s : State) : Host.Outcome State Fault Refusal := .next (s.runEvent (windowExpires k))

/-- OFFER_TIMER_EXPIRY (R136). -/
def execOfferTimerExpiry (p : Fin 16) (s : State) : Host.Outcome State Fault Refusal := .next (s.runEvent (offerExpires p))

/-- WRAP_TIMER_EXPIRY (R141). -/
def execWrapTimerExpiry (p : Fin 16) (s : State) : Host.Outcome State Fault Refusal := .next (s.runEvent (wrapExpires p))

/-- RING_TIMER_EXPIRY (R148). -/
def execRingTimerExpiry (p : Fin 16) (s : State) : Host.Outcome State Fault Refusal := .next (s.runEvent (ringExpires p))

end Sys2Proof.Machine
end

