-- ==== Sys2Proof/Machine/Dispatch.lean ====
section
/-! DEFINITION. The meaning of every command: one arm for each constructor. -/

namespace Sys2Proof.Machine

def exec (i : Instr) (s : State) : Host.Outcome State Fault Refusal :=
  match i with
  | .powerOnReset => Sys2Proof.Machine.execPowerOnReset s
  | .hostResetLine => Sys2Proof.Machine.execHostResetLine s
  | .timeBaseTick => Sys2Proof.Machine.execTimeBaseTick s
  | .hostRead address enables => Sys2Proof.Machine.execHostRead address enables s
  | .hostWrite address data enables => Sys2Proof.Machine.execHostWrite address data enables s
  | .runWrite enables => Sys2Proof.Machine.execRunWrite enables s
  | .stopWrite data enables => Sys2Proof.Machine.execStopWrite data enables s
  | .parameterWrite address data enables => Sys2Proof.Machine.execParameterWrite address data enables s
  | .commandSlotWrite address data enables => Sys2Proof.Machine.execCommandSlotWrite address data enables s
  | .commandProducerWrite data enables => Sys2Proof.Machine.execCommandProducerWrite data enables s
  | .eventConsumerWrite data enables => Sys2Proof.Machine.execEventConsumerWrite data enables s
  | .directoryWrite address data enables => Sys2Proof.Machine.execDirectoryWrite address data enables s
  | .queueHeadWrite first => Sys2Proof.Machine.execQueueHeadWrite first s
  | .windowSetRelease => Sys2Proof.Machine.execWindowSetRelease s
  | .startUp => Sys2Proof.Machine.execStartUp s
  | .anchorReadDone => Sys2Proof.Machine.execAnchorReadDone s
  | .directoryReadDone => Sys2Proof.Machine.execDirectoryReadDone s
  | .commandTake => Sys2Proof.Machine.execCommandTake s
  | .isolatePost segment drop => Sys2Proof.Machine.execIsolatePost segment drop s
  | .restorePost segment drop => Sys2Proof.Machine.execRestorePost segment drop s
  | .testPost segment drop => Sys2Proof.Machine.execTestPost segment drop s
  | .clearSegment segment => Sys2Proof.Machine.execClearSegment segment s
  | .inhibitSegment segment => Sys2Proof.Machine.execInhibitSegment segment s
  | .dropCall call => Sys2Proof.Machine.execDropCall call s
  | .closeIncident incident => Sys2Proof.Machine.execCloseIncident incident s
  | .openPosition position => Sys2Proof.Machine.execOpenPosition position s
  | .closePosition position => Sys2Proof.Machine.execClosePosition position s
  | .accept position call => Sys2Proof.Machine.execAccept position call s
  | .decline position call => Sys2Proof.Machine.execDecline position call s
  | .release position => Sys2Proof.Machine.execRelease position s
  | .ready position => Sys2Proof.Machine.execReady position s
  | .pick position call => Sys2Proof.Machine.execPick position call s
  | .callback position segment drop => Sys2Proof.Machine.execCallback position segment drop s
  | .hold position => Sys2Proof.Machine.execHold position s
  | .retrieve position call => Sys2Proof.Machine.execRetrieve position call s
  | .join position call => Sys2Proof.Machine.execJoin position call s
  | .leave position => Sys2Proof.Machine.execLeave position s
  | .chooseNextExchange line => Sys2Proof.Machine.execChooseNextExchange line s
  | .telegramSent line => Sys2Proof.Machine.execTelegramSent line s
  | .arbitrationField line n => Sys2Proof.Machine.execArbitrationField line n s
  | .ident line drop payload check => Sys2Proof.Machine.execIdent line drop payload check s
  | .status line drop payload check => Sys2Proof.Machine.execStatus line drop payload check s
  | .done line drop payload check => Sys2Proof.Machine.execDone line drop payload check s
  | .request line drop payload check => Sys2Proof.Machine.execRequest line drop payload check s
  | .checkFailure line bytes => Sys2Proof.Machine.execCheckFailure line bytes s
  | .wrongResponder line bytes => Sys2Proof.Machine.execWrongResponder line bytes s
  | .strayTelegram line bytes => Sys2Proof.Machine.execStrayTelegram line bytes s
  | .replyTimeExpiry line => Sys2Proof.Machine.execReplyTimeExpiry line s
  | .overCurrentAssert line => Sys2Proof.Machine.execOverCurrentAssert line s
  | .overCurrentClear line => Sys2Proof.Machine.execOverCurrentClear line s
  | .deglitchTimerExpiry line => Sys2Proof.Machine.execDeglitchTimerExpiry line s
  | .retryTimerExpiry segment => Sys2Proof.Machine.execRetryTimerExpiry segment s
  | .stableTimerExpiry segment => Sys2Proof.Machine.execStableTimerExpiry segment s
  | .restoreTimerExpiry segment => Sys2Proof.Machine.execRestoreTimerExpiry segment s
  | .reAnnouncementTimerExpiry => Sys2Proof.Machine.execReAnnouncementTimerExpiry s
  | .windowTimerExpiry incident => Sys2Proof.Machine.execWindowTimerExpiry incident s
  | .offerTimerExpiry position => Sys2Proof.Machine.execOfferTimerExpiry position s
  | .wrapTimerExpiry position => Sys2Proof.Machine.execWrapTimerExpiry position s
  | .ringTimerExpiry position => Sys2Proof.Machine.execRingTimerExpiry position s
  | .serveReportEntry => Sys2Proof.Machine.execServeReportEntry s
  | .drainEnd => Sys2Proof.Machine.execDrainEnd s
  | .restartAreaWritten => Sys2Proof.Machine.execRestartAreaWritten s
  | .restartReloadDone => Sys2Proof.Machine.execRestartReloadDone s

end Sys2Proof.Machine
end

