-- ==== Sys2Proof/WellFormed.lean ====
section
/-! DEFINITION. Which commands are well formed: the operands of a row are those the row's event can carry. The meanings
are total and do not depend on it. -/

namespace Sys2Proof

/-- A host access enables at least one byte lane. -/
def Enables.some (en : Enables) : Bool := en.hi || en.lo

/-- A byte address lies in a parameter word (12.2). -/
def parameterAddress (a : BitVec 24) : Bool := 0xFFFF34 ≤ a.toNat && a.toNat ≤ 0xFFFF67

/-- A byte address lies in an anchor word whose write has a row of its own (12.2). -/
def ownRowAddress (a : BitVec 24) : Bool := a.toNat / 2 ∈ [0xFFFF00 / 2, 0xFFFF1C / 2, 0xFFFF22 / 2] || parameterAddress a

/-- A received telegram of the kind given passes its check and names a drop (R22, R196). -/
def goodTelegram (kind drop : Byte) (payload : List Byte) (check : Word) : Bool :=
  (Machine.Frame.decode { drop, kind, payload, check }).isSome

/-- A received byte sequence passes its check. -/
def goodBytes (bytes : List Byte) : Bool := ((Machine.Frame.ofBytes bytes).bind Machine.Frame.decode).isSome

/-- The operands of a command fit its row. -/
def WellFormed : Instr → Bool
  | .hostRead _ en => en.some
  | .hostWrite a _ en => en.some && !ownRowAddress a
  | .runWrite en => en.some
  | .stopWrite d en => en.some && d != 1
  | .parameterWrite a _ en => en.some && parameterAddress a
  | .commandSlotWrite _ _ en | .commandProducerWrite _ en | .eventConsumerWrite _ en | .directoryWrite _ _ en => en.some
  | .ident _ drop payload check => goodTelegram 0x41 drop payload check
  | .status _ drop payload check => goodTelegram 0x42 drop payload check
  | .done _ drop payload check => goodTelegram 0x43 drop payload check
  | .request _ drop payload check => goodTelegram 0x44 drop payload check
  | .wrongResponder _ bytes => goodBytes bytes
  | .checkFailure _ bytes | .strayTelegram _ bytes => !bytes.isEmpty
  | .powerOnReset | .hostResetLine | .timeBaseTick | .queueHeadWrite _ | .windowSetRelease | .startUp | .anchorReadDone
  | .directoryReadDone | .commandTake | .isolatePost .. | .restorePost .. | .testPost .. | .clearSegment _
  | .inhibitSegment _ | .dropCall _ | .closeIncident _ | .openPosition _ | .closePosition _ | .accept .. | .decline ..
  | .release _ | .ready _ | .pick .. | .callback .. | .hold _ | .retrieve .. | .join .. | .leave _
  | .chooseNextExchange _ | .telegramSent _ | .arbitrationField .. | .replyTimeExpiry _ | .overCurrentAssert _
  | .overCurrentClear _ | .deglitchTimerExpiry _ | .retryTimerExpiry _ | .stableTimerExpiry _ | .restoreTimerExpiry _
  | .reAnnouncementTimerExpiry | .windowTimerExpiry _ | .offerTimerExpiry _ | .wrapTimerExpiry _ | .ringTimerExpiry _
  | .serveReportEntry | .drainEnd | .restartAreaWritten | .restartReloadDone => true

end Sys2Proof
end

