-- ==== Sys2Proof/Safety.lean ====
section
/-! DEFINITION. What counts as a safe run: every command completes, the invariants of memory and lists hold (R11, R106,
R163), and no record or crosspoint is in a condition that raises a class B fault (R186). -/

namespace Sys2Proof.Machine

/-- A command completes: the part answers a next state. -/
def Completes (i : Instr) (s : State) : Prop := ∃ t, exec i s = .next t

/-- The write-back queue is in form: at most 32 entries, and no two of one address (R11). -/
def QueueWf (q : List QueueEntry) : Prop := q.length ≤ Config.queueCapacity ∧ (q.map (fun e => e.address)).Nodup

/-- The report list holds no object twice (R163). -/
def ReportsWf (l : List ReportEntry) : Prop := (l.map (fun e => e.object)).Nodup

/-- The deferral list holds no post twice (R106). -/
def DeferralsWf (l : List Deferral) : Prop := (l.map (fun d => d.post)).Nodup

/-- No check code fails and every crosspoint follows its setting, so that no check raises a class B fault (R48, R90,
R112, R128, R150, R156). -/
structure State.Sound (s : State) : Prop where
  posts : ∀ i, (s.post i).corrupt = false
  positions : ∀ p, (s.position p).corrupt = false
  calls : ∀ r, (s.call r).all (fun c => !c.corrupt) = true
  incidents : ∀ k, (s.incident k).all (fun x => !x.corrupt) = true
  channels : ∀ c, (s.channel c).corrupt = false
  crosspoints : ∀ p, s.speech.stuck.get p = none

/-- A call and the channel-map entry it holds name each other (R151): the entry is in the state given. -/
def State.HoldsChannel (s : State) (c : Call) (ch : Fin 4) (st : ChannelState) : Prop :=
  c.channel = some ch ∧ s.channel (channelIndex (postSegment c.post) ch) = { state := st, call := some c.number, corrupt := false }

/-- Every channel that a call holds names it, and no two calls that are not ENDED have one number (R94, R151). -/
structure State.ChannelsHeld (s : State) : Prop where
  holds : ∀ r c ch, s.call r = some c → c.state ≠ .ended → c.channel = some ch → ∃ st, st ≠ .free ∧ s.HoldsChannel c ch st
  numbers : ∀ q r c d, s.call q = some c → s.call r = some d → c.state ≠ .ended → d.state ≠ .ended →
    c.number = d.number → q = r

/-- A host access that arrives is served at once: none waits before it, and it need not wait itself (R2, R13, R15). -/
def State.ServesHost (s : State) : Prop := s.accessWaits = false ∧ s.path.heldAccesses = []

/-- A memory path whose arbiter alone differs from another's: whose turn is next, and the words left of a part read
(R13). -/
def MemoryPath.arbitrated (p q : MemoryPath) : MemoryPath := { p with partTurn := q.partTurn, readWords := q.readWords }

/-- Nothing follows an event: no dispatch run, restart step or end of STOPPING is due (R132, R184, R189). -/
def State.Quiet (s : State) : Prop :=
  s.dispatchDue = false ∧ s.engine.step ≠ .linesHalting ∧ s.engine.state ≠ .stopping

/-- The rows at whose end the call memory may differ: host accesses, the write of the queue head, the two steps of
a restart that write the restart area and serve held accesses, and the ends of the part's reads, which serve held accesses
(R2, R11, R13, R15). -/
def writesMemory : Instr → Bool
  | .hostRead .. | .hostWrite .. | .runWrite .. | .stopWrite .. | .parameterWrite .. | .commandSlotWrite ..
  | .commandProducerWrite .. | .eventConsumerWrite .. | .directoryWrite .. | .queueHeadWrite .. | .drainEnd
  | .restartAreaWritten | .anchorReadDone | .directoryReadDone | .restartReloadDone => true
  | _ => false

/-- The merged control word that a host write leaves (R4). -/
def State.mergedControl (s : State) (d : Word) (en : Enables) : Word :=
  mergeWord en (s.anchorWord Config.controlWord) d

/-- The record and the call that a call number names, while it is not ENDED (R91). -/
def State.liveCall (s : State) (n : Nat) : Option (Fin 64 × Call) :=
  (s.callNumbered n).bind (fun r => (s.call r).bind (fun c => if c.state = .ended then none else some (r, c)))

/-- An ENDED record (R99): the channel, the parties and the holder are cleared, and what describes the call is kept. -/
def Call.endedBy (c : Call) (cause : EndCause) : Call :=
  { c with state := .ended, endCause := some cause, channel := none, parties := [], holder := none }

/-- A post after a command has been pended to it (R36, R37). -/
def State.postPended (s : State) (i : Fin 256) (kind : CommandKind) (call : Option Nat) : Post :=
  { s.post i with
    commands := pendList (s.post i).commands { kind, call }
    testCancelled := (s.post i).testCancelled || (s.post i).commands.any PendingCommand.isTest }

/-- The post of an ended call whose end pends a RELEASE (R99, R100). -/
def State.postReleased (s : State) (c : Call) : Post :=
  { s.postPended c.post .release (some c.number) with
    liveCall := if (s.post c.post).liveCall = some c.number then none else (s.post c.post).liveCall }

/-- A position that no call and no timer occupies, in the state given. -/
def Position.idle (x : Position) (st : PositionState) : Position :=
  { x with state := st, current := none, offerTimer := none, ringTimer := none, wrapTimer := none }

/-- A position that a party of an ended or left call becomes: in WRAPUP, or FREE at once with a wrap time of 0 (R141). -/
def State.wrappedUp (s : State) (x : Position) : Position :=
  if s.wrapTicks = 0 then { x.idle .free with freeSince := s.time }
  else { x.idle .wrapup with wrapTimer := some (s.after s.wrapTicks) }

/-- A position is connected, or not, in the connection memory and by its crosspoint (R155, R156). -/
def State.Connected (u : State) (p : Fin 16) (x : Option Connection) : Prop :=
  u.speech.connections.get p = x ∧ u.speech.crosspoints.get p = x

/-- An object is on the report list with both marks (R163). -/
def State.Reported (u : State) (o : Obj) : Prop :=
  ∃ e ∈ u.reports.list, e.object = o ∧ e.board = true ∧ e.event = true

/-- The OVERFLOW flag once overflow has been judged with a QUEUED count (R104). -/
def State.overflowAt (s : State) (n : Nat) : Bool :=
  if s.calls.overflow then !decide (n ≤ s.lowMark) else decide (s.highMark ≤ n)

/-- The frame of a change of one call: outside one call record, one position with its connection and crosspoint, one post with the line
sides of its segment and one channel-map entry, records are as they were, and so are memory, inputs, directory, segments,
counters, deferrals, the published slots and the windows. -/
structure State.TouchesOnly (s u : State) (r : Fin 64) (p : Fin 16) (i : Fin 256) (k : Fin 32) : Prop where
  calls : ∀ q, q ≠ r → u.call q = s.call q
  positions : ∀ q, q ≠ p → u.position q = s.position q
  posts : ∀ j, j ≠ i → u.post j = s.post j
  channels : ∀ c, c ≠ k → u.channel c = s.channel c
  lines : ∀ l, l.segment ≠ postSegment i → u.line l = s.line l
  connections : ∀ q, q ≠ p → u.speech.connections.get q = s.speech.connections.get q
  crosspoints : u.speech.stuck = s.speech.stuck ∧ ∀ q, q ≠ p → u.speech.crosspoints.get q = s.speech.crosspoints.get q
  port : u.time = s.time ∧ u.mem = s.mem ∧ u.ends = s.ends ∧ u.pending = s.pending
  tables : u.directory = s.directory ∧ u.segments = s.segments ∧ u.calls.deferrals = s.calls.deferrals
    ∧ u.calls.nextSequence = s.calls.nextSequence
  path : u.path.anchor = s.path.anchor ∧ u.path.windows = s.path.windows ∧ u.path.published = s.path.published
  engine : u.engine.state = s.engine.state ∧ u.engine.restartCount = s.engine.restartCount

/-- A post whose segment or break has taken it out of reach: UNREACHABLE with its pending list emptied, a TEST in it
cancelled; an ISOLATED post stays as it is (R41, R60, R73). -/
def Post.lost (p : Post) : Post :=
  if p.state = .isolated ∨ p.state = .unreachable then p
  else { p with
    state := .unreachable, commands := [], testCancelled := p.testCancelled || p.commands.any PendingCommand.isTest }

/-- A post whose loss leaves its calls as they are: its live call is QUEUED, and no record is RESERVED for it (R75, R76). -/
def State.KeepsPlace (s : State) (i : Fin 256) : Prop :=
  (∀ n r c, (s.post i).liveCall = some n → s.callNumbered n = some r → s.call r = some c → c.state = .queued)
  ∧ ((s.post i).deferred = true → s.reservedFor i = none)

/-- What a segment leaving service leaves of its segment, sides, ends and posts, but for the calls of its posts (R73). -/
def State.OutOfService (s u : State) (g : Fin 8) (x : Segment) : Prop :=
  u.segment g = x ∧ (u.line (nearOf g)).state = .off ∧ (u.line (farOf g)).state = .off
  ∧ (∀ e, u.segmentEnd ⟨g, e⟩ = { s.segmentEnd ⟨g, e⟩ with state := .clear, deglitch := none })
  ∧ (∀ d, (u.post (postIndex g d)).state = (s.post (postIndex g d)).lost.state
      ∧ (u.post (postIndex g d)).commands = (s.post (postIndex g d)).lost.commands)
  ∧ (∀ j, postSegment j ≠ g → u.post j = s.post j) ∧ (∀ k, k ≠ g → u.segment k = s.segment k)
  ∧ (∀ l, l.segment ≠ g → u.line l = s.line l ∧ u.segmentEnd l = s.segmentEnd l)

/-- What a telegram that shows a PRESENT post of a drop makes of the break of its segment: one of side FAR below the far
limit, heard on the FAR side, lowers it (R83, R194), and any other leaves the segments as they are. That a post of side NEAR
heard on the FAR side does not lower it is the model's choice (log entry 54). -/
def State.FarLimitFollows (s u : State) (l : LineId) (d : Fin 32) : Prop :=
  let hears : Prop := l.side = .far ∧ (s.post (postIndex l.segment d)).side = .far
    ∧ (u.post (postIndex l.segment d)).state = .present
  (∀ b far, hears → s.broken l.segment = some b → b.state ≠ .cut → b.farLimit = some far → d.val < far.val →
    u.segments = put s.segments l.segment { s.segment l.segment with
      broken := some { b with
        farLimit := some d, interval := s.breakInterval l.segment { b with farLimit := some d } } })
  ∧ (¬ hears ∨ (∀ b far, s.broken l.segment = some b → b.farLimit = some far → b.state = .cut ∨ far.val ≤ d.val) →
    u.segments = s.segments)

/-- A class A fault of a segment is recorded in its slot, and no other slot changes (R171). -/
def State.RecordsFault (s u : State) (g : Fin 8) (kind : FaultKind) (object : Nat) : Prop :=
  u.reports.slots = put s.reports.slots (segmentSlot g)
    (some (FaultRecord.next (s.reports.slots.get (segmentSlot g)) kind object 0 s.time))

/-- An incident that a call has joined, with its estimate and marker computed again (R117, R118). -/
def State.joined (s : State) (x : Incident) (c : Nat) (lead : Lead) : Incident :=
  let sum := if x.count < 255 then x.sum + c else x.sum
  let count := if x.count < 255 then x.count + 1 else x.count
  { x with
    lo := min x.lo c, hi := max x.hi c, sum := sum, count := count, live := x.live + 1, lastCall := s.time
    lead := some (x.lead.getD lead), leadAnswered := x.lead.isSome && x.leadAnswered
    estimate := estimateOf sum count, marker := markerOf (estimateOf sum count)
    windowTimer := some (s.after (s.parameter 47 * 100)) }

/-- What a REQUEST registered in a window leaves, but for the incidents and the other calls (R29, R51, R53, R93): the record,
the counters, the queue with the call in its place by arrival sequence (R96), the post and the answer. -/
def State.Registered (s u : State) (l : LineId) (e : Exchange) (i : Fin 256) (r : Fin 64) (n : Nat) (type : RequestType)
    (x : Identity) (snapshot : Option Snapshot) (incident : Option Nat) : Prop :=
  u.call r = some { Call.fresh n i .incoming .queued with
    requestType := some type, arrivalTime := some s.time, arrivalSeq := some s.calls.nextSequence
    far := l.side == .far, snapshot := snapshot, incident := incident }
  ∧ u.calls.nextNumber = s.nextCallNumber.2 ∧ u.calls.nextSequence = s.calls.nextSequence + 1
  ∧ u.calls.queue = u.insertBySequence r s.calls.queue
  ∧ u.calls.overflow = s.overflowAt (s.calls.queue.length + 1) ∧ u.calls.deferrals = s.calls.deferrals
  ∧ u.Reported (.call r)
  ∧ u.post i = { s.post i with
      misses := 0, hook := .off, identity := some x, liveCall := some n
      identityMatch := if s.entryInUse i = true then (if x = entryIdentity (s.entry i).words then .same else .differs)
        else .unread }
  ∧ (∃ m : MessageId, m = (if s.calls.overflow = true ∧ type = .emergency then .busyWait else .wait)
      ∧ (u.line l).exchange = some { e with phase := .answering, telegram := .registered m })
  ∧ u.dispatchDue = true ∧ (∀ j, j ≠ i → u.post j = s.post j)
  ∧ u.positions = s.positions ∧ u.speech = s.speech ∧ u.mem = s.mem ∧ u.time = s.time
  ∧ s.FarLimitFollows u l e.drop ∧ u.ends = s.ends ∧ u.directory = s.directory

/-- The object is a record that is freed once its final report has been written: an ENDED call, a CLOSED incident (R167). -/
def State.freedByServing (s : State) (o : Obj) : Bool :=
  match o with
  | .call r => (s.call r).any (fun c => c.state == .ended)
  | .incident k => (s.incident k).any (fun x => x.state == .closed)
  | .post _ | .position _ | .segment _ | .engine => false

/-- What a segment entering SWEEP leaves of its segment and posts (R42, R50, R68). -/
def State.Swept (s u : State) (g : Fin 8) (retries : Nat) : Prop :=
  u.segment g = { state := .sweep, retryCount := retries, retryTimer := none, stableTimer := none, farFeed := false,
                  broken := none }
  ∧ (u.line (nearOf g)).state = .sweeping ∧ (u.line (nearOf g)).sweepList = s.nearSweepList g
  ∧ (∀ d, (u.post (postIndex g d)).side = .near
      ∧ (u.post (postIndex g d)).state = if (s.post (postIndex g d)).state = .isolated then .isolated else .unknown)
  ∧ (∀ j, postSegment j ≠ g → u.post j = s.post j) ∧ (∀ k, k ≠ g → u.segment k = s.segment k)
  ∧ u = { s with segments := u.segments, lines := u.lines, ends := u.ends, posts := u.posts, reports := u.reports,
                 dispatchDue := u.dispatchDue, commandResult := u.commandResult }

end Sys2Proof.Machine
end

