-- ==== Sys2Proof/Certificates/Slice0/Obligations.lean ====
section
/-! DEFINITION. The statements about the model, for the provers. In a statement about a row, `u.followUp` is the state
`u` that the row's own effects give, with the dispatch run, restart steps or end of STOPPING that they make due;
followUp_quiet of Laws/Operations.lean says
when nothing is due. `u = { s with … }` with fields of `u` itself says that every
other field is as it was. -/

open Sys2Proof Sys2Proof.Machine

/-! ### The whole machine -/

/-- One step carries out the command at the front of the queue with the queue's rest; with no command waiting the part
idles (log entry 11). -/
def Obligations.StepTakesFrontCommand : Prop :=
  (∀ (c : Instr) (rest : List Instr) (s : State), step { s with pending := c :: rest } = exec c { s with pending := rest })
  ∧ ∀ s : State, s.pending = [] → step s = .next s

/-- Every command completes: none ends in a fault or a refusal (log entry 8). It leaves the waiting commands as they are,
also where it is power-on reset (log entries 12 and 4), and moves the time base only where it is the 10 ms tick or
power-on reset (R1). -/
def Obligations.EveryCommandKeepsQueueAndTimeBase : Prop :=
  ∀ (c : Instr) (s : State), ∃ t : State, exec c s = .next t ∧ t.pending = s.pending
    ∧ t.time = (if c = .powerOnReset then 0 else if c = .timeBaseTick then s.time + 1 else s.time)

/-- Only host accesses, the write of the queue head, the restart's two memory steps and the ends of the part's reads, which
serve held accesses, change a byte of the call memory; only their two rows change the over-current inputs. -/
def Obligations.MemoryAndInputsChangeOnlyByTheirRows : Prop :=
  ∀ (c : Instr) (s t : State), exec c s = .next t →
    (writesMemory c = false → t.mem = s.mem)
    ∧ ∀ l : LineId, c ≠ .overCurrentAssert l → c ≠ .overCurrentClear l →
        (t.segmentEnd l).overCurrent = (s.segmentEnd l).overCurrent

/-- Memory keeps its canonical form in every step. -/
def Obligations.StepKeepsMemoryCanonical : Prop :=
  ∀ s t : State, Memory.wf s.mem = true → step s = .next t → Memory.wf t.mem = true

/-- The write-back queue never holds more than 32 entries or an address twice (R11). -/
def Obligations.StepKeepsWriteBackQueueInForm : Prop :=
  ∀ s t : State, QueueWf s.path.queue → step s = .next t → QueueWf t.path.queue

/-- The report list never holds an object twice (R163), nor the deferral list a post (R106). -/
def Obligations.StepKeepsReportAndDeferralListsDistinct : Prop :=
  ∀ s t : State, ReportsWf s.reports.list → DeferralsWf s.calls.deferrals → step s = .next t →
    ReportsWf t.reports.list ∧ DeferralsWf t.calls.deferrals

/-- A dispatch run that no class B fault cuts short leaves no pair unmade: every eligible position left has declined every
call left in the queue that is QUEUED with a PRESENT post on an ACTIVE segment with a FREE channel (R130, R131, R133). It
offers by rank and by idle time: a position that is eligible alone is offered, of the calls it has not declined and that are
offerable, the one of the lowest effective class, and of equal ones the one that stands first in the queue; a call that waits
alone is offered to the eligible position of longest idle time that it has not been declined by, and of equal ones to the
lower number (R97, R98, R133). An offer makes the lowest FREE channel RESERVED and the call OFFERED with the position as its
only party, out of the queue, with overflow judged; the position is OFFERED with its current call and its offer timer, both
are listed, nothing is pended to the post, and misses and last offer stay (R134). -/
def Obligations.DispatchRunLeavesNoPairUnmade : Prop :=
  ∀ s : State,
    let eligible (t : State) (p : Fin 16) : Prop := (t.position p).state = .free ∧ (t.position p).held = []
    let offerable (t : State) (c : Call) : Prop := c.state = .queued ∧ (t.post c.post).state = .present
      ∧ (t.segment (postSegment c.post)).state = .active
      ∧ ∃ ch, (t.channel (channelIndex (postSegment c.post) ch)).state = .free
    let idle (p : Fin 16) : Nat := (s.time - (s.position p).freeSince).toNat
    let offers (r : Fin 64) (c : Call) (p : Fin 16) (ch : Fin 4) : Prop := ∃ u : State, dispatchRun s = .ok () u
      ∧ u.call r = some { c with state := .offered, channel := some ch, parties := [p] }
      ∧ u.calls.queue = s.calls.queue.erase r ∧ u.calls.overflow = s.overflowAt (s.calls.queue.erase r).length
      ∧ u.channel (channelIndex (postSegment c.post) ch) = { state := .reserved, call := some c.number, corrupt := false }
      ∧ u.position p = { s.position p with
          state := .offered, current := some c.number, offerTimer := some (s.after (s.parameter 48 * 100)) }
      ∧ u.Reported (.call r) ∧ u.Reported (.position p)
      ∧ u.posts = s.posts ∧ u.lines = s.lines ∧ u.cluster = s.cluster
      ∧ u.speech.connections = s.speech.connections
      ∧ s.TouchesOnly u r p c.post (channelIndex (postSegment c.post) ch)
    (∀ t, dispatchRun s = .ok () t →
      ∀ r ∈ t.calls.queue, ∀ c p, t.call r = some c → offerable t c → eligible t p → p ∈ c.declinedBy)
    ∧ (s.Sound → ∀ r c p ch, s.call r = some c → offerable s c → eligible s p → p ∉ c.declinedBy →
        s.channelHeldBy c.number = none → (s.channel (channelIndex (postSegment c.post) ch)).state = .free →
        (∀ k, k < ch → (s.channel (channelIndex (postSegment c.post) k)).state ≠ .free) →
      (∀ before after, s.calls.queue = before ++ r :: after → (∀ q, eligible s q → q = p) →
          (∀ q ∈ before, ∀ d, s.call q = some d → offerable s d → p ∉ d.declinedBy → s.classOf c < s.classOf d) →
          (∀ q ∈ after, ∀ d, s.call q = some d → offerable s d → p ∉ d.declinedBy → s.classOf c ≤ s.classOf d) →
        offers r c p ch)
      ∧ (s.calls.queue = [r] →
          (∀ q, eligible s q → q ∉ c.declinedBy → idle q < idle p ∨ idle q = idle p ∧ p ≤ q) → offers r c p ch))

/-! ### Resets and the time base -/

/-- The values of power-on reset (R45, R47, R66, R89, R111, R127, R149, R162, R176, R193), with every list in form. The
state word that the engine control's entry to STANDBY writes already stands in the write-back queue (R179, section 10.2; log
entry 3), where the table of chapter 1 says empty. -/
def Obligations.ResetLeavesPowerOnValues : Prop :=
  State.reset.time = 0 ∧ State.reset.engine.state = .standby ∧ State.reset.bypass = true ∧ State.reset.attn = false
  ∧ State.reset.overflowPin = false ∧ State.reset.path.windows = none
  ∧ State.reset.path.queue = [{ address := 0xFFFF02, value := 0 }]
  ∧ State.reset.path.heldProducer = 0 ∧ State.reset.path.heldConsumer = 0 ∧ State.reset.path.published = []
  ∧ State.reset.reports.list = [] ∧ State.reset.calls.nextNumber = 1 ∧ State.reset.calls.nextSequence = 0
  ∧ State.reset.cluster.nextNumber = 1 ∧ State.reset.cluster.nextCreation = 0
  ∧ (∀ l, (State.reset.line l).state = .off ∧ (State.reset.line l).exchange = none ∧ (State.reset.line l).errors = 0)
  ∧ (∀ l, (State.reset.segmentEnd l).state = .clear)
  ∧ (∀ i, State.reset.post i = Post.reset ∧ (State.reset.entry i).valid = false)
  ∧ (∀ g, State.reset.segment g = Segment.reset) ∧ (∀ r, State.reset.call r = none) ∧ (∀ k, State.reset.incident k = none)
  ∧ (∀ p, (State.reset.position p).state = .closed ∧ (State.reset.position p).misses = 0)
  ∧ (∀ c, (State.reset.channel c).state = .free) ∧ (∀ p, State.reset.speech.connections.get p = none)
  ∧ (∀ k, State.reset.reports.slots.get k = none)
  ∧ Memory.wf State.reset.mem = true ∧ QueueWf State.reset.path.queue ∧ ReportsWf State.reset.reports.list
  ∧ DeferralsWf State.reset.calls.deferrals

/-- POWER_ON_RESET gives every block its power-on values and leaves the call memory untouched (R193); the sense inputs
and the waiting commands are not the part's to reset, and a host access held back is dropped (log entry 4). The host's
reset line drops the accesses that have not reached the memory side, is forwarded, and changes nothing else (R3).
TIME_BASE_TICK moves the time base alone, by one modulo 2^32 (R1). -/
def Obligations.ResetsAndTickChangeWhatTheyShould : Prop :=
  ∀ s : State,
    (∃ t : State, exec .powerOnReset s = .next t ∧ t.mem = s.mem ∧ t.pending = s.pending
      ∧ (∀ l, t.segmentEnd l = { LineEnd.reset with overCurrent := (s.segmentEnd l).overCurrent })
      ∧ (∀ p, t.speech.connections.get p = none ∧ t.speech.stuck.get p = s.speech.stuck.get p)
      ∧ (∀ c, t.speech.channels.get c = Channel.freed)
      ∧ t = { State.reset with mem := t.mem, ends := t.ends, speech := t.speech, pending := t.pending })
    ∧ exec .hostResetLine s
      = .next { s with path := { s.path with heldAccesses := [], resetPulses := s.path.resetPulses + 1 } }
    ∧ ∃ t : State, exec .timeBaseTick s = .next t ∧ t.time.toNat = (s.time.toNat + 1) % 2 ^ 32
      ∧ t = { s with time := t.time }

/-! ### The memory path: host accesses -/

/-- A host read that need not wait answers the queued value of a queued address and of any other what memory holds,
and changes no byte of memory (R12); the arbiter then chooses whose the next grant is, and a word of a part read is granted
before the access where it was the part's (R13, log entry 16). An access that must wait for the drain, for a part write or
for the last word of a part read (R13, R15) is held behind those that wait already, in order (log entry 14), with nothing
else changed. -/
def Obligations.HostReadAnswersNewestValueOrWaits : Prop :=
  ∀ (s : State) (a : BitVec 24) (d : Word) (en : Enables),
    (s.ServesHost → ∃ u : State, exec (.hostRead a en) s = .next u.followUp
      ∧ u.path.reply = some (ReadReply.mk a en ((queuedValue s.path.queue (wordAddress a)).getD
          (wordOf (Memory.get s.mem (wordAddress a)) (Memory.get s.mem (wordAddress a + 1)))))
      ∧ u.path.partTurn = (decide (24 ≤ s.path.queue.length) || s.partReadWaiting)
      ∧ u.path.readWords = (if s.path.partTurn = true ∧ s.path.queue = [] ∧ s.partReadWaiting = true then
          s.path.readWords - 1 else s.path.readWords)
      ∧ u = { s with path := { s.path.arbitrated u.path with reply := u.path.reply } })
    ∧ (s.accessWaits = true →
      exec (.hostRead a en) s
        = .next (State.followUp { s with path := { s.path with heldAccesses := s.path.heldAccesses ++ [.read a en] } })
      ∧ exec (.hostWrite a d en) s
        = .next (State.followUp { s with path := { s.path with heldAccesses := s.path.heldAccesses ++ [.write a d en] } }))

/-- A host write that is not suppressed and that no block snoops reaches the call memory: the enabled bytes and no
other (R2, R4). -/
def Obligations.HostWriteReachesMemoryAlone : Prop :=
  ∀ (s : State) (a : BitVec 24) (d : Word) (en : Enables), s.ServesHost → en.some = true →
    s.trespasses (wordAddress a) = false → anchorWordAt (wordAddress a) = none → s.directoryAt (wordAddress a) = none →
    s.slotAt (wordAddress a) = none → Memory.wf s.mem = true →
    ∃ u : State, exec (.hostWrite a d en) s = .next u.followUp
      ∧ (en.hi = true → Memory.get u.mem (wordAddress a) = highByte d)
      ∧ (en.lo = true → Memory.get u.mem (wordAddress a + 1) = lowByte d)
      ∧ (∀ b, (en.hi = true → b ≠ wordAddress a) → (en.lo = true → b ≠ wordAddress a + 1) →
          Memory.get u.mem b = Memory.get s.mem b)
      ∧ u = { s with mem := u.mem, path := s.path.arbitrated u.path }

/-- A trespassing write changes neither memory nor the queue nor any shadow, and is recorded as TRESPASS in the engine
fault slot with the byte address written (R9); the detail of a write of a whole word is its first byte (log entry 18). -/
def Obligations.TrespassIsSuppressedAndRecorded : Prop :=
  ∀ (s : State) (a : BitVec 24) (d : Word) (en : Enables), s.ServesHost → en.some = true →
    s.trespasses (wordAddress a) = true →
    (exec (.commandSlotWrite a d en) s = exec (.hostWrite a d en) s)
    ∧ (exec (.directoryWrite a d en) s = exec (.hostWrite a d en) s)
    ∧ ∃ u : State, exec (.hostWrite a d en) s = .next u.followUp
      ∧ u.reports.slots.get engineSlot = some (FaultRecord.next (s.reports.slots.get engineSlot) .trespass 0
          (BitVec.ofNat 32 (if en.hi then wordAddress a else wordAddress a + 1)) s.time)
      ∧ (∃ e ∈ u.reports.list, e.object = .engine ∧ e.fault = true)
      ∧ u = { s with reports := u.reports, path := s.path.arbitrated u.path }

/-- A write of the control word reaches memory and the anchor shadow. In STANDBY it makes or cancels the start request;
in STARTING, STOPPING and RESTARTING, and in any state where the word reads RUN, nothing else happens (R178). -/
def Obligations.ControlWordSetsStartRequest : Prop :=
  ∀ (s : State) (d : Word) (en : Enables), s.ServesHost → en.some = true → s.trespasses Config.anchorBase = false →
    (s.engine.state ≠ .run ∧ s.engine.state ≠ .failed ∨ s.mergedControl d en = 1) →
    ∃ u : State, exec (.stopWrite d en) s = .next u.followUp ∧ (d = 1 → exec (.runWrite en) s = exec (.stopWrite d en) s)
      ∧ u.mem = Memory.write s.mem Config.anchorBase en d
      ∧ u.path.anchor = put s.path.anchor Config.controlWord (s.mergedControl d en)
      ∧ u.engine = { s.engine with
          startRequest := if s.engine.state = .standby then s.mergedControl d en == 1 else s.engine.startRequest }
      ∧ u = { s with
          mem := u.mem, engine := u.engine, path := { s.path.arbitrated u.path with anchor := u.path.anchor } }

/-- STOP written in RUN takes the engine out of service: STOPPING, or at once STANDBY, with BYPASS asserted and no line
side sweeping or serving; written in FAILED it takes the engine to STANDBY with an empty restart history (R178, R192).
Where no check fails, every call that is not ENDED ends STOPPED, the deferral list is emptied, each OPEN incident
becomes QUIET and one without a live member CLOSED (R111, R126, R183). STOPPING completes once the line sides and the
report list are done: STANDBY, sides OFF, lists emptied, positions CLOSED, used segments INHIBITED, the restart count
kept (R45, R89, R149, R184). -/
def Obligations.StopTakesEngineOutOfService : Prop :=
  ∀ (s : State) (d : Word) (en : Enables), s.ServesHost → en.some = true → s.trespasses Config.anchorBase = false →
    s.mergedControl d en ≠ 1 →
    (s.engine.state = .run → ∃ t : State, exec (.stopWrite d en) s = .next t ∧ t.bypass = true
      ∧ (t.engine.state = .stopping ∨ t.engine.state = .standby)
      ∧ ∀ l, (t.line l).state ≠ .serving ∧ (t.line l).state ≠ .sweeping)
    ∧ (s.engine.state = .failed → ∃ t : State, exec (.stopWrite d en) s = .next t ∧ t.engine.state = .standby
      ∧ t.engine.history = [] ∧ t.engine.startRequest = false)
    ∧ (s.engine.state = .run → s.Sound → s.ChannelsHeld →
      ∃ u : State, exec (.stopWrite d en) s = .next u.followUp ∧ u.engine.state = .stopping
        ∧ (∀ r, u.call r = (s.call r).map (fun c => if c.state = .ended then c else c.endedBy .stopped))
        ∧ u.calls.deferrals = []
        ∧ (∀ l, (u.line l).state = if (s.line l).state = .sweeping ∨ (s.line l).state = .serving then .finishing
            else (s.line l).state)
        ∧ ∀ k x, s.incident k = some x → x.state ≠ .closed → ∃ y : Incident, u.incident k = some y
          ∧ y.live ≤ x.live ∧ y.state = (if y.live = 0 then .closed else .quiet)
          ∧ y.quietCause = (if x.state = .opened then some .stopped else x.quietCause)
          ∧ y.closeCause = (if y.live = 0 then y.quietCause.map QuietCause.close else x.closeCause)
          ∧ y.windowTimer = (if x.state = .opened then none else x.windowTimer)
          ∧ y = { x with
              state := y.state, quietCause := y.quietCause, closeCause := y.closeCause, windowTimer := y.windowTimer
              live := y.live, lead := y.lead, leadAnswered := y.leadAnswered })
    ∧ ∀ v : State, v.engine.state = .stopping → v.clearing = false → v.dispatchDue = false → v.reports.list = [] → v.Sound →
      (∀ l, (v.line l).state = .off
        ∨ (v.line l).state = .finishing ∧ (v.line l).exchange = none ∧ (v.line l).service = []) →
      ∃ u : State, exec .windowSetRelease v = .next u ∧ u.bypass = true
        ∧ u.engine = { v.engine with
            state := .standby, history := [], startRequest := v.controlRun, lastChange := v.time }
        ∧ (∀ l, (u.line l).state = .off ∧ (u.line l).exchange = none ∧ (u.line l).service = [])
        ∧ (∀ p, u.position p = { (v.position p).idle .closed with held := [] })
        ∧ (∀ g, u.segment g = if segmentUsed v.path.anchor g = true then
            { Segment.reset with state := .inhibited, retryCount := (v.segment g).retryCount } else v.segment g)
        ∧ (∀ i, u.post i = { v.post i with
            commands := []
            state := if segmentUsed v.path.anchor (postSegment i) = true ∧ (v.post i).state ≠ .isolated then .unreachable
              else (v.post i).state })
        ∧ u = { v with
            lines := u.lines, ends := u.ends, posts := u.posts, segments := u.segments, positions := u.positions
            reports := u.reports, engine := u.engine
            path := { v.path with queue := u.path.queue, engineWaiting := u.path.engineWaiting } }

/-- A parameter write reaches memory as the host wrote it. The anchor shadow holds it clamped outside STANDBY, and a
clamp sets the parameters-clamped flag; in STANDBY it holds it as written (R4, R10). -/
def Obligations.ParameterWriteIsClampedOutsideStandby : Prop :=
  ∀ (s : State) (a : BitVec 24) (d : Word) (en : Enables) (n : Fin 128), s.ServesHost → en.some = true →
    anchorWordAt (wordAddress a) = some n → isParameter n.val = true → s.trespasses (wordAddress a) = false →
    ∃ (u : State) (m c : Word), exec (.parameterWrite a d en) s = .next u.followUp ∧ m = mergeWord en (s.anchorWord n) d
      ∧ c = (if s.engine.state = .standby then m else clampParameter n.val m)
      ∧ u.mem = Memory.write s.mem (wordAddress a) en d ∧ u.path.anchor = put s.path.anchor n c
      ∧ u.engine.clamped = (s.engine.clamped || c != m)
      ∧ u.engine = { s.engine with clamped := u.engine.clamped, lastChange := u.engine.lastChange }
      ∧ (n ≠ Config.silentModeWord → u.lines = s.lines)
      ∧ u.path = { s.path.arbitrated u.path with
          anchor := u.path.anchor, queue := u.path.queue, engineWaiting := u.path.engineWaiting }
      ∧ u = { s with mem := u.mem, path := u.path, engine := u.engine, lines := u.lines, reports := u.reports }

/-- A write into a host-owned slot of the command ring reaches memory, updates the slot's shadow and records the bytes
written, and nothing else (R16). -/
def Obligations.SlotWriteFillsShadowAndWrittenSet : Prop :=
  ∀ (s : State) (a : BitVec 24) (d : Word) (en : Enables) (k : Fin 64) (n : Fin 8), s.ServesHost → en.some = true →
    s.slotAt (wordAddress a) = some (k, n) → anchorWordAt (wordAddress a) = none → s.directoryAt (wordAddress a) = none →
    s.trespasses (wordAddress a) = false →
    ∃ u : State, exec (.commandSlotWrite a d en) s = .next u.followUp
      ∧ u.mem = Memory.write s.mem (wordAddress a) en d
      ∧ (u.path.slots.get k).words
          = put (s.path.slots.get k).words n (mergeWord en ((s.path.slots.get k).words.get n) d)
      ∧ (∀ b : Fin 16, (u.path.slots.get k).written.get b
          = ((s.path.slots.get k).written.get b || (en.hi && b.val == 2 * n.val) || (en.lo && b.val == 2 * n.val + 1)))
      ∧ (∀ j, j ≠ k → u.path.slots.get j = s.path.slots.get j)
      ∧ u = { s with mem := u.mem, path := { s.path.arbitrated u.path with slots := u.path.slots } }

/-- A write of the command producer index publishes the slots it names while the requested count lies between the
current count and the ring's entries; any other is PRODUCER_INVALID and publishes nothing (R17). -/
def Obligations.ProducerWritePublishesOrIsRefused : Prop :=
  ∀ (s : State) (d : Word) (en : Enables) (w : WindowSet), s.ServesHost → en.some = true → s.path.windows = some w →
    s.trespasses (Config.anchorAddress 14) = false →
    ∃ (u : State) (v : Word) (current requested : Nat), exec (.commandProducerWrite d en) s = .next u.followUp
      ∧ v = mergeWord en (s.anchorWord Config.commandProducer) d
      ∧ current = (s.path.heldProducer - s.path.heldConsumer).toNat ∧ requested = (v - s.path.heldConsumer).toNat
      ∧ u.mem = Memory.write s.mem (Config.anchorAddress 14) en d
      ∧ u.path.anchor = put s.path.anchor Config.commandProducer v
      ∧ (if current ≤ requested ∧ requested ≤ w.commandCount then
          u.path.heldProducer = v
          ∧ u.path.published = s.path.published ++ (List.range (requested - current)).map
              (fun i => Fin.ofNat 64 ((s.path.heldProducer.toNat + i) % w.commandCount))
          ∧ u.reports = s.reports
        else
          u.path.heldProducer = s.path.heldProducer ∧ u.path.published = s.path.published
          ∧ u.reports.slots.get engineSlot = some (FaultRecord.next (s.reports.slots.get engineSlot) .producerInvalid 0
              (BitVec.ofNat 32 v.toNat) s.time))
      ∧ u = { s with
          mem := u.mem, reports := u.reports
          path := { s.path.arbitrated u.path with
            anchor := u.path.anchor, heldProducer := u.path.heldProducer, published := u.path.published } }

/-- A write of the event consumer index is taken up to the producer; one that claims more is CONSUMER_INVALID and
leaves the held consumer as it was (R169). -/
def Obligations.ConsumerWriteIsTakenOrRefused : Prop :=
  ∀ (s : State) (d : Word) (en : Enables), s.ServesHost → en.some = true → s.path.windows.isSome = true →
    s.trespasses (Config.anchorAddress 17) = false →
    ∃ (u : State) (v : Word), exec (.eventConsumerWrite d en) s = .next u.followUp
      ∧ v = mergeWord en (s.anchorWord Config.eventConsumer) d
      ∧ u.mem = Memory.write s.mem (Config.anchorAddress 17) en d
      ∧ u.path.anchor = put s.path.anchor Config.eventConsumer v
      ∧ (if (v - s.reports.consumer).toNat ≤ (s.reports.producer - s.reports.consumer).toNat then
          u.reports = { s.reports with consumer := v }
        else
          u.reports.consumer = s.reports.consumer
          ∧ u.reports.slots.get engineSlot = some (FaultRecord.next (s.reports.slots.get engineSlot) .consumerInvalid 0
              (BitVec.ofNat 32 v.toNat) s.time))
      ∧ u = { s with
          mem := u.mem, reports := u.reports
          path := { s.path.arbitrated u.path with anchor := u.path.anchor } }

/-- A directory write replaces one word of its shadow entry, which is VALID just when its check and its ranges hold; a
change that bears on the post judges its identity again (R4, R62, R63). That a drop above its segment's configured count is
judged by its entry too is the model's choice (R53 over R64: log entry 42). -/
def Obligations.DirectoryWriteUpdatesShadowAndJudges : Prop :=
  ∀ (s : State) (a : BitVec 24) (d : Word) (en : Enables) (i : Fin 256) (n : Fin 8), s.ServesHost → en.some = true →
    s.directoryAt (wordAddress a) = some (i, n) → anchorWordAt (wordAddress a) = none →
    s.trespasses (wordAddress a) = false → s.readingDirectory = false → (s.post i).corrupt = false →
    ∃ (u : State) (words : Vector Word 8), exec (.directoryWrite a d en) s = .next u.followUp
      ∧ words = put (s.entry i).words n (mergeWord en ((s.entry i).words.get n) d)
      ∧ u.mem = Memory.write s.mem (wordAddress a) en d
      ∧ u.directory = put s.directory i { words := words, valid := entryValid words }
      ∧ (if (s.entry i).bears (u.entry i) then
          u.post i = { s.post i with identityMatch :=
            match (s.post i).identity with
            | none => .unread
            | some x => if (entryValid words && entryConfigured words) = true then
                (if x = entryIdentity words then .same else .differs) else .unread }
          ∧ ∀ j, j ≠ i → u.post j = s.post j
        else u.posts = s.posts ∧ u.reports = s.reports ∧ u.lines = s.lines)
      ∧ u = { s with
          mem := u.mem, directory := u.directory, posts := u.posts, reports := u.reports, lines := u.lines
          path := s.path.arbitrated u.path }

/-! ### The memory path: the queue, the windows and the command taker -/

/-- The head of the write-back queue is written to the call memory whole and leaves the queue; with no writer and no
access waiting nothing else changes, and with no access waiting no other byte of memory does (R11, R13). -/
def Obligations.QueueHeadReachesMemory : Prop :=
  ∀ (s : State) (e : QueueEntry) (rest : List QueueEntry) (first : Writer), s.path.queue = e :: rest →
    s.path.heldAccesses = [] →
    (∃ t : State, exec (.queueHeadWrite first) s = .next t ∧ t.mem = Memory.write s.mem e.address bothLanes e.value)
    ∧ (s.path.engineWaiting = [] → s.path.taker = .idle → s.reports.steps = [] →
        exec (.queueHeadWrite first) s = .next (State.followUp { s with
          mem := Memory.write s.mem e.address bothLanes e.value
          path := { s.path with queue := rest, partTurn := false } }))

/-- The window set is released in STANDBY once the queue is empty: published slots go without results, shadows and
written sets are cleared (R7); at any other time it stays. -/
def Obligations.WindowSetReleasedInStandbyWhenQueueEmpty : Prop :=
  ∀ s : State,
    (s.engine.state = .standby → s.path.queue = [] → s.path.engineWaiting = [] → s.path.windows.isSome = true →
      ∃ u : State, exec .windowSetRelease s = .next u.followUp ∧ u.path.windows = none ∧ u.path.published = []
        ∧ u.path.refused = [] ∧ (∀ k, u.path.slots.get k = Slot.reset)
        ∧ u = { s with path := { s.path with
            windows := u.path.windows, published := u.path.published, refused := u.path.refused
            slots := u.path.slots } })
    ∧ (s.engine.state ≠ .standby ∨ s.path.queue ≠ [] → exec .windowSetRelease s = .next s.followUp)

/-- A slot that the command taker takes: FRAMING where its bytes are not all written or word 7 is not the complement of
word 0, UNKNOWN where its code names no command, and otherwise the effect of the command's own row (R18). A slot that waited
out a restart has no effect: it is answered as its command is outside RUN, NOT_RUNNING or BAD_ARG (R188, R190; log entry
50). -/
def Obligations.TakerJudgesSlotAndCarriesOutCommand : Prop :=
  ∀ (s : State) (k : Fin 64), s.takeableSlot = some k →
    ((s.path.slots.get k).framed = false →
      exec .commandTake s = .next ((State.followUp { s with commandResult := some .framing }).answerSlot k))
    ∧ ((s.path.slots.get k).framed = true → commandOf (s.path.slots.get k).words = none →
      exec .commandTake s = .next ((State.followUp { s with commandResult := some .unknown }).answerSlot k))
    ∧ (∀ i, (s.path.slots.get k).framed = true → commandOf (s.path.slots.get k).words = some i → k ∉ s.path.refused →
      ∃ t : State, exec i s = .next t ∧ exec .commandTake s = .next (t.answerSlot k))
    ∧ ∀ i, (s.path.slots.get k).framed = true → commandOf (s.path.slots.get k).words = some i → k ∈ s.path.refused →
      ∃ (t : State) (r : ResultCode), exec i { s with engine := { s.engine with state := .restarting } } = .next t
        ∧ t.commandResult = some r ∧ (r = .notRunning ∨ r = .badArg)
        ∧ exec .commandTake s = .next ((State.followUp { s with commandResult := some r }).answerSlot k)

/-- The answer of a slot with room in the queue: its written set is cleared, the result word and then the new consumer
index are queued, and the slot leaves the published list (R19). -/
def Obligations.AnswerQueuesResultThenConsumerIndex : Prop :=
  ∀ (t : State) (k : Fin 64) (w : WindowSet) (result index : QueueEntry), t.takerPaused = false →
    t.path.windows = some w → t.path.queue.length ≤ 30 →
    result = QueueEntry.mk (w.resultBase + 2 * k.val) (wordOf (highByte ((t.path.slots.get k).words.get 0))
      (ResultCode.code (t.commandResult.getD .notRunning))) →
    index = QueueEntry.mk (Config.anchorAddress 15) (t.path.heldConsumer + 1) →
    ∃ u : State, u = t.answerSlot k ∧ u.path.queue = enqueue (enqueue t.path.queue result) index
      ∧ u.path.heldConsumer = t.path.heldConsumer + 1 ∧ u.path.taker = .idle
      ∧ u.path.published = t.path.published.erase k ∧ u.path.refused = t.path.refused.erase k
      ∧ (u.path.slots.get k).words = (t.path.slots.get k).words
      ∧ (∀ b, (u.path.slots.get k).written.get b = false) ∧ (∀ j, j ≠ k → u.path.slots.get j = t.path.slots.get j)
      ∧ u = { t with path := { t.path with
          queue := u.path.queue, heldConsumer := u.path.heldConsumer, taker := u.path.taker
          published := u.path.published, refused := u.path.refused, slots := u.path.slots } }

/-- Tests 3 and 4 of the command taker, for each of the 19 commands: BAD_ARG for an argument out of its range,
NOT_RUNNING outside RUN, and no effect in either case (R18). -/
def Obligations.CommandsRefuseBadArgumentsAndIdleEngine : Prop :=
  ∀ (s bad idle : State) (a b c : Word),
    bad = State.followUp { s with commandResult := some .badArg } →
    idle = State.followUp { s with commandResult := some .notRunning } →
    (∀ i ∈ [Instr.isolatePost a b, .restorePost a b, .testPost a b], postArg a b = none ∨ s.inRun = false →
      exec i s = .next (if (postArg a b).isNone then bad else idle))
    ∧ (∀ i ∈ [Instr.clearSegment a, .inhibitSegment a], 8 ≤ a.toNat ∨ s.inRun = false →
      exec i s = .next (if 8 ≤ a.toNat then bad else idle))
    ∧ (a = 0 ∨ s.inRun = false → exec (.dropCall a) s = .next (if a = 0 then bad else idle))
    ∧ (a = 0 ∨ 256 ≤ a.toNat ∨ s.inRun = false →
      exec (.closeIncident a) s = .next (if a = 0 ∨ 256 ≤ a.toNat then bad else idle))
    ∧ (∀ i ∈ [Instr.openPosition a, .closePosition a, .release a, .ready a, .hold a, .leave a],
      16 ≤ a.toNat ∨ s.inRun = false → exec i s = .next (if 16 ≤ a.toNat then bad else idle))
    ∧ (∀ i ∈ [Instr.accept a b, .decline a b, .pick a b, .retrieve a b, .join a b],
      16 ≤ a.toNat ∨ b = 0 ∨ s.inRun = false → exec i s = .next (if 16 ≤ a.toNat ∨ b = 0 then bad else idle))
    ∧ (16 ≤ a.toNat ∨ postArg b c = none ∨ s.inRun = false →
      exec (.callback a b c) s = .next (if 16 ≤ a.toNat ∨ (postArg b c).isNone then bad else idle))

/-! ### Start-up, class B faults and the restart -/

/-- A start request is acted on in STANDBY with no window set in effect: the engine enters STARTING, the state word is
queued, and the read of the 128 words of the anchor begins (R180). Otherwise it waits. -/
def Obligations.StartRequestBeginsAnchorRead : Prop :=
  ∀ s : State,
    (s.engine.startRequest = true → s.engine.state = .standby → s.path.windows = none → s.path.engineWaiting = [] →
      queueTakes s.path.queue (Config.anchorAddress 1) = true →
      ∃ u : State, exec .startUp s = .next u.followUp
        ∧ u.engine = { s.engine with
            state := .starting, startRequest := false, step := .anchorRead, lastChange := s.time }
        ∧ queuedValue u.path.queue (Config.anchorAddress 1) = some u.stateWord
        ∧ u = { s with
            engine := u.engine, path := { s.path with queue := u.path.queue, readWords := 128 }
            reports := { s.reports with list := markObject s.reports.list .engine true true false s.time } })
    ∧ (s.engine.startRequest = false ∨ s.engine.state ≠ .standby ∨ s.path.windows.isSome = true →
      exec .startUp s = .next s.followUp)

/-- The anchor read ends, no host access waiting: the shadow takes what memory holds. A layout that fails a check gives
its reason and STANDBY; one that passes gives the windows, the clamped parameters and their flag, and the directory read
begins with every entry INVALID (R6, R10, R180). -/
def Obligations.AnchorReadIsValidatedAndClamped : Prop :=
  ∀ (s : State) (a : Vector Word 128), s.engine.step = .anchorRead → s.path.queue = [] → s.path.engineWaiting = [] →
    s.path.heldAccesses = [] → (∀ n : Fin 128, a.get n = Memory.word s.mem (Config.anchorBase + 2 * n.val)) →
    ∃ u : State, exec .anchorReadDone s = .next u.followUp ∧ u.engine.reason = validateAnchor a
      ∧ (validateAnchor a ≠ .ok → u.engine.state = .standby ∧ u.engine.step = .idle ∧ u.path.windows = s.path.windows
          ∧ u.path.anchor = a ∧ u.directory = s.directory)
      ∧ (validateAnchor a = .ok → u.engine.state = s.engine.state ∧ u.engine.step = .directoryRead
          ∧ u.path.windows = some (layoutOf a) ∧ (∀ i, (u.entry i).valid = false)
          ∧ (∀ n : Fin 128, u.path.anchor.get n = if isParameter n.val then clampParameter n.val (a.get n) else a.get n)
          ∧ (u.engine.clamped = true ↔ ∃ n : Fin 128, u.path.anchor.get n ≠ a.get n))
      ∧ (∀ l, u.line l = { s.line l with lastExchange := (u.line l).lastExchange }) ∧ u.path.heldAccesses = []
      ∧ u = { s with
          engine := u.engine, path := u.path, directory := u.directory, lines := u.lines, reports := u.reports }

/-- The directory read of a start-up ends with the control word reading RUN and no host access waiting: the shadow holds
what memory holds, the indices take the anchor's values, the records return to their start values, each used segment
enters SWEEP and the engine enters RUN (R20, R61, R181). -/
def Obligations.DirectoryReadEndsStartUpInRun : Prop :=
  ∀ (s : State) (w : WindowSet), s.engine.step = .directoryRead → s.path.queue = [] → s.path.engineWaiting = [] →
    s.path.windows = some w → s.controlRun = true → s.path.heldAccesses = [] →
    (∀ l, (s.line l).state = .off ∧ (s.line l).exchange = none) →
    ∃ u : State, exec .directoryReadDone s = .next u.followUp ∧ u.engine.state = .run ∧ u.engine.step = .idle
      ∧ u.engine.restartCount = 0 ∧ u.engine.history = []
      ∧ (∀ i, u.entry i = memoryEntry s.mem w.directoryBase i)
      ∧ u.path.heldProducer = s.anchorWord 14 ∧ u.path.heldConsumer = s.anchorWord 14 ∧ u.path.published = []
      ∧ u.reports.producer = s.anchorWord 17 ∧ u.reports.consumer = s.anchorWord 17
      ∧ (∀ r, u.call r = none) ∧ (∀ k, u.incident k = none) ∧ (∀ p, u.position p = Position.reset)
      ∧ (∀ i, (u.post i).state = if segmentUsed s.path.anchor (postSegment i) then .unknown else .unreachable)
      ∧ (∀ g, (u.segment g).state = if segmentUsed s.path.anchor g then
          (if u.nearSweepList g = [] then .active else .sweep) else .unused)
      ∧ u.calls.nextNumber = s.calls.nextNumber ∧ u.cluster.nextNumber = s.cluster.nextNumber
      ∧ u.mem = s.mem ∧ u.time = s.time ∧ u.pending = s.pending

/-- A class B fault handed over in RUN starts a restart: the fault is kept for the restart area, every line side halts,
the drain begins and the engine enters RESTARTING; the third fault within 600 s fixes the outcome FAILED. In RESTARTING
it fixes that outcome alone, and in STANDBY and FAILED it changes nothing. In STARTING and STOPPING it starts a failure
clear, whose outcome is FAILED, in the state it finds; while one is under way it changes nothing (R186, R187, R190,
R192). -/
def Obligations.ClassBFaultStartsRestart : Prop :=
  ∀ (s : State) (f : ClassB),
    (s.engine.state = .run → ∃ u : State, u = s.classB f ∧ u.engine.state = .restarting ∧ u.engine.step = .draining
      ∧ u.engine.fault = f ∧ u.engine.faultTime = s.time
      ∧ u.engine.history = s.engine.history.filter (fun t => (s.time - t).toNat < 60000) ++ [s.time]
      ∧ u.engine.restartCount = (if s.engine.restartCount < 255 then s.engine.restartCount + 1 else 255)
      ∧ u.engine.outcomeFailed = (u.engine.history.length == 3)
      ∧ (∀ l, (u.line l).state = .off ∨ (u.line l).state = .halting) ∧ u.bypass = false
      ∧ u = { s with lines := u.lines, engine := u.engine, path := u.path, reports := u.reports })
    ∧ (s.engine.state = .restarting → s.classB f = { s with engine := { s.engine with outcomeFailed := true } })
    ∧ (s.engine.state = .standby ∨ s.engine.state = .failed → s.classB f = s)
    ∧ (s.engine.state = .starting ∨ s.engine.state = .stopping →
      (s.clearing = true → s.classB f = s)
      ∧ (s.clearing = false → ∃ u : State, u = s.classB f
          ∧ u.engine = { s.engine with step := .draining, fault := f, faultTime := s.time, outcomeFailed := true }
          ∧ (∀ l, (u.line l).state = .off ∨ (u.line l).state = .halting) ∧ u.bypass = true
          ∧ u = { s with lines := u.lines, engine := u.engine, path := { s.path with readWords := 0 } }))

/-- The drain of a restart ends with the queue empty: the restart area is fixed and written to memory, and no byte
outside it changes. The end of that write leaves the restart waiting for its line sides and serves the held host accesses
(R15, R188, R191), at that row (log entry 14): none, a read, or a write to a word that nothing snoops. That the area's
contents are fixed as the drain ends, and not at the end of its write, is the model's choice (log entry 59). -/
def Obligations.RestartAreaIsWrittenAfterDrain : Prop :=
  ∀ s : State,
    (s.engine.step = .draining → s.path.queue = [] → s.path.engineWaiting = [] → Memory.wf s.mem = true →
      ∃ u : State, exec .drainEnd s = .next u.followUp ∧ u.engine.step = .areaWriting
        ∧ u.engine.area = #v[word s.engine.fault.cause.code, s.engine.fault.first, s.engine.fault.second,
            s.engine.faultTime.extractLsb' 16 16, s.engine.faultTime.extractLsb' 0 16, word s.liveCalls,
            word s.liveIncidents, word (flagBit s.engine.outcomeFailed 15 + s.engine.restartCount)]
        ∧ (∀ n : Fin 8, Memory.word u.mem (0xFFFFF0 + 2 * n.val) = u.engine.area.get n)
        ∧ (∀ b, b < 0xFFFFF0 ∨ 0x1000000 ≤ b → Memory.get u.mem b = Memory.get s.mem b)
        ∧ u = { s with mem := u.mem, engine := { s.engine with step := .areaWriting, area := u.engine.area } })
    ∧ (s.engine.step = .areaWriting → s.path.heldAccesses = [] →
      exec .restartAreaWritten s = .next (State.followUp { s with
        engine := { s.engine with step := .linesHalting }
        path := { s.path with partTurn := false } }))
    ∧ (∀ a en, s.engine.step = .areaWriting → s.path.heldAccesses = [.read a en] →
      exec .restartAreaWritten s = .next (State.followUp { s with
        engine := { s.engine with step := .linesHalting }
        path := { s.path with
          heldAccesses := [], partTurn := decide (24 ≤ s.path.queue.length)
          reply := some (ReadReply.mk a en ((queuedValue s.path.queue (wordAddress a)).getD
            (wordOf (Memory.get s.mem (wordAddress a)) (Memory.get s.mem (wordAddress a + 1))))) } }))
    ∧ ∀ a d en, s.engine.step = .areaWriting → s.path.heldAccesses = [.write a d en] → en.some = true →
      s.trespasses (wordAddress a) = false → anchorWordAt (wordAddress a) = none →
      s.directoryAt (wordAddress a) = none → s.slotAt (wordAddress a) = none →
      exec .restartAreaWritten s = .next (State.followUp { s with
        mem := Memory.write s.mem (wordAddress a) en d
        engine := { s.engine with step := .linesHalting }
        path := { s.path with heldAccesses := [], partTurn := decide (24 ≤ s.path.queue.length) } })

/-- The directory reload of a restart or a failure clear ends, no host access waiting: the shadow holds what memory holds.
With the outcome RUN, the control word reading RUN and no record check failing, each used segment enters SWEEP with no post
left PRESENT, and the engine returns to RUN (R189). With the outcome FAILED, or out of STARTING or STOPPING, the line sides
are OFF and the used segments INHIBITED: FAILED, with BYPASS and ATTN asserted, or, where the control word reads STOP,
STANDBY with an empty restart history and every position CLOSED (R89, R149, R175, R177, R189, R192). -/
def Obligations.ReloadReturnsEngineToRun : Prop :=
  ∀ (s : State) (w : WindowSet), s.engine.step = .reloading → s.path.queue = [] → s.path.engineWaiting = [] →
    s.path.heldAccesses = [] → s.path.windows = some w →
    (s.engine.state = .restarting → s.engine.outcomeFailed = false → s.controlRun = true → s.Sound →
      ∃ u : State, exec .restartReloadDone s = .next u.followUp ∧ u.engine.state = .run ∧ u.engine.step = .idle
        ∧ (∀ i, u.entry i = memoryEntry s.mem w.directoryBase i)
        ∧ (∀ g, segmentUsed s.path.anchor g = true → (u.segment g).state = .sweep ∨ (u.segment g).state = .active)
        ∧ (∀ i, segmentUsed s.path.anchor (postSegment i) = true →
            (u.post i).state = .unknown ∨ (u.post i).state = .isolated)
        ∧ u.engine.restartCount = s.engine.restartCount ∧ u.mem = s.mem ∧ u.calls = s.calls
        ∧ u.positions = s.positions ∧ u.time = s.time ∧ u.pending = s.pending)
    ∧ (s.engine.state ≠ .restarting ∨ s.engine.outcomeFailed = true → s.Sound →
      ∃ u : State, exec .restartReloadDone s = .next u.followUp ∧ u.engine.step = .idle ∧ u.bypass = true
        ∧ (∀ i, u.entry i = memoryEntry s.mem w.directoryBase i)
        ∧ (∀ l, (u.line l).state = .off ∧ (u.line l).exchange = none ∧ (u.line l).service = [])
        ∧ (∀ g, segmentUsed s.path.anchor g = true → (u.segment g).state = .inhibited)
        ∧ (s.controlRun = true → u.engine.state = .failed ∧ u.attn = true ∧ u.engine.history = s.engine.history
            ∧ u.positions = s.positions)
        ∧ (s.controlRun = false → u.engine.state = .standby ∧ u.engine.history = [] ∧ u.engine.startRequest = false
            ∧ ∀ p, u.position p = { (s.position p).idle .closed with held := [] })
        ∧ u.engine.restartCount = s.engine.restartCount ∧ u.mem = s.mem ∧ u.calls = s.calls
        ∧ u.time = s.time ∧ u.pending = s.pending)

/-! ### Posts and segments -/

/-- ISOLATE_POST of a post without a live call and not deferred: ISOLATED, barred count 0, RELEASE pended; with a
QUEUED call, that call ends LINE_FAULT; an ISOLATED post is refused BAD_STATE (R58). -/
def Obligations.IsolatePostBarsPost : Prop :=
  ∀ (s : State) (g d : Word) (i : Fin 256), s.inRun = true → s.Sound → postArg g d = some i →
    ((s.post i).state = .isolated →
      exec (.isolatePost g d) s = .next (State.followUp { s with commandResult := some .badState }))
    ∧ ((s.post i).state ≠ .isolated → (s.post i).liveCall = none → (s.post i).deferred = false →
        (s.post i).side = .near →
      ∃ u : State, exec (.isolatePost g d) s = .next u.followUp ∧ u.commandResult = some .done
        ∧ u.post i = { s.postPended i .release none with state := .isolated, barred := 0 }
        ∧ (∀ j, j ≠ i → u.post j = s.post j)
        ∧ u = { s with posts := u.posts, lines := u.lines, reports := u.reports, commandResult := u.commandResult })
    ∧ ∀ r c, (s.post i).state ≠ .isolated → (s.post i).liveCall = some c.number → (s.post i).deferred = false →
        s.liveCall c.number = some (r, c) → c.state = .queued → c.channel = none → c.post = i → (s.post i).side = .near →
      ∃ u : State, exec (.isolatePost g d) s = .next u.followUp ∧ u.commandResult = some .done
        ∧ u.post i = { s.postPended i .release none with state := .isolated, barred := 0, liveCall := none }
        ∧ u.call r = some (c.endedBy .lineFault) ∧ u.calls.queue = s.calls.queue.erase r
        ∧ (∀ q, q ≠ r → u.call q = s.call q) ∧ (∀ j, j ≠ i → u.post j = s.post j) ∧ u.positions = s.positions
        ∧ u.speech = s.speech ∧ u.segments = s.segments ∧ u.mem = s.mem ∧ u.time = s.time

/-- RESTORE_POST of an ISOLATED or SILENT post: UNKNOWN while its segment serves and no break lies before it, otherwise
UNREACHABLE; its identity is forgotten and its miss count 0, and a configured post that becomes UNKNOWN is polled from
now on (R59). A FAR-side post at the far limit that becomes UNREACHABLE hands the far limit to the next lowest PRESENT
post of side FAR (R194). Any other post is refused BAD_STATE. That the pending commands stay, also where the post becomes
UNREACHABLE, is the model's choice (R59 keeps the list, R41 empties it: log entry 29), and so is which drops lie beyond a
break: those from its first run drop up (log entry 57). -/
def Obligations.RestorePostReturnsPostToService : Prop :=
  ∀ (s : State) (g d : Word) (i : Fin 256), s.inRun = true → (s.post i).corrupt = false → postArg g d = some i →
    let restored : PostState :=
      if (s.segment (postSegment i)).serving = true ∧ s.beyondBreak i = false then .unknown else .unreachable
    ((s.post i).state ≠ .isolated → (s.post i).state ≠ .silent →
      exec (.restorePost g d) s = .next (State.followUp { s with commandResult := some .badState }))
    ∧ ((s.post i).state = .isolated ∨ (s.post i).state = .silent →
      (restored = .unknown ∨ (s.post i).side = .near
          ∨ (∀ b, s.broken (postSegment i) = some b → b.state = .cut ∨ b.farLimit ≠ some (postDrop i)) →
        ∃ u : State, exec (.restorePost g d) s = .next u.followUp ∧ u.commandResult = some .done
          ∧ u.post i = { s.post i with state := restored, misses := 0, identity := none, identityMatch := .unread }
          ∧ (restored = .unknown → s.configured i = true →
              (u.line (s.lineOf i)).lastExchange.get (postDrop i) = some s.time)
          ∧ (∀ j, j ≠ i → u.post j = s.post j)
          ∧ u = { s with posts := u.posts, lines := u.lines, reports := u.reports, commandResult := u.commandResult })
      ∧ ∀ b far, restored = .unreachable → (s.post i).side = .far → s.broken (postSegment i) = some b → b.state ≠ .cut →
          b.farLimit = some (postDrop i) → s.lowestFar (postSegment i) = some far →
        ∃ u : State, exec (.restorePost g d) s = .next u.followUp ∧ u.commandResult = some .done
          ∧ u.post i = { s.post i with state := .unreachable, misses := 0, identity := none, identityMatch := .unread }
          ∧ (u.segment (postSegment i)).broken = some { b with
              farLimit := some far, interval := s.breakInterval (postSegment i) { b with farLimit := some far } }
          ∧ (∀ k, k ≠ postSegment i → u.segment k = s.segment k) ∧ (∀ j, j ≠ i → u.post j = s.post j)
          ∧ u = { s with
              posts := u.posts, lines := u.lines, segments := u.segments, reports := u.reports
              commandResult := u.commandResult })

/-- TEST_POST: BAD_STATE unless the post is PRESENT, BUSY while it has a call, is deferred or has a command pending,
otherwise TEST is pended and its drop joins the service list (R60, R32). -/
def Obligations.TestPostPendsTest : Prop :=
  ∀ (s : State) (g d : Word) (i : Fin 256), s.inRun = true → (s.post i).corrupt = false → postArg g d = some i →
    ((s.post i).state ≠ .present →
      exec (.testPost g d) s = .next (State.followUp { s with commandResult := some .badState }))
    ∧ ((s.post i).state = .present →
        (s.post i).liveCall.isSome = true ∨ (s.post i).deferred = true ∨ (s.post i).commands ≠ [] →
      exec (.testPost g d) s = .next (State.followUp { s with commandResult := some .busy }))
    ∧ ((s.post i).state = .present → (s.post i).liveCall = none → (s.post i).deferred = false →
        (s.post i).commands = [] →
      ∃ u : State, exec (.testPost g d) s = .next u.followUp ∧ u.commandResult = some .done
        ∧ u.post i = { s.post i with commands := [{ kind := .test, call := none }], testCancelled := false }
        ∧ postDrop i ∈ (u.line (s.lineOf i)).service ∧ (∀ j, j ≠ i → u.post j = s.post j)
        ∧ u = { s with posts := u.posts, lines := u.lines, reports := u.reports, commandResult := u.commandResult })

/-- CLEAR_SEGMENT takes a LATCHED or INHIBITED segment to SWEEP with a retry count of 0, and any other is refused
BAD_STATE; the retry timer takes an INHIBITED segment to SWEEP with its count, or outside RUN is discarded (R72, R87).
When a timer is due is the model's choice (log entry 9). -/
def Obligations.ClearedOrRetriedSegmentEntersSweep : Prop :=
  ∀ (s : State) (w : Word) (g : Fin 8), s.Sound → segmentArg w = some g →
    (s.inRun = true → (s.segment g).state ≠ .latched → (s.segment g).state ≠ .inhibited →
      exec (.clearSegment w) s = .next (State.followUp { s with commandResult := some .badState }))
    ∧ (s.inRun = true → (s.segment g).state = .latched ∨ (s.segment g).state = .inhibited →
        (s.segment g).farFeed = false → s.nearSweepList g ≠ [] →
      ∃ u : State, exec (.clearSegment w) s = .next u.followUp ∧ u.commandResult = some .done ∧ s.Swept u g 0)
    ∧ ((s.segment g).state = .inhibited → timerDue s.time (s.segment g).retryTimer = true →
        (s.inRun = true → (s.segment g).farFeed = false → s.nearSweepList g ≠ [] →
          ∃ u : State, exec (.retryTimerExpiry g) s = .next u.followUp ∧ u.commandResult = s.commandResult
            ∧ s.Swept u g (s.segment g).retryCount)
        ∧ (s.inRun = false → exec (.retryTimerExpiry g) s = .next (State.followUp { s with
            segments := put s.segments g { s.segment g with retryTimer := none } })))

/-- INHIBIT_SEGMENT of a serving segment takes it out of service: both sides OFF, its reachable posts UNREACHABLE with their
pending lists emptied, its break removed; a held segment is held without a timer; an UNUSED one is refused BAD_STATE (R73,
R88). Of a lost post the QUEUED call and the deferral stay; a CONNECTING, ACTIVE or RETRIEVING call ends LINE_FAULT with no
RELEASE, its channel freed and its position wrapped up; an OFFERED one returns to the queue; a record RESERVED ends and its
post waits again at the tail; a HELD one ends and leaves its holder's list, and a RINGING one ends with its channel freed and
its position FREE (R75, R76). That a lost deferred post goes to the tail only where it held a reservation, and
otherwise keeps its place, is the model's choice (R76 against R109: log entry 26). -/
def Obligations.InhibitSegmentHoldsSegmentOut : Prop :=
  ∀ (s : State) (w : Word) (g : Fin 8), s.Sound → s.inRun = true → segmentArg w = some g →
    let held : Segment :=
      { state := .inhibited, retryCount := 0, retryTimer := none, stableTimer := none, farFeed := false, broken := none }
    ((s.segment g).state = .unused →
      exec (.inhibitSegment w) s = .next (State.followUp { s with commandResult := some .badState }))
    ∧ ((s.segment g).state = .latched ∨ (s.segment g).state = .inhibited →
      ∃ u : State, exec (.inhibitSegment w) s = .next u.followUp ∧ u.commandResult = some .done
        ∧ u.segments = put s.segments g { s.segment g with state := .inhibited, retryTimer := none, retryCount := 0 }
        ∧ u = { s with segments := u.segments, reports := u.reports, commandResult := u.commandResult })
    ∧ ((s.segment g).serving = true → (∀ d, s.KeepsPlace (postIndex g d)) →
      ∃ u : State, exec (.inhibitSegment w) s = .next u.followUp ∧ u.commandResult = some .done
        ∧ s.OutOfService u g held ∧ (∀ d, u.post (postIndex g d) = (s.post (postIndex g d)).lost)
        ∧ u = { s with
            segments := u.segments, lines := u.lines, ends := u.ends, posts := u.posts, reports := u.reports
            commandResult := u.commandResult })
    ∧ ∀ i r c, (s.segment g).serving = true → postSegment i = g → (s.post i).state = .present →
      (∀ d, postIndex g d ≠ i → s.KeepsPlace (postIndex g d)) →
      (∀ p ch st, (s.post i).deferred = false → (s.post i).liveCall = some c.number → s.liveCall c.number = some (r, c) →
          c.post = i → c.state = .connecting ∨ c.state = .active ∨ c.state = .retrieving → c.parties = [p] →
          s.HoldsChannel c ch st → st ≠ .free → s.othersOn p ⟨g, ch⟩ = 0 →
          s.speech.connections.get p = some ⟨g, ch⟩ →
        ∃ u : State, exec (.inhibitSegment w) s = .next u.followUp ∧ u.commandResult = some .done
          ∧ s.OutOfService u g held ∧ u.call r = some (c.endedBy .lineFault)
          ∧ u.post i = { (s.post i).lost with liveCall := none }
          ∧ u.position p = s.wrappedUp (s.position p) ∧ u.Connected p none
          ∧ u.channel (channelIndex g ch) = Channel.freed
          ∧ (∀ q, q ≠ r → u.call q = s.call q) ∧ (∀ q, q ≠ p → u.position q = s.position q)
          ∧ u.Reported (.call r) ∧ u.Reported (.position p)
          ∧ u.calls.queue = s.calls.queue ∧ u.calls.deferrals = s.calls.deferrals ∧ u.mem = s.mem ∧ u.time = s.time)
      ∧ (∀ p ch, (s.post i).deferred = false → (s.post i).liveCall = some c.number → s.liveCall c.number = some (r, c) →
          c.post = i → c.state = .offered → c.parties = [p] → s.HoldsChannel c ch .reserved →
          s.othersOn p ⟨g, ch⟩ = 0 →
        ∃ u : State, exec (.inhibitSegment w) s = .next u.followUp ∧ u.commandResult = some .done
          ∧ s.OutOfService u g held ∧ u.call r = some { c with state := .queued, parties := [], channel := none }
          ∧ u.post i = (s.post i).lost ∧ u.calls.queue = s.insertBySequence r s.calls.queue
          ∧ u.position p = { (s.position p).idle .free with
              freeSince := s.time, lastOffer := some { call := c.number, outcome := .withdrawn } }
          ∧ u.channel (channelIndex g ch) = Channel.freed ∧ u.dispatchDue = true
          ∧ (∀ q, q ≠ r → u.call q = s.call q) ∧ (∀ q, q ≠ p → u.position q = s.position q)
          ∧ u.Reported (.call r) ∧ u.Reported (.position p) ∧ u.cluster = s.cluster
          ∧ u.calls.deferrals = s.calls.deferrals ∧ u.mem = s.mem ∧ u.time = s.time)
      ∧ (∀ p, (s.post i).deferred = false → (s.post i).liveCall = some c.number → s.liveCall c.number = some (r, c) →
          c.post = i → c.state = .held → c.holder = some p → c.channel = none →
        ∃ u : State, exec (.inhibitSegment w) s = .next u.followUp ∧ u.commandResult = some .done
          ∧ s.OutOfService u g held ∧ u.call r = some (c.endedBy .lineFault)
          ∧ u.post i = { (s.post i).lost with liveCall := none }
          ∧ u.position p = { s.position p with held := (s.position p).held.erase c.number }
          ∧ (∀ q, q ≠ r → u.call q = s.call q) ∧ (∀ q, q ≠ p → u.position q = s.position q)
          ∧ u.Reported (.call r) ∧ u.Reported (.position p) ∧ u.speech = s.speech
          ∧ u.calls.queue = s.calls.queue ∧ u.calls.deferrals = s.calls.deferrals ∧ u.mem = s.mem ∧ u.time = s.time)
      ∧ (∀ p ch, (s.post i).deferred = false → (s.post i).liveCall = some c.number → s.liveCall c.number = some (r, c) →
          c.post = i → c.state = .ringing → c.parties = [p] → s.HoldsChannel c ch .reserved → s.othersOn p ⟨g, ch⟩ = 0 →
        ∃ u : State, exec (.inhibitSegment w) s = .next u.followUp ∧ u.commandResult = some .done
          ∧ s.OutOfService u g held ∧ u.call r = some (c.endedBy .lineFault)
          ∧ u.post i = { (s.post i).lost with liveCall := none }
          ∧ u.position p = { (s.position p).idle .free with freeSince := s.time }
          ∧ u.channel (channelIndex g ch) = Channel.freed
          ∧ (∀ q, q ≠ r → u.call q = s.call q) ∧ (∀ q, q ≠ p → u.position q = s.position q)
          ∧ u.Reported (.call r) ∧ u.Reported (.position p)
          ∧ u.calls.queue = s.calls.queue ∧ u.calls.deferrals = s.calls.deferrals ∧ u.mem = s.mem ∧ u.time = s.time)
      ∧ ((s.post i).deferred = true → (s.post i).liveCall = none → s.reservedFor i = some r → s.call r = some c →
          c.channel = none →
        ∃ u : State, exec (.inhibitSegment w) s = .next u.followUp ∧ u.commandResult = some .done
          ∧ s.OutOfService u g held ∧ u.call r = some (c.endedBy .lineFault) ∧ u.post i = (s.post i).lost
          ∧ u.calls.deferrals = s.calls.deferrals.filter (fun d => d.post != i)
              ++ s.calls.deferrals.filter (fun d => d.post == i)
          ∧ (∀ q, q ≠ r → u.call q = s.call q) ∧ u.positions = s.positions ∧ u.calls.queue = s.calls.queue
          ∧ u.Reported (.call r) ∧ u.speech = s.speech ∧ u.mem = s.mem ∧ u.time = s.time)

/-- The stable timer of an ACTIVE segment clears its retry count (R72); the restore timer of a break in CUT or FED asks
the NEAR side for a probe of the far limit drop, or of the first run drop (R84); the break is as it was, with its chainage
interval (R79), but for the timer.
When a timer is due is the model's choice (log entry 9). -/
def Obligations.StableAndRestoreTimersAct : Prop :=
  ∀ (s : State) (g : Fin 8),
    ((s.segment g).state = .active → timerDue s.time (s.segment g).stableTimer = true →
      exec (.stableTimerExpiry g) s = .next (State.followUp { s with
        segments := put s.segments g { s.segment g with retryCount := 0, stableTimer := none }
        reports := { s.reports with list := markObject s.reports.list (.segment g) true true false s.time } }))
    ∧ ∀ b, s.broken g = some b → timerDue s.time b.restoreTimer = true → b.state ≠ .restorePending → s.inRun = true →
      ∃ u : State, exec (.restoreTimerExpiry g) s = .next u.followUp
        ∧ (u.line (nearOf g)).probe = some (b.farLimit.getD b.firstRun)
        ∧ (u.segment g).broken = some { b with restoreTimer := none }
        ∧ (∀ l, l ≠ nearOf g → u.line l = s.line l) ∧ (∀ k, k ≠ g → u.segment k = s.segment k)
        ∧ u = { s with segments := u.segments, lines := u.lines, reports := u.reports }

/-! ### Calls and incidents -/

/-- DROP_CALL: GONE where no live record holds the number; BAD_STATE while the call is CONNECTING, ACTIVE, RETRIEVING or
RINGING; a QUEUED, OFFERED, HELD or RESERVED record ends DROPPED with a RELEASE pended, and leaves the queue, its
position, its holder's list or the deferral list (R110). -/
def Obligations.DropCallEndsWaitingCall : Prop :=
  ∀ (s : State) (w : Word), s.Sound →
    (callArg w = none → exec (.dropCall w) s = .next (State.followUp { s with commandResult := some .badArg }))
    ∧ ∀ n, s.inRun = true → callArg w = some n →
    (s.liveCall n = none → exec (.dropCall w) s = .next (State.followUp { s with commandResult := some .gone }))
    ∧ ∀ r c, s.liveCall n = some (r, c) →
      (c.state = .connecting ∨ c.state = .active ∨ c.state = .retrieving ∨ c.state = .ringing →
        exec (.dropCall w) s = .next (State.followUp { s with commandResult := some .badState }))
      ∧ (c.state = .queued ∨ c.state = .held ∨ c.state = .reserved → c.channel = none →
        ∃ u : State, exec (.dropCall w) s = .next u.followUp ∧ u.commandResult = some .done
          ∧ u.call r = some (c.endedBy .dropped)
          ∧ u.post c.post = { s.postReleased c with
              deferred := if c.state = .reserved then false else (s.post c.post).deferred }
          ∧ u.Reported (.call r)
          ∧ u.calls.queue = (if c.state = .queued then s.calls.queue.erase r else s.calls.queue)
          ∧ u.calls.overflow = (if c.state = .queued then s.overflowAt (s.calls.queue.erase r).length
              else s.calls.overflow)
          ∧ (∀ q, u.position q = if c.state = .held ∧ c.holder = some q then
              { s.position q with held := (s.position q).held.erase n } else s.position q)
          ∧ u.calls.deferrals = (if c.state = .reserved then s.calls.deferrals.filter (fun d => d.post != c.post)
              else s.calls.deferrals)
          ∧ (∀ q, q ≠ r → u.call q = s.call q) ∧ (∀ j, j ≠ c.post → u.post j = s.post j)
          ∧ u.mem = s.mem ∧ u.time = s.time ∧ u.speech = s.speech ∧ u.segments = s.segments)
      ∧ ∀ p ch, c.state = .offered → c.parties = [p] → s.HoldsChannel c ch .reserved →
        s.othersOn p ⟨postSegment c.post, ch⟩ = 0 →
        ∃ u : State, exec (.dropCall w) s = .next u.followUp ∧ u.commandResult = some .done
          ∧ u.call r = some (c.endedBy .dropped)
          ∧ u.position p = { (s.position p).idle .free with
              freeSince := s.time, lastOffer := some { call := n, outcome := .withdrawn } }
          ∧ u.channel (channelIndex (postSegment c.post) ch) = Channel.freed
          ∧ u.post c.post = s.postReleased c
          ∧ u.Reported (.call r) ∧ u.Reported (.position p)
          ∧ u.calls.queue = s.calls.queue ∧ u.calls.overflow = s.calls.overflow
          ∧ s.TouchesOnly u r p c.post (channelIndex (postSegment c.post) ch)

/-- CLOSE_INCIDENT and the window timer make an OPEN incident QUIET, and CLOSED at once where no member is live;
CLOSE_INCIDENT of a CLOSED or unknown number is refused GONE, of a QUIET one BAD_STATE (R123, R124, R125).
When a timer is due is the model's choice (log entry 9). -/
def Obligations.OpenIncidentBecomesQuietOrCloses : Prop :=
  ∀ (s : State) (w : Word) (n : Nat) (k : Fin 16) (x : Incident), s.Sound →
    let quiet (q : QuietCause) (c : CloseCause) : Incident := { x with
      state := if x.live = 0 then .closed else .quiet
      quietCause := some q
      closeCause := if x.live = 0 then some c else x.closeCause
      windowTimer := none }
    let marked (i : Incident) (t : State) : State := { t with
      cluster := { t.cluster with records := put t.cluster.records k (some i) }
      reports := { t.reports with list := markObject t.reports.list (.incident k) true true false t.time } }
    (incidentArg w = none → exec (.closeIncident w) s = .next (State.followUp { s with commandResult := some .badArg }))
    ∧ (s.inRun = true → incidentArg w = some n → s.incidentNumbered n = none →
      exec (.closeIncident w) s = .next (State.followUp { s with commandResult := some .gone }))
    ∧ (s.inRun = true → incidentArg w = some n → s.incidentNumbered n = some k → s.incident k = some x →
      exec (.closeIncident w) s = .next (State.followUp
        (match x.state with
          | .closed => { s with commandResult := some .gone }
          | .quiet => { s with commandResult := some .badState }
          | .opened => marked (quiet .command .closedByCommand) { s with commandResult := some .done })))
    ∧ (s.incident k = some x → x.state = .opened → timerDue s.time x.windowTimer = true →
      exec (.windowTimerExpiry k) s = .next (marked (quiet .expired .lapsed) s).followUp)

/-- The re-announcement timer expires: PLAY STILL_WAITING is pended to the post of every QUEUED call, and the timer
restarts with the interval as it stands, or not at all where that is 0 (R105).
When a timer is due is the model's choice (log entry 9). -/
def Obligations.ReannouncementPlaysStillWaiting : Prop :=
  ∀ s : State, s.Sound → timerDue s.time s.calls.reannounce = true → (∀ r ∈ s.calls.queue, (s.call r).isSome = true) →
    (s.calls.queue.map (fun r => (s.call r).map Call.post)).Nodup →
    ∃ u : State, exec .reAnnouncementTimerExpiry s = .next u.followUp
      ∧ u.calls = { s.calls with reannounce := if s.parameter 44 = 0 then none else some (s.after (s.parameter 44 * 100)) }
      ∧ (∀ r ∈ s.calls.queue, ∀ c, s.call r = some c →
          u.post c.post = s.postPended c.post (.play .stillWaiting) (some c.number))
      ∧ (∀ i, (∀ r ∈ s.calls.queue, ∀ c, s.call r = some c → c.post ≠ i) → u.post i = s.post i)
      ∧ u = { s with calls := u.calls, posts := u.posts, lines := u.lines, reports := u.reports }

/-! ### Operator positions -/

/-- OPEN_POSITION of a CLOSED position: FREE now with a miss count of 0 and its last offer kept; any other is refused
BAD_STATE (R143). CLOSE_POSITION of a FREE or WRAPUP position that holds no call: CLOSED with no timer, its miss count
and last offer kept; any other is refused BUSY (R144). -/
def Obligations.PositionsOpenAndClose : Prop :=
  ∀ (s : State) (w : Word) (p : Fin 16), s.inRun = true → positionArg w = some p → (s.position p).corrupt = false →
    ((s.position p).state ≠ .closed →
      exec (.openPosition w) s = .next (State.followUp { s with commandResult := some .badState }))
    ∧ ((s.position p).state = .closed → exec (.openPosition w) s = .next (State.followUp { s with
        commandResult := some .done
        positions := put s.positions p { (s.position p).idle .free with freeSince := s.time, misses := 0 }
        reports := { s.reports with list := markObject s.reports.list (.position p) true true false s.time }
        dispatchDue := s.dispatchDue || (s.position p).held.isEmpty }))
    ∧ (((s.position p).state ≠ .free ∧ (s.position p).state ≠ .wrapup) ∨ (s.position p).held ≠ [] →
      exec (.closePosition w) s = .next (State.followUp { s with commandResult := some .busy }))
    ∧ ((s.position p).state = .free ∨ (s.position p).state = .wrapup → (s.position p).held = [] →
      exec (.closePosition w) s = .next (State.followUp { s with
        commandResult := some .done
        positions := put s.positions p ((s.position p).idle .closed)
        reports := { s.reports with list := markObject s.reports.list (.position p) true true false s.time } }))

/-- READY, or the wrap timer, takes a position in WRAPUP to FREE; READY in any other state is refused BAD_STATE (R141,
R142).
When a timer is due is the model's choice (log entry 9). -/
def Obligations.WrapupEndsByReadyOrTimer : Prop :=
  ∀ (s : State) (w : Word) (p : Fin 16), positionArg w = some p → (s.position p).corrupt = false →
    let freed (t : State) : State := { t with
      positions := put t.positions p { (s.position p).idle .free with freeSince := t.time }
      reports := { t.reports with list := markObject t.reports.list (.position p) true true false t.time }
      dispatchDue := t.dispatchDue || (s.position p).held.isEmpty }
    (s.inRun = true → (s.position p).state ≠ .wrapup →
      exec (.ready w) s = .next (State.followUp { s with commandResult := some .badState }))
    ∧ (s.inRun = true → (s.position p).state = .wrapup →
      exec (.ready w) s = .next (freed { s with commandResult := some .done }).followUp)
    ∧ ((s.position p).state = .wrapup → timerDue s.time (s.position p).wrapTimer = true →
      exec (.wrapTimerExpiry p) s = .next (freed s).followUp)

/-- ACCEPT: by the first row of its table, LATE, WITHDRAWN, GONE or BAD_STATE; or the offered call is CONNECTING, the
position ACTIVE and connected, and CONNECT is pended (R135). -/
def Obligations.AcceptConnectsOfferedCall : Prop :=
  ∀ (s : State) (w v : Word) (p : Fin 16) (n : Nat), s.inRun = true → s.Sound → positionArg w = some p →
    callArg v = some n →
    (¬ ((s.position p).state = .offered ∧ (s.position p).current = some n) →
      ∃ result : ResultCode, exec (.accept w v) s = .next (State.followUp { s with commandResult := some result })
        ∧ (∀ o, (s.position p).lastOffer = some o → o.call = n →
            (o.outcome = .timedOut → result = .late) ∧ (o.outcome = .withdrawn → result = .withdrawn)
            ∧ (o.outcome = .callerGone → result = .gone)
            ∧ (o.outcome = .accepted → result = if s.liveCall n = none then .gone else .badState))
        ∧ ((∀ o, (s.position p).lastOffer = some o → o.call ≠ n) →
            result = if s.liveCall n = none then .gone else .badState))
    ∧ ∀ r c ch, (s.position p).state = .offered → (s.position p).current = some n → s.liveCall n = some (r, c) →
        c.parties = [p] → s.HoldsChannel c ch .reserved → s.speech.connections.get p = none →
        s.othersOn p ⟨postSegment c.post, ch⟩ = 0 →
      ∃ u : State, exec (.accept w v) s = .next u.followUp ∧ u.commandResult = some .done
        ∧ u.call r = some { c with state := .connecting }
        ∧ u.position p = { (s.position p).idle .active with
            current := some n, misses := 0, lastOffer := some { call := n, outcome := .accepted } }
        ∧ u.Connected p (some ⟨postSegment c.post, ch⟩)
        ∧ u.post c.post = s.postPended c.post (.connect ch) (some n)
        ∧ u.Reported (.call r) ∧ u.Reported (.position p)
        ∧ u.calls.queue = s.calls.queue ∧ u.calls.overflow = s.calls.overflow ∧ u.cluster = s.cluster
        ∧ u.channel (channelIndex (postSegment c.post) ch) = s.channel (channelIndex (postSegment c.post) ch)
        ∧ s.TouchesOnly u r p c.post (channelIndex (postSegment c.post) ch)

/-- DECLINE, or the offer timer, returns an offered call to the queue with its channel FREE. A decline adds the position
to the declined-by set and leaves it FREE with no last offer; a timeout counts a miss, and at the miss limit the
position is CLOSED. A DECLINE of any other call is refused BAD_STATE, or GONE (R136, R137).
When a timer is due is the model's choice (log entry 9). -/
def Obligations.OfferEndsByDeclineOrTimer : Prop :=
  ∀ (s : State) (w v : Word) (p : Fin 16) (n : Nat), s.Sound → positionArg w = some p → callArg v = some n →
    (s.inRun = true → ¬ ((s.position p).state = .offered ∧ (s.position p).current = some n) →
      ∃ result : ResultCode, exec (.decline w v) s = .next (State.followUp { s with commandResult := some result })
        ∧ ((∃ o, (s.position p).lastOffer = some o ∧ o.call = n) → result = .badState)
        ∧ ((∀ o, (s.position p).lastOffer = some o → o.call ≠ n) →
            result = if s.liveCall n = none then .gone else .badState))
    ∧ ∀ r c ch, (s.position p).state = .offered → (s.position p).current = some n → s.liveCall n = some (r, c) →
        s.HoldsChannel c ch .reserved → s.othersOn p ⟨postSegment c.post, ch⟩ = 0 →
      (s.inRun = true → ∃ u : State, exec (.decline w v) s = .next u.followUp ∧ u.commandResult = some .done
        ∧ u.call r = some { c with
            state := .queued, parties := [], channel := none
            declinedBy := if p ∈ c.declinedBy then c.declinedBy else c.declinedBy ++ [p] }
        ∧ u.calls.queue = s.insertBySequence r s.calls.queue
        ∧ u.calls.overflow = s.overflowAt (s.calls.queue.length + 1)
        ∧ u.channel (channelIndex (postSegment c.post) ch) = Channel.freed
        ∧ u.position p = { (s.position p).idle .free with freeSince := s.time, lastOffer := none }
        ∧ u.Reported (.call r) ∧ u.Reported (.position p)
        ∧ u.posts = s.posts ∧ u.dispatchDue = true ∧ u.cluster = s.cluster
        ∧ s.TouchesOnly u r p c.post (channelIndex (postSegment c.post) ch))
      ∧ (timerDue s.time (s.position p).offerTimer = true →
        ∃ u : State, exec (.offerTimerExpiry p) s = .next u.followUp
        ∧ u.call r = some { c with state := .queued, parties := [], channel := none }
        ∧ u.calls.queue = s.insertBySequence r s.calls.queue
        ∧ u.calls.overflow = s.overflowAt (s.calls.queue.length + 1)
        ∧ u.channel (channelIndex (postSegment c.post) ch) = Channel.freed
        ∧ u.position p = (if s.positionMissLimit ≤ min 7 ((s.position p).misses + 1) then
              { (s.position p).idle .closed with
                misses := min 7 ((s.position p).misses + 1), lastOffer := some { call := n, outcome := .timedOut } }
            else { (s.position p).idle .free with
                misses := min 7 ((s.position p).misses + 1), lastOffer := some { call := n, outcome := .timedOut }
                freeSince := s.time })
        ∧ u.Reported (.call r) ∧ u.Reported (.position p)
        ∧ u.posts = s.posts ∧ u.dispatchDue = true ∧ u.cluster = s.cluster
        ∧ s.TouchesOnly u r p c.post (channelIndex (postSegment c.post) ch))

/-- RELEASE by the only party ends the call CLEARED_BY_OPERATOR: the channel is freed, the connection removed, the
position wraps up and RELEASE is pended to the post (R99, R100, R139, R140); with no call to clear it is refused. -/
def Obligations.ReleaseByOnlyPartyEndsCall : Prop :=
  ∀ (s : State) (w : Word) (p : Fin 16), s.inRun = true → s.Sound → positionArg w = some p →
    ((s.position p).state ≠ .active → (s.position p).state ≠ .dialling →
      exec (.release w) s = .next (State.followUp { s with commandResult := some .badState }))
    ∧ ∀ n r c ch st, (s.position p).state = .active → (s.position p).current = some n → s.liveCall n = some (r, c) →
        c.state = .connecting ∨ c.state = .active ∨ c.state = .retrieving → c.parties = [p] →
        s.HoldsChannel c ch st → st ≠ .free → s.othersOn p ⟨postSegment c.post, ch⟩ = 0 →
        s.speech.connections.get p = some ⟨postSegment c.post, ch⟩ → (s.post c.post).side = .near →
        (s.post c.post).liveCall = some n →
      ∃ u : State, exec (.release w) s = .next u.followUp ∧ u.commandResult = some .done
        ∧ u.call r = some (c.endedBy .clearedByOperator)
        ∧ u.position p = s.wrappedUp (s.position p)
        ∧ u.Connected p none
        ∧ u.channel (channelIndex (postSegment c.post) ch) = Channel.freed
        ∧ u.post c.post = s.postReleased c
        ∧ u.calls.queue = s.calls.queue ∧ u.calls.overflow = s.calls.overflow
        ∧ u.Reported (.call r) ∧ u.Reported (.position p)
        ∧ s.TouchesOnly u r p c.post (channelIndex (postSegment c.post) ch)

/-- The ring timer, or RELEASE in DIALLING, ends a RINGING callback NO_ANSWER or CLEARED_BY_OPERATOR: its position is
FREE, its channel is freed and RELEASE is pended (R140, R148).
When a timer is due is the model's choice (log entry 9). -/
def Obligations.RingingCallbackEndsByTimerOrRelease : Prop :=
  ∀ (s : State) (w : Word) (p : Fin 16) (n : Nat) (r : Fin 64) (c : Call) (ch : Fin 4), s.Sound →
    positionArg w = some p → (s.position p).state = .dialling → (s.position p).current = some n →
    s.liveCall n = some (r, c) → c.state = .ringing → c.parties = [p] → s.HoldsChannel c ch .reserved →
    s.othersOn p ⟨postSegment c.post, ch⟩ = 0 → s.speech.connections.get p = none → (s.post c.post).liveCall = some n →
    ∀ i ∈ [Instr.release w, .ringTimerExpiry p],
      (i = .release w → s.inRun = true) → (i = .ringTimerExpiry p → timerDue s.time (s.position p).ringTimer = true) →
      ∃ u : State, exec i s = .next u.followUp
        ∧ u.call r = some (c.endedBy (if i = .release w then .clearedByOperator else .noAnswer))
        ∧ u.commandResult = (if i = .release w then some .done else s.commandResult)
        ∧ u.position p = { (s.position p).idle .free with freeSince := s.time }
        ∧ u.channel (channelIndex (postSegment c.post) ch) = Channel.freed
        ∧ u.post c.post = s.postReleased c
        ∧ u.calls.queue = s.calls.queue ∧ u.calls.overflow = s.calls.overflow
        ∧ u.Reported (.call r) ∧ u.Reported (.position p)
        ∧ s.TouchesOnly u r p c.post (channelIndex (postSegment c.post) ch)

/-- LEAVE, or RELEASE, by one of two parties: its connection is removed with it, the other party is left alone and
primary, the call stays as it is, and no telegram goes to the post; LEAVE by the only party, or by a position that is
not ACTIVE, is refused BAD_STATE (R161). RELEASE by the only party ends its call CLEARED_BY_OPERATOR with a RELEASE pended
and the position in WRAPUP; in DIALLING it ends the callback so, with the position FREE; in any other state than ACTIVE and
DIALLING it is refused BAD_STATE (R140). -/
def Obligations.OneOfTwoPartiesLeaves : Prop :=
  ∀ (s : State) (w : Word) (p : Fin 16), s.inRun = true → s.Sound → positionArg w = some p →
    ((s.position p).state ≠ .active →
      exec (.leave w) s = .next (State.followUp { s with commandResult := some .badState }))
    ∧ ((s.position p).state ≠ .active → (s.position p).state ≠ .dialling →
      exec (.release w) s = .next (State.followUp { s with commandResult := some .badState }))
    ∧ (∀ n r c ch st, (s.position p).current = some n → s.liveCall n = some (r, c) → c.parties = [p] →
        s.HoldsChannel c ch st → s.othersOn p ⟨postSegment c.post, ch⟩ = 0 → (s.post c.post).side = .near →
        (s.post c.post).liveCall = some n →
        (s.position p).state = .active ∧ st ≠ .free ∧ (c.state = .connecting ∨ c.state = .active ∨ c.state = .retrieving)
            ∧ s.speech.connections.get p = some ⟨postSegment c.post, ch⟩
          ∨ (s.position p).state = .dialling ∧ st = .reserved ∧ c.state = .ringing ∧ s.speech.connections.get p = none →
      ∃ u : State, exec (.release w) s = .next u.followUp ∧ u.commandResult = some .done
        ∧ u.call r = some (c.endedBy .clearedByOperator)
        ∧ u.position p = (if c.state = .ringing then { (s.position p).idle .free with freeSince := s.time }
            else s.wrappedUp (s.position p))
        ∧ (c.state ≠ .ringing → u.Connected p none)
        ∧ u.channel (channelIndex (postSegment c.post) ch) = Channel.freed
        ∧ u.post c.post = s.postReleased c ∧ u.Reported (.call r) ∧ u.Reported (.position p)
        ∧ s.TouchesOnly u r p c.post (channelIndex (postSegment c.post) ch))
    ∧ ∀ n r c, (s.position p).state = .active → (s.position p).current = some n → s.liveCall n = some (r, c) →
      (c.parties.length ≠ 2 →
        exec (.leave w) s = .next (State.followUp { s with commandResult := some .badState }))
      ∧ ∀ q ch, (c.parties = [p, q] ∨ c.parties = [q, p]) → p ≠ q → c.channel = some ch →
          (s.speech.connections.get p).isSome = true →
        ∀ i ∈ [Instr.leave w, .release w],
          ∃ u : State, exec i s = .next u.followUp ∧ u.commandResult = some .done
            ∧ u.call r = some { c with parties := [q] }
            ∧ u.position p = s.wrappedUp (s.position p)
            ∧ u.Connected p none ∧ u.speech.channels = s.speech.channels
            ∧ u.Reported (.call r) ∧ u.Reported (.position p)
            ∧ u.posts = s.posts ∧ u.calls.queue = s.calls.queue ∧ u.calls.overflow = s.calls.overflow
            ∧ u.cluster = s.cluster
            ∧ s.TouchesOnly u r p c.post (channelIndex (postSegment c.post) ch)

/-- PICK: by the first row of its table, GONE, BUSY, BAD_STATE or NO_CHANNEL; or the QUEUED call takes the lowest FREE
channel of its segment and is CONNECTING with the position, whatever its declined-by set (R145). -/
def Obligations.PickTakesQueuedCall : Prop :=
  ∀ (s : State) (w v : Word) (p : Fin 16) (n : Nat), s.inRun = true → s.Sound → positionArg w = some p →
    callArg v = some n →
    (s.liveCall n = none → exec (.pick w v) s = .next (State.followUp { s with commandResult := some .gone }))
    ∧ ∀ r c, s.liveCall n = some (r, c) →
      ((s.position p).eligible = false →
        exec (.pick w v) s = .next (State.followUp { s with commandResult := some .busy }))
      ∧ ((s.position p).eligible = true → c.state ≠ .queued ∨ (s.post c.post).state ≠ .present
          ∨ (s.segment (postSegment c.post)).state ≠ .active →
        exec (.pick w v) s = .next (State.followUp { s with commandResult := some .badState }))
      ∧ ((s.position p).eligible = true → c.state = .queued → (s.post c.post).state = .present →
          (s.segment (postSegment c.post)).state = .active →
          (s.freeChannel (postSegment c.post) = none →
            exec (.pick w v) s = .next (State.followUp { s with commandResult := some .noChannel }))
          ∧ ∀ ch, s.freeChannel (postSegment c.post) = some ch → s.channelHeldBy n = none →
              s.speech.connections.get p = none → s.othersOn p ⟨postSegment c.post, ch⟩ = 0 →
            ∃ u : State, exec (.pick w v) s = .next u.followUp ∧ u.commandResult = some .done
              ∧ u.call r = some { c with state := .connecting, channel := some ch, parties := [p] }
              ∧ u.calls.queue = s.calls.queue.erase r
              ∧ u.calls.overflow = s.overflowAt (s.calls.queue.erase r).length
              ∧ u.Reported (.call r) ∧ u.Reported (.position p)
              ∧ u.position p = { (s.position p).idle .active with
                  current := some n, misses := 0, lastOffer := some { call := n, outcome := .accepted } }
              ∧ u.channel (channelIndex (postSegment c.post) ch)
                  = { state := .reserved, call := some n, corrupt := false }
              ∧ u.Connected p (some ⟨postSegment c.post, ch⟩)
              ∧ u.post c.post = s.postPended c.post (.connect ch) (some n) ∧ u.cluster = s.cluster
              ∧ s.TouchesOnly u r p c.post (channelIndex (postSegment c.post) ch))

/-- CALLBACK: by the first row of its table, BUSY, BAD_STATE, NO_CHANNEL or TABLE_FULL; or a RINGING callback with the
next call number takes the lowest free record and the lowest FREE channel, its position DIALLING, RING pended (R146). -/
def Obligations.CallbackRingsPost : Prop :=
  ∀ (s : State) (w a b : Word) (p : Fin 16) (i : Fin 256), s.inRun = true → s.Sound → positionArg w = some p →
    postArg a b = some i →
    let ready : Prop := (s.post i).state = .present ∧ (s.segment (postSegment i)).state = .active
      ∧ (s.post i).liveCall = none ∧ (s.post i).deferred = false
    ((s.position p).eligible = false →
      exec (.callback w a b) s = .next (State.followUp { s with commandResult := some .busy }))
    ∧ ((s.position p).eligible = true → ¬ ready →
      exec (.callback w a b) s = .next (State.followUp { s with commandResult := some .badState }))
    ∧ ((s.position p).eligible = true → ready → s.freeChannel (postSegment i) = none →
      exec (.callback w a b) s = .next (State.followUp { s with commandResult := some .noChannel }))
    ∧ ((s.position p).eligible = true → ready → (s.freeChannel (postSegment i)).isSome = true → s.freeCall = none →
      exec (.callback w a b) s = .next (State.followUp { s with commandResult := some .tableFull }))
    ∧ ∀ ch r n, (s.position p).eligible = true → ready → s.freeChannel (postSegment i) = some ch → s.freeCall = some r →
        n = s.nextCallNumber.1 → s.channelHeldBy n = none →
      ∃ u : State, exec (.callback w a b) s = .next u.followUp ∧ u.commandResult = some .done
        ∧ u.call r = some { Call.fresh n i .callback .ringing with
            arrivalTime := some s.time, far := (s.post i).side == .far, parties := [p], channel := some ch }
        ∧ u.calls.nextNumber = s.nextCallNumber.2
        ∧ u.position p = { (s.position p).idle .dialling with current := some n, ringTimer := some (s.after s.ringTicks) }
        ∧ u.channel (channelIndex (postSegment i) ch) = { state := .reserved, call := some n, corrupt := false }
        ∧ u.post i = { s.postPended i .ring (some n) with liveCall := some n }
        ∧ u.Reported (.call r) ∧ u.Reported (.position p)
        ∧ u.calls.queue = s.calls.queue ∧ u.calls.overflow = s.calls.overflow ∧ u.cluster = s.cluster
        ∧ s.TouchesOnly u r p i (channelIndex (postSegment i) ch)

/-! ### The speech switch -/

/-- HOLD: by its table BAD_STATE or BUSY; or the ACTIVE call is HELD by the position, its channel freed and its
connection removed, the position FREE now with the call on its held list, and PLAY HOLD pended (R157). -/
def Obligations.HoldFreesChannelAndPosition : Prop :=
  ∀ (s : State) (w : Word) (p : Fin 16), s.inRun = true → s.Sound → positionArg w = some p →
    ((s.position p).state ≠ .active →
      exec (.hold w) s = .next (State.followUp { s with commandResult := some .badState }))
    ∧ ∀ n r c, (s.position p).state = .active → (s.position p).current = some n → s.liveCall n = some (r, c) →
      (c.state ≠ .active ∨ c.parties.length = 2 →
        exec (.hold w) s = .next (State.followUp { s with commandResult := some .badState }))
      ∧ (c.state = .active → c.parties.length ≠ 2 → (s.position p).held.length = 2 →
        exec (.hold w) s = .next (State.followUp { s with commandResult := some .busy }))
      ∧ ∀ ch, c.state = .active → c.parties = [p] → (s.position p).held.length ≠ 2 → s.HoldsChannel c ch .inUse →
          s.othersOn p ⟨postSegment c.post, ch⟩ = 0 → s.speech.connections.get p = some ⟨postSegment c.post, ch⟩ →
          (s.post c.post).side = .near →
        ∃ u : State, exec (.hold w) s = .next u.followUp ∧ u.commandResult = some .done
          ∧ u.call r = some { c with state := .held, holder := some p, parties := [], channel := none }
          ∧ u.position p = { (s.position p).idle .free with
              freeSince := s.time, held := (s.position p).held ++ [n] }
          ∧ u.channel (channelIndex (postSegment c.post) ch) = Channel.freed ∧ u.Connected p none
          ∧ u.post c.post = s.postPended c.post (.play .hold) (some n)
          ∧ u.Reported (.call r) ∧ u.Reported (.position p)
          ∧ u.calls.queue = s.calls.queue ∧ u.calls.overflow = s.calls.overflow
          ∧ u.cluster = s.cluster ∧ u.dispatchDue = true
          ∧ s.TouchesOnly u r p c.post (channelIndex (postSegment c.post) ch)

/-- RETRIEVE: by the first row of its table, GONE, BAD_STATE, BUSY or NO_CHANNEL; or the HELD call is RETRIEVING with
its holder on the lowest FREE channel, connected, and CONNECT pended (R158). -/
def Obligations.RetrieveReconnectsHeldCall : Prop :=
  ∀ (s : State) (w v : Word) (p : Fin 16) (n : Nat), s.inRun = true → s.Sound → positionArg w = some p →
    callArg v = some n →
    (s.liveCall n = none → exec (.retrieve w v) s = .next (State.followUp { s with commandResult := some .gone }))
    ∧ ∀ r c, s.liveCall n = some (r, c) →
      (c.state ≠ .held ∨ c.holder ≠ some p →
        exec (.retrieve w v) s = .next (State.followUp { s with commandResult := some .badState }))
      ∧ (c.state = .held → c.holder = some p → (s.position p).state ≠ .free →
        exec (.retrieve w v) s = .next (State.followUp { s with commandResult := some .busy }))
      ∧ (c.state = .held → c.holder = some p → (s.position p).state = .free →
          (s.freeChannel (postSegment c.post) = none →
            exec (.retrieve w v) s = .next (State.followUp { s with commandResult := some .noChannel }))
          ∧ ∀ ch, s.freeChannel (postSegment c.post) = some ch → s.channelHeldBy n = none →
              s.speech.connections.get p = none → s.othersOn p ⟨postSegment c.post, ch⟩ = 0 →
            ∃ u : State, exec (.retrieve w v) s = .next u.followUp ∧ u.commandResult = some .done
              ∧ u.call r = some { c with state := .retrieving, parties := [p], holder := none, channel := some ch }
              ∧ u.position p = { (s.position p).idle .active with
                  current := some n, held := (s.position p).held.erase n }
              ∧ u.channel (channelIndex (postSegment c.post) ch)
                  = { state := .reserved, call := some n, corrupt := false }
              ∧ u.Connected p (some ⟨postSegment c.post, ch⟩)
              ∧ u.post c.post = s.postPended c.post (.connect ch) (some n)
              ∧ u.Reported (.call r) ∧ u.Reported (.position p)
              ∧ u.calls.queue = s.calls.queue ∧ u.calls.overflow = s.calls.overflow
              ∧ u.cluster = s.cluster
              ∧ s.TouchesOnly u r p c.post (channelIndex (postSegment c.post) ch))

/-- JOIN: by the first row of its table, GONE, BUSY or BAD_STATE; or the position is the second party of the ACTIVE call,
connected to its channel, and no telegram goes to the post (R160). -/
def Obligations.JoinAddsSecondParty : Prop :=
  ∀ (s : State) (w v : Word) (q : Fin 16) (n : Nat), s.inRun = true → s.Sound → positionArg w = some q →
    callArg v = some n →
    (s.liveCall n = none → exec (.join w v) s = .next (State.followUp { s with commandResult := some .gone }))
    ∧ ∀ r c, s.liveCall n = some (r, c) →
      ((s.position q).eligible = false →
        exec (.join w v) s = .next (State.followUp { s with commandResult := some .busy }))
      ∧ ((s.position q).eligible = true → c.state ≠ .active ∨ c.parties.length = 2 →
        exec (.join w v) s = .next (State.followUp { s with commandResult := some .badState }))
      ∧ ∀ p ch, (s.position q).eligible = true → c.state = .active → c.parties = [p] → s.HoldsChannel c ch .inUse →
          s.speech.connections.get q = none → s.othersOn q ⟨postSegment c.post, ch⟩ ≤ 1 →
        ∃ u : State, exec (.join w v) s = .next u.followUp ∧ u.commandResult = some .done
          ∧ u.call r = some { c with parties := [p, q] }
          ∧ u.position q = { (s.position q).idle .active with current := some n }
          ∧ u.Connected q (some ⟨postSegment c.post, ch⟩) ∧ u.speech.channels = s.speech.channels
          ∧ u.Reported (.call r) ∧ u.Reported (.position q)
          ∧ u.posts = s.posts ∧ u.calls.queue = s.calls.queue ∧ u.calls.overflow = s.calls.overflow
          ∧ u.cluster = s.cluster
          ∧ s.TouchesOnly u r q c.post (channelIndex (postSegment c.post) ch)

/-! ### Line sides -/

/-- A line side with no exchange in flight: OFF and HALTING send nothing. In SERVING a contention window follows a telegram
exchange; otherwise a restore probe asked for is sent, then the command at the head of the service list, which leaves the
pending list, then the poll that is most overdue, IDENTIFY to an UNKNOWN post; with nothing to send and no poll due a window
opens. In SWEEPING a command follows a sweep exchange and otherwise the next drop of the sweep is identified; in FINISHING
the commands of the service list alone are sent (R21, R31, R34, R35, R38, R39, R42). That a SERVING side so sends the RELEASE
that ISOLATE_POST pended to a post beyond a break is the model's choice (R38 over R58: log entry 41). -/
def Obligations.LineSideChoosesNextExchange : Prop :=
  ∀ (s : State) (l : LineId), (s.line l).exchange = none →
    let serves : Prop := (s.line l).state = .serving ∧ (s.line l).afterTelegram = false
    let sends (u : State) (purpose : Purpose) (d : Fin 32) (t : PartTelegram) : Prop :=
      exec (.chooseNextExchange l) s = .next u.followUp
      ∧ u.line l = { s.line l with
          probe := (u.line l).probe, exchange := some (Exchange.mk purpose d t false .sending), sent := some (t.frame d) }
      ∧ (∀ k, k ≠ l → u.line k = s.line k) ∧ u = { s with lines := u.lines }
    ((s.line l).state = .off ∨ (s.line l).state = .halting ∨ (s.line l).state = .finishing ∧ (s.line l).service = []
        ∨ (s.line l).state = .sweeping ∧ (s.line l).sweepList = []
          ∧ ((s.line l).afterSweep = false ∨ (s.line l).service = []) →
      exec (.chooseNextExchange l) s = .next s.followUp)
    ∧ ((s.line l).state = .serving →
        ((s.line l).afterTelegram = true
          ∨ s.probeAsked l = none ∧ (s.line l).service = [] ∧ ∀ k, s.lateness l k = none) →
      ∃ (u : State) (e : Exchange), exec (.chooseNextExchange l) s = .next u.followUp
        ∧ (u.line l).exchange = some e ∧ e.purpose = .window ∧ e.phase = .arbitrating
        ∧ u.line l = { s.line l with exchange := some e } ∧ (∀ k, k ≠ l → u.line k = s.line k)
        ∧ u = { s with lines := u.lines })
    ∧ (∀ d rest c tail,
        (serves ∧ s.probeAsked l = none ∨ (s.line l).state = .sweeping ∧ (s.line l).afterSweep = true
          ∨ (s.line l).state = .finishing) →
        (s.line l).service = d :: rest → (s.post (postIndex l.segment d)).commands = c :: tail →
        (s.post (postIndex l.segment d)).corrupt = false →
      ∃ u : State, exec (.chooseNextExchange l) s = .next u.followUp
        ∧ (u.line l).exchange = some (Exchange.mk (.command c) d (.command c.kind) false .sending)
        ∧ (u.line l).sent = some ((PartTelegram.command c.kind).frame d)
        ∧ u.post (postIndex l.segment d) = { s.post (postIndex l.segment d) with commands := tail }
        ∧ (∀ j, j ≠ postIndex l.segment d → u.post j = s.post j)
        ∧ u = { s with lines := u.lines, posts := u.posts, reports := u.reports })
    ∧ (∀ d, serves → s.probeAsked l = some d → ∃ u : State, sends u (.probe false) d .identify ∧ (u.line l).probe = none)
    ∧ (∀ d n, serves → s.probeAsked l = none → (s.line l).service = [] → s.lateness l d = some n →
        (∀ k m, s.lateness l k = some m → m < n ∨ m = n ∧ d.val ≤ k.val) →
      ∃ u : State, sends u .poll d (if (s.post (postIndex l.segment d)).state = .unknown then .identify else .poll)
        ∧ (u.line l).probe = (s.line l).probe)
    ∧ ∀ d rest, (s.line l).state = .sweeping → (s.line l).sweepList = d :: rest →
        (s.line l).afterSweep = false ∨ (s.line l).service = [] →
      ∃ u : State, sends u .sweep d .identify ∧ (u.line l).probe = (s.line l).probe

/-- The end of the part's telegram starts the reply time; the answer of a window ends it. The arbitration field names
the winner, 63 ends the window empty, and any other value is a telegram error that ends it (R24, R28, R29, R30). That a
window leaves the winner's last-exchange time as it was is the model's choice (log entry 62). -/
def Obligations.SentTelegramAndArbitrationStartReplyTime : Prop :=
  ∀ (s : State) (l : LineId) (e : Exchange), (s.line l).exchange = some e →
    let ended (t : State) : State := t.updateLine l (fun x => { x with
      exchange := none, afterTelegram := false, afterSweep := false })
    (e.phase = .sending → exec (.telegramSent l) s = .next (State.followUp (s.updateLine l (fun x =>
        { x with exchange := some { e with phase := .awaiting (s.after ((s.parameter 26 + 9) / 10)) } }))))
    ∧ (e.phase = .answering → e.purpose = .window → (s.line l).state = .serving →
        exec (.telegramSent l) s = .next (ended s).followUp)
    ∧ (e.phase = .arbitrating → e.purpose = .window → (s.line l).state = .serving →
        exec (.arbitrationField l 63) s = .next (ended s).followUp
        ∧ (∀ (n : BitVec 6) (d : Fin 32), n.toNat = d.val + 1 →
            exec (.arbitrationField l n) s = .next (State.followUp (s.updateLine l (fun x => { x with
              exchange := some { e with drop := d, phase := .awaiting (s.after ((s.parameter 26 + 9) / 10)) } }))))
        ∧ ∀ n : BitVec 6, n.toNat = 0 ∨ 33 ≤ n.toNat ∧ n.toNat ≤ 62 → (s.line l).errors + 1 < s.errorLimit →
            exec (.arbitrationField l n) s = .next (State.followUp (ended (s.updateLine l (fun x =>
              { x with errors := x.errors + 1 })))))

/-- A good STATUS to a poll ends the exchange and is taken into the post's record: PRESENT unless ISOLATED, also where it was
SILENT, miss count 0, its fields as reported; a first FAIL and a first supply low are recorded as faults, and a post that
becomes PRESENT asks for a dispatch run (R24, R27, R51, R54, R74, R132). A post of side FAR that is PRESENT below the far
limit lowers it (R83; one of side NEAR does not: the model's choice, log entry 54). On-hook ends the post's live call
ABANDONED, or CALLER_HUNG_UP once answered, with no RELEASE pended: it leaves the queue, its holder's list or the position
it is offered to, which is FREE with the outcome CALLER_GONE, or its channel is freed and its party wraps up; a RINGING
callback stays as it is (R100, R101, R138, R139). The reply comes before its reply time has run out (R25). -/
def Obligations.StatusUpdatesPolledPost : Prop :=
  ∀ (s : State) (l : LineId) (e : Exchange) (deadline : Time) (drop : Byte) (payload : List Byte) (check : Word)
    (hook : Hook) (request : Bool) (test : SelfTest) (low door : Bool) (i : Fin 256),
    (s.line l).exchange = some e → (s.line l).state = .serving → e.purpose = .poll → e.telegram = .poll →
    e.phase = .awaiting deadline → reached s.time deadline = false → i = postIndex l.segment e.drop →
    Frame.decode { drop := drop, kind := 0x42, payload := payload, check := check }
      = some (e.drop, .status hook request test low door) →
    (s.post i).corrupt = false →
    let recorded (p : Prop) [Decidable p] (kind : FaultKind) (old : Option FaultRecord) : Option FaultRecord :=
      if p then some (FaultRecord.next old kind (e.drop.val + 1) 0 s.time) else old
    let taken : Post := { s.post i with
      state := if (s.post i).state = .isolated then .isolated else .present
      misses := 0, hook := hook, requestPending := request, selfTest := test, supplyLow := low, doorOpen := door }
    let hears (u : State) : Prop := exec (.status l drop payload check) s = .next u.followUp
      ∧ (u.line l).exchange = none ∧ (u.line l).errors = 0 ∧ (u.line l).afterTelegram = true
      ∧ u.reports.slots.get (segmentSlot l.segment) = recorded (low = true ∧ (s.post i).supplyLow = false) .supplyLow
          (recorded (test = .fail ∧ (s.post i).selfTest ≠ .fail) .selfTestFail (s.reports.slots.get (segmentSlot l.segment)))
      ∧ (∀ k, k ≠ segmentSlot l.segment → u.reports.slots.get k = s.reports.slots.get k)
      ∧ ∀ j, j ≠ i → u.post j = s.post j
    ((s.post i).liveCall = none ∧ (hook = .off ∨ (s.post i).deferred = false)
        ∨ (∃ r c, (s.post i).liveCall = some c.number ∧ s.liveCall c.number = some (r, c) ∧ c.corrupt = false
          ∧ (hook = .on ∧ c.state = .ringing ∨ hook = .off ∧ c.state ≠ .ringing)) →
      ∃ u : State, hears u ∧ u.post i = taken ∧ s.FarLimitFollows u l e.drop
        ∧ u.dispatchDue = (s.dispatchDue || decide ((s.post i).state ≠ .present ∧ (s.post i).state ≠ .isolated))
        ∧ u = { s with
            posts := u.posts, lines := u.lines, segments := u.segments, reports := u.reports, dispatchDue := u.dispatchDue })
    ∧ ∀ r c, s.Sound → hook = .on → (s.post i).liveCall = some c.number → s.liveCall c.number = some (r, c) → c.post = i →
        (s.post i).side = .near →
      let ended : Call := c.endedBy (if c.answered = true then .callerHungUp else .abandoned)
      (c.state = .queued ∨ c.state = .held → c.channel = none →
        ∃ u : State, hears u ∧ u.call r = some ended ∧ u.post i = { taken with liveCall := none } ∧ u.Reported (.call r)
          ∧ u.calls.queue = (if c.state = .queued then s.calls.queue.erase r else s.calls.queue)
          ∧ u.calls.overflow = (if c.state = .queued then s.overflowAt (s.calls.queue.erase r).length
              else s.calls.overflow)
          ∧ (∀ q, u.position q = if c.state = .held ∧ c.holder = some q then
              { s.position q with held := (s.position q).held.erase c.number } else s.position q)
          ∧ (∀ q, q ≠ r → u.call q = s.call q) ∧ u.calls.deferrals = s.calls.deferrals
          ∧ u.mem = s.mem ∧ u.time = s.time ∧ u.speech = s.speech ∧ u.segments = s.segments)
      ∧ (∀ p ch st, c.state = .connecting ∨ c.state = .active ∨ c.state = .retrieving → c.parties = [p] →
          s.HoldsChannel c ch st → st ≠ .free → s.othersOn p ⟨l.segment, ch⟩ = 0 →
          s.speech.connections.get p = some ⟨l.segment, ch⟩ →
        ∃ u : State, hears u ∧ u.call r = some ended ∧ u.post i = { taken with liveCall := none }
          ∧ u.position p = s.wrappedUp (s.position p) ∧ u.Connected p none
          ∧ u.channel (channelIndex l.segment ch) = Channel.freed ∧ u.Reported (.call r) ∧ u.Reported (.position p)
          ∧ u.calls.queue = s.calls.queue ∧ u.calls.overflow = s.calls.overflow
          ∧ s.TouchesOnly u r p i (channelIndex l.segment ch))
      ∧ ∀ p ch, c.state = .offered → c.parties = [p] → s.HoldsChannel c ch .reserved →
          s.othersOn p ⟨l.segment, ch⟩ = 0 →
        ∃ u : State, hears u ∧ u.call r = some ended ∧ u.post i = { taken with liveCall := none }
          ∧ u.position p = { (s.position p).idle .free with
              freeSince := s.time, lastOffer := some { call := c.number, outcome := .callerGone } }
          ∧ u.channel (channelIndex l.segment ch) = Channel.freed ∧ u.Reported (.call r) ∧ u.Reported (.position p)
          ∧ u.calls.queue = s.calls.queue ∧ u.calls.overflow = s.calls.overflow
          ∧ s.TouchesOnly u r p i (channelIndex l.segment ch)

/-- A good IDENT to a poll that shows no call in progress makes an UNKNOWN or PRESENT post PRESENT with the identity it
reports, judged against its directory entry (also where its drop lies above the configured count: log entry 42); a
MISMATCH that is new, or of another identity, is recorded (R51, R53). A post of side FAR below the far limit lowers it
(R83; one of side NEAR does not: the model's choice, log entry 54). The reply comes before its reply time has run out (R25). -/
def Obligations.IdentIdentifiesPolledPost : Prop :=
  ∀ (s : State) (l : LineId) (e : Exchange) (deadline : Time) (drop : Byte) (payload : List Byte) (check : Word)
    (x : Identity) (i : Fin 256),
    (s.line l).exchange = some e → (s.line l).state = .serving → e.purpose = .poll → e.telegram = .identify →
    e.phase = .awaiting deadline → reached s.time deadline = false → i = postIndex l.segment e.drop →
    Frame.decode { drop := drop, kind := 0x41, payload := payload, check := check }
      = some (e.drop, .ident x .idle false) →
    (s.post i).corrupt = false → (s.post i).liveCall = none → (s.post i).deferred = false →
    (s.post i).state = .unknown ∨ (s.post i).state = .present →
    ∃ (u : State) (m : IdentityMatch), exec (.ident l drop payload check) s = .next u.followUp
      ∧ m = (if (s.entry i).valid = true ∧ entryConfigured (s.entry i).words = true then
          (if x = entryIdentity (s.entry i).words then .same else .differs) else .unread)
      ∧ u.post i = { s.post i with
          state := .present, misses := 0, hook := .on, identity := some x, identityMatch := m }
      ∧ (u.line l).exchange = none ∧ (u.line l).errors = 0
      ∧ u.reports.slots = (if m = .differs ∧ ((s.post i).identityMatch ≠ .differs ∨ (s.post i).identity ≠ some x) then
          put s.reports.slots (segmentSlot l.segment) (some (FaultRecord.next
            (s.reports.slots.get (segmentSlot l.segment)) .wrongIdentity (e.drop.val + 1) (x.setWidth 32) s.time))
          else s.reports.slots)
      ∧ (∀ j, j ≠ i → u.post j = s.post j) ∧ s.FarLimitFollows u l e.drop
      ∧ u = { s with
          posts := u.posts, lines := u.lines, segments := u.segments, reports := u.reports, dispatchDue := u.dispatchDue }

/-- A DONE to a CONNECT showing off-hook makes its call ACTIVE and answered, and its channel IN_USE (R102, R152). A
post of side FAR that the FAR side hears below the far limit lowers it (R83; one of side NEAR does not: the model's choice,
log entry 54). The reply comes before its reply time has run out (R25). -/
def Obligations.DoneToConnectMakesCallActive : Prop :=
  ∀ (s : State) (l : LineId) (e : Exchange) (deadline : Time) (drop : Byte) (payload : List Byte) (check : Word)
    (n : Nat) (ch : Fin 4) (r : Fin 64) (c : Call) (request : Option (RequestType × Identity)), s.Sound →
    (s.line l).exchange = some e → (s.line l).state = .serving →
    e.purpose = .command { kind := .connect ch, call := some n } → e.telegram = .command (.connect ch) →
    e.phase = .awaiting deadline → reached s.time deadline = false → c.post = postIndex l.segment e.drop →
    Frame.decode { drop := drop, kind := 0x43, payload := payload, check := check } = some (e.drop, .done .off request) →
    (s.post c.post).state = .present → (s.post c.post).liveCall = some n → s.liveCall n = some (r, c) →
    c.state = .connecting ∨ c.state = .retrieving → s.HoldsChannel c ch .reserved →
    ∃ u : State, exec (.done l drop payload check) s = .next u.followUp
      ∧ u.call r = some { c with state := .active, answered := true }
      ∧ u.channel (channelIndex (postSegment c.post) ch) = { state := .inUse, call := some n, corrupt := false }
      ∧ u.post c.post = { s.post c.post with misses := 0, hook := .off }
      ∧ (u.line l).exchange = none ∧ (u.line l).errors = 0
      ∧ (∀ q, q ≠ r → u.call q = s.call q) ∧ (∀ j, j ≠ c.post → u.post j = s.post j)
      ∧ u.positions = s.positions ∧ u.speech.connections = s.speech.connections ∧ u.calls.queue = s.calls.queue
      ∧ u.mem = s.mem ∧ u.time = s.time ∧ s.FarLimitFollows u l e.drop

/-- An accepted REQUEST, heard before the reply time has run out, registers a call in the lowest free record: the next
call number and arrival sequence, QUEUED, the post's live call, answered REGISTERED (R29, R92, R93). A drop that is not
configured gives no snapshot and no incident; above the configured count its identity is still judged by its entry (log
entry 42). A configured drop gives the snapshot of its entry, CONFIRMED on a match (R64). On carriageway A or B the call
founds an incident where none matches and a record is free, joins the one that matches, or joins the earliest of two,
which absorbs the other (R114 to R120). A post of side FAR that the FAR side hears below the far limit lowers it (R83; one of
side NEAR does not: the model's choice, log entry 54). -/
def Obligations.RequestRegistersCall : Prop :=
  ∀ (s : State) (l : LineId) (e : Exchange) (deadline : Time) (drop : Byte) (payload : List Byte) (check : Word)
    (type : RequestType) (x : Identity) (i : Fin 256) (r : Fin 64) (n : Nat), s.inRun = true → s.Sound →
    (s.line l).exchange = some e → (s.line l).state = .serving → e.purpose = .window → e.phase = .awaiting deadline →
    reached s.time deadline = false → i = postIndex l.segment e.drop → l.side = (s.post i).side →
    Frame.decode { drop := drop, kind := 0x44, payload := payload, check := check } = some (e.drop, .request type x) →
    (s.post i).state = .present → (s.post i).liveCall = none → (s.post i).deferred = false →
    s.reservedFor i = none → (s.calls.overflow = false ∨ type = .emergency) →
    s.freeCall = some r → n = s.nextCallNumber.1 →
    let registers (u : State) (snapshot : Option Snapshot) (incident : Option Nat) : Prop :=
      exec (.request l drop payload check) s = .next u.followUp ∧ s.Registered u l e i r n type x snapshot incident
    let others (u : State) : Prop := ∀ q, q ≠ r → u.call q = s.call q
    let lead : Lead := { call := n, sequence := s.calls.nextSequence }
    (s.configured i = false → ∃ u : State, registers u none none ∧ others u ∧ u.cluster = s.cluster)
    ∧ ∀ (w : Vector Word 8) (way : Carriageway) (at_ : Nat) (shown : Snapshot), s.configured i = true →
      w = (s.entry i).words → entryCarriageway w = some way → at_ = entryChainage w →
      shown = { carriageway := way, chainage := at_, kind := entryKind w, critical := entryCritical w,
                confirmed := decide (x = entryIdentity w) } →
      (way = .x → ∃ u : State, registers u (some shown) none ∧ others u ∧ u.cluster = s.cluster)
      ∧ (way ≠ .x → (∀ j z, s.incident j = some z → s.incidentMatches way at_ z = false) →
        (s.freeIncident = none → ∃ u : State, registers u (some shown) none ∧ others u ∧ u.cluster = s.cluster)
        ∧ ∀ k, s.freeIncident = some k →
          ∃ u : State, registers u (some shown) (some s.nextIncidentNumber.1) ∧ others u
            ∧ u.incident k = some
                { number := s.nextIncidentNumber.1, state := .opened, carriageway := way, lo := at_, hi := at_, sum := at_,
                  count := 1, live := 1, lastCall := s.time, lead := some lead, leadAnswered := false,
                  creation := s.cluster.nextCreation, estimate := at_, marker := markerOf at_,
                  windowTimer := some (s.after (s.parameter 47 * 100)), quietCause := none, closeCause := none,
                  corrupt := false }
            ∧ u.Reported (.incident k) ∧ (∀ j, j ≠ k → u.incident j = s.incident j)
            ∧ u.cluster = { records := u.cluster.records, nextNumber := s.nextIncidentNumber.2,
                            nextCreation := s.cluster.nextCreation + 1 })
      ∧ (∀ k y, way ≠ .x → s.incident k = some y → s.incidentMatches way at_ y = true →
          (∀ j z, j ≠ k → s.incident j = some z → s.incidentMatches way at_ z = false) →
        ∃ u : State, registers u (some shown) (some y.number) ∧ others u
          ∧ u.incident k = some (s.joined y at_ lead) ∧ u.Reported (.incident k)
          ∧ u.cluster = { s.cluster with records := put s.cluster.records k (u.incident k) })
      ∧ ∀ k j y z a b, way ≠ .x → j ≠ k → s.incident k = some y → s.incident j = some z → y.number ≠ z.number →
          s.incidentMatches way at_ y = true → s.incidentMatches way at_ z = true →
          (∀ m v, m ≠ k → m ≠ j → s.incident m = some v → s.incidentMatches way at_ v = false) →
          earlier y.creation z.creation = true → earlier z.creation y.creation = false →
          y.lead = some a → z.lead = some b →
        ∃ u : State, registers u (some shown) (some y.number)
          ∧ u.incident k = some (s.joined { y.absorb z with
              leadAnswered := y.leadAnswered || z.leadAnswered
              lead := if (if y.leadAnswered = z.leadAnswered then earlier b.sequence a.sequence else z.leadAnswered) = true
                then some b else some a } at_ lead)
          ∧ u.incident j = some { z with
              state := .closed, closeCause := some (.mergedInto y.number), windowTimer := none, lead := none, live := 0 }
          ∧ (∀ q c, q ≠ r → s.call q = some c → u.call q = some (if c.incident = some z.number ∧ c.state ≠ .ended then
                { c with incident := some y.number } else c))
          ∧ u.Reported (.incident k) ∧ u.Reported (.incident j)
          ∧ u.cluster = { s.cluster with records := put (put s.cluster.records k (u.incident k)) j (u.incident j) }

/-- A reply that fails its check, that another drop gives or that is of another kind is a telegram error; silence is
none. After any of them the same telegram is sent to the same drop once more, and a wrong responder is recorded. A
second silence ends the exchange in a miss: the post's miss count rises, a missed RELEASE goes back to the head of its
pending list, and at the miss limit the post is SILENT with POST_SILENT recorded. A telegram that fails its check
outside any reply time is a telegram error and nothing else (R24 to R27, R40, R41, R52, R74). Replies come before the
reply time has run out; when a timer is due is the model's choice (log entry 9), and so is that a 1-byte off-hook DONE of
another drop is a wrong responder where an INVITE awaits its reply (log entry 65). -/
def Obligations.UnusableReplyIsCountedAndTelegramRepeated : Prop :=
  ∀ (s : State) (l : LineId) (bytes : List Byte), (s.line l).state = .serving → (s.line l).errors + 1 < s.errorLimit →
    (∀ e deadline, (s.line l).exchange = some e → e.purpose ≠ .window → e.phase = .awaiting deadline → e.retry = false →
      let again (t : State) : State := t.updateLine l (fun x => { x with
        exchange := some { e with retry := true, phase := .sending }, sent := some (e.telegram.frame e.drop) })
      let counted (t : State) : State := t.updateLine l (fun x => { x with errors := x.errors + 1 })
      (reached s.time deadline = false →
        (decodeBytes bytes = none →
          exec (.checkFailure l bytes) s = .next (again (counted s)).followUp)
        ∧ (∀ d t, decodeBytes bytes = some (d, t) → d ≠ e.drop →
          exec (.wrongResponder l bytes) s = .next (again ((counted s).recordFault (segmentSlot l.segment) .wrongResponder
            (e.drop.val + 1) (BitVec.ofNat 32 ((e.drop.val + 1) * 256 + (d.val + 1))))).followUp)
        ∧ ∀ drop payload check t,
          (e.telegram ≠ .identify → Frame.decode ⟨drop, 0x41, payload, check⟩ = some (e.drop, t) →
            exec (.ident l drop payload check) s = .next (again (counted s)).followUp)
          ∧ (e.telegram ≠ .poll → Frame.decode ⟨drop, 0x42, payload, check⟩ = some (e.drop, t) →
            exec (.status l drop payload check) s = .next (again (counted s)).followUp)
          ∧ ((∀ c, e.telegram ≠ .command c) → Frame.decode ⟨drop, 0x43, payload, check⟩ = some (e.drop, t) →
            exec (.done l drop payload check) s = .next (again (counted s)).followUp)
          ∧ (Frame.decode ⟨drop, 0x44, payload, check⟩ = some (e.drop, t) →
            exec (.request l drop payload check) s = .next (again (counted s)).followUp))
      ∧ (reached s.time deadline = true → exec (.replyTimeExpiry l) s = .next (again s).followUp))
    ∧ (∀ e deadline i c, (s.line l).exchange = some e → e.phase = .awaiting deadline → e.retry = true →
        reached s.time deadline = true → i = postIndex l.segment e.drop → (s.post i).corrupt = false →
        (s.post i).state = .unknown ∨ (s.post i).state = .present →
        e.purpose = .poll ∨ e.purpose = .command c ∧ c.kind = .release →
        let kept : List PendingCommand :=
          if e.purpose = .poll then (s.post i).commands
          else match (s.post i).commands with
            | [] => [c]
            | h :: tail => if h.kind = .release then h :: tail else c :: h :: tail
        ((s.post i).misses + 1 < s.postMissLimit → s.postMissLimit ≤ 15 →
          ∃ u : State, exec (.replyTimeExpiry l) s = .next u.followUp
            ∧ u.post i = { s.post i with misses := (s.post i).misses + 1, commands := kept }
            ∧ (u.line l).exchange = none ∧ (u.line l).afterTelegram = true ∧ (u.line l).errors = (s.line l).errors
            ∧ (∀ j, j ≠ i → u.post j = s.post j)
            ∧ u = { s with posts := u.posts, lines := u.lines, reports := u.reports })
        ∧ ((s.post i).misses + 1 = s.postMissLimit → s.postMissLimit ≤ 15 → (s.post i).liveCall = none →
            (s.post i).deferred = false → s.silentMode = .probe → s.breakMode = .off → s.broken l.segment = none →
          ∃ u : State, exec (.replyTimeExpiry l) s = .next u.followUp
            ∧ u.post i = { s.post i with
                state := .silent, misses := (s.post i).misses + 1, commands := []
                testCancelled := (s.post i).testCancelled || kept.any PendingCommand.isTest }
            ∧ (u.line l).exchange = none
            ∧ u.reports.slots = put s.reports.slots (segmentSlot l.segment) (some (FaultRecord.next
                (s.reports.slots.get (segmentSlot l.segment)) .postSilent (e.drop.val + 1) 0 s.time))
            ∧ (∀ j, j ≠ i → u.post j = s.post j)
            ∧ u = { s with posts := u.posts, lines := u.lines, reports := u.reports }))
    ∧ ((s.line l).exchange = none →
      exec (.strayTelegram l bytes) s = .next (State.followUp
        (if decodeBytes bytes = none then s.updateLine l (fun x => { x with errors := x.errors + 1 }) else s)))

/-- The line monitor of an end whose feed is on: an over-current starts the deglitch, its end before the deglitch time
forgets it, and its lasting makes the end SHORT (R46). A serving segment then answers by the mode of LINE_SHORT: OFF
does nothing, REPORT records the fault, and so do LATCH and RETRY outside RUN; in RUN, LATCH takes the segment out of
service into LATCHED, and RETRY into INHIBITED with one retry more and a retry timer, or into LATCHED at the retry limit
(R69, R70, R71, R73, R89). That a lost deferred post without a reservation keeps its place on the deferral list is the model's
choice (R76 against R109: log entry 26), and so is when a timer is due (log entry 9). -/
def Obligations.OverCurrentIsDeglitchedThenReported : Prop :=
  ∀ (s : State) (l : LineId),
    (s.feedOn l = true → (s.segmentEnd l).state = .clear →
      exec (.overCurrentAssert l) s = .next (State.followUp (s.updateEnd l (fun _ =>
        { state := .awaiting, deglitch := some (s.after ((s.parameter 30 + 9) / 10)), overCurrent := true }))))
    ∧ (s.feedOn l = false ∨ (s.segmentEnd l).state ≠ .clear →
      exec (.overCurrentAssert l) s = .next (State.followUp (s.updateEnd l (fun e => { e with overCurrent := true }))))
    ∧ exec (.overCurrentClear l) s = .next (State.followUp (s.updateEnd l (fun _ =>
        { state := .clear, deglitch := none, overCurrent := false })))
    ∧ ((s.segmentEnd l).state = .awaiting → timerDue s.time (s.segmentEnd l).deglitch = true →
      (s.parameter 32 = 3 ∨ (s.segment l.segment).serving = false →
        exec (.deglitchTimerExpiry l) s = .next (State.followUp (s.updateEnd l (fun e =>
          { e with state := .short, deglitch := none }))))
      ∧ ((s.segment l.segment).serving = true → s.parameter 32 = 2 ∨ s.inRun = false ∧ s.parameter 32 ≠ 3 →
        ∃ u : State, exec (.deglitchTimerExpiry l) s = .next u.followUp
          ∧ u.segmentEnd l = { s.segmentEnd l with state := .short, deglitch := none }
          ∧ s.RecordsFault u l.segment .lineShort (if l.side = .far then 1 else 0)
          ∧ (∀ k, k ≠ l → u.segmentEnd k = s.segmentEnd k)
          ∧ u = { s with ends := u.ends, reports := u.reports })
      ∧ ∀ x : Segment, (s.segment l.segment).serving = true → s.inRun = true → s.Sound →
        (∀ d, s.KeepsPlace (postIndex l.segment d)) →
        (s.parameter 32 = 0 ∧ x = { Segment.reset with state := .latched, retryCount := (s.segment l.segment).retryCount }
          ∨ s.parameter 32 = 1 ∧ x = (if 1 ≤ s.parameter 38 ∧ s.parameter 38 ≤ (s.segment l.segment).retryCount then
              { Segment.reset with state := .latched, retryCount := (s.segment l.segment).retryCount }
            else { Segment.reset with
              state := .inhibited, retryTimer := some (s.after (s.parameter 36 * 100))
              retryCount := if (s.segment l.segment).retryCount < 255 then (s.segment l.segment).retryCount + 1 else 255 })) →
        ∃ u : State, exec (.deglitchTimerExpiry l) s = .next u.followUp
          ∧ s.OutOfService u l.segment x ∧ s.RecordsFault u l.segment .lineShort (if l.side = .far then 1 else 0)
          ∧ (∀ d, u.post (postIndex l.segment d) = (s.post (postIndex l.segment d)).lost)
          ∧ u = { s with segments := u.segments, lines := u.lines, ends := u.ends, posts := u.posts, reports := u.reports })

/-! ### Reports -/

/-- The report writer serves the first entry, with room in the queue: the words of its board entry, then the event
record at the next ring entry and the new producer index, then, where the entry holds a fault mark, the record of its
slot and a new producer index, are queued in that order, and an entry with no mark left leaves the list (R165, R166,
R168). A slot whose record has been queued is empty; the record of an ENDED call or a CLOSED incident is freed, and its
board words are queued as 0 (R166, R167). A slot that empties lists the engine with its board mark, also where the entry served
is the engine's own: the statement follows R164 over the example of chapter 9 (log entry 32). No fault of an earlier service
waits (log entry 51), and no post waits for a record come free. -/
def Obligations.ServedEntryQueuesBoardThenEvent : Prop :=
  ∀ (s : State) (w : WindowSet) (e : ReportEntry) (rest : List ReportEntry) (board event : List QueueEntry) (count : Word),
    s.writerWorks = true → s.reports.steps = [] → s.path.windows = some w → s.startFault = none →
    s.reports.list = e :: rest → ReportsWf s.reports.list → (e.event = true → s.ringSpace = true) →
    board = (if e.board then s.boardWords w.boardBase e.object else []) →
    event = (if e.event then wordsAt (w.eventBase + 16 * (s.reports.producer.toNat % w.eventCount))
          (s.eventRecord e.object e.coalesced e.time)
        ++ [{ address := Config.anchorAddress 16, value := s.reports.producer + 1 }] else []) →
    count = (if e.event then s.reports.producer + 1 else s.reports.producer) →
    (e.board = true ∨ e.event = true → e.fault = false → s.freedByServing e.object = false →
        s.path.queue.length + board.length + event.length ≤ 32 →
      ∃ u : State, exec .serveReportEntry s = .next u.followUp ∧ u.reports.list = rest
        ∧ u.path.queue = (board ++ event).foldl enqueue s.path.queue
        ∧ u = { s with
            path := { s.path with queue := u.path.queue }
            reports := { s.reports with list := u.reports.list, producer := count } })
    ∧ (∀ k f fault, e.fault = true → e.object.slot = some k → s.reports.slots.get k = some f →
        s.ringSpace = true → (count - s.reports.consumer).toNat < w.eventCount →
        fault = wordsAt (w.eventBase + 16 * (count.toNat % w.eventCount)) (faultEvent k f)
          ++ [{ address := Config.anchorAddress 16, value := count + 1 }] →
        s.path.queue.length + board.length + event.length + fault.length ≤ 32 →
      ∃ u : State, exec .serveReportEntry s = .next u.followUp
        ∧ u.path.queue = (board ++ event ++ fault).foldl enqueue s.path.queue
        ∧ u.reports.slots = put s.reports.slots k none
        ∧ (e.object ≠ .engine → u.reports.list = markObject rest .engine true false false s.time)
        ∧ (e.object = .engine → u.reports.list = { e with
              board := true, event := false, fault := false
              coalesced := if e.event then 0 else e.coalesced } :: rest)
        ∧ u = { s with
            path := { s.path with queue := u.path.queue }
            reports := { s.reports with list := u.reports.list, slots := u.reports.slots, producer := count + 1 } })
    ∧ (∀ freed, e.board = true ∨ e.event = true → e.fault = false → s.freedByServing e.object = true → s.Sound →
        s.calls.deferrals = [] → freed = (s.boardWords w.boardBase e.object).map (fun x => { x with value := 0 }) →
        s.path.queue.length + freed.length + event.length ≤ 32 →
      ∃ u : State, exec .serveReportEntry s = .next u.followUp
        ∧ u.path.queue = (board ++ event ++ freed).foldl enqueue s.path.queue
        ∧ u.reports.list = markObject rest .engine true false false s.time
        ∧ (∀ r, u.call r = if e.object = .call r then none else s.call r)
        ∧ (∀ k, u.incident k = if e.object = .incident k then none else s.incident k)
        ∧ u = { s with
            path := { s.path with queue := u.path.queue }
            calls := { s.calls with records := u.calls.records }
            cluster := { s.cluster with records := u.cluster.records }
            reports := { s.reports with list := u.reports.list, producer := count } })
end

