-- ==== Sys2Proof/Laws/Basics.lean ====
section
/-! SUPPORT. Tables with one record replaced, how an operation of an event runs, and the form of an operation that keeps
a relation between the state before and the state after. -/

namespace Sys2Proof

/-! ### Tables -/

@[simp] theorem put_get_self {α : Type} {n : Nat} (v : Vector α n) (i : Fin n) (x : α) : (put v i x).get i = x := by
  simp only [put, Vector.get_eq_getElem, Vector.getElem_set_self]

@[simp] theorem put_get_ne {α : Type} {n : Nat} (v : Vector α n) (i j : Fin n) (x : α) (h : j ≠ i) :
    (put v i x).get j = v.get j := by
  have : i.val ≠ j.val := fun e => h (Fin.ext e.symm)
  simp only [put, Vector.get_eq_getElem, Vector.getElem_set_ne _ _ this]

theorem put_get {α : Type} {n : Nat} (v : Vector α n) (i j : Fin n) (x : α) :
    (put v i x).get j = if j = i then x else v.get j := by
  by_cases h : j = i
  · subst h; simp
  · simp [h]

@[simp] theorem put_same {α : Type} {n : Nat} (v : Vector α n) (i : Fin n) : put v i (v.get i) = v := by
  simp only [put, Vector.get_eq_getElem, Vector.set_getElem_self]

@[simp] theorem put_put {α : Type} {n : Nat} (v : Vector α n) (i : Fin n) (x y : α) : put (put v i x) i y = put v i y := by
  simp [put]

namespace Machine

/-! ### How an operation runs -/

@[simp] theorem Op.pure_apply {α : Type} (a : α) (s : State) : (pure a : Op α) s = .ok a s := rfl

@[simp] theorem Op.bind_apply {α β : Type} (x : Op α) (f : α → Op β) (s : State) :
    (x >>= f) s = match x s with | .ok a t => f a t | .error e t => .error e t := by
  cases h : x s <;> simp [bind, EStateM.bind, h]

@[simp] theorem Op.get_apply (s : State) : (get : Op State) s = .ok s s := rfl

@[simp] theorem Op.set_apply (t s : State) : (set t : Op PUnit) s = .ok ⟨⟩ t := rfl

@[simp] theorem Op.modify_apply (f : State → State) (s : State) : (modify f : Op PUnit) s = .ok ⟨⟩ (f s) := rfl

@[simp] theorem Op.throw_apply {α : Type} (e : ClassB) (s : State) : (throw e : Op α) s = .error e s := rfl

@[simp] theorem Op.ite_apply {α : Type} (p : Prop) [Decidable p] (x y : Op α) (s : State) :
    (if p then x else y) s = if p then x s else y s := by split <;> rfl

/-- The state that an operation leaves, whether it answers or is cut short. -/
def Op.leaves {α : Type} (op : Op α) (s : State) : State :=
  match op s with | .ok _ t => t | .error _ t => t

/-- Whatever an operation does, the relation holds between the state before and the state it leaves. -/
def Op.Keeps {α : Type} (R : State → State → Prop) (op : Op α) : Prop := ∀ s, R s (op.leaves s)

section Keeps

variable {α β : Type} {R : State → State → Prop}

theorem Op.keeps_pure (hr : ∀ s, R s s) (a : α) : (pure a : Op α).Keeps R := fun s => hr s

theorem Op.keeps_get (hr : ∀ s, R s s) : (get : Op State).Keeps R := fun s => hr s

theorem Op.keeps_throw (hr : ∀ s, R s s) (e : ClassB) : (throw e : Op α).Keeps R := fun s => hr s

theorem Op.keeps_modify (f : State → State) (h : ∀ s, R s (f s)) : (modify f : Op PUnit).Keeps R := fun s => h s

theorem Op.keeps_bind (ht : ∀ a b c, R a b → R b c → R a c) (x : Op α) (f : α → Op β) (hx : x.Keeps R)
    (hf : ∀ a, (f a).Keeps R) : (x >>= f).Keeps R := by
  intro s
  have h1 := hx s
  unfold Op.leaves at h1 ⊢
  rw [Op.bind_apply]
  cases hs : x s with
  | ok a t =>
    rw [hs] at h1
    exact ht _ _ _ h1 (hf a t)
  | error e t =>
    rw [hs] at h1
    exact h1

/-- A read of the state followed by an operation: the operation need only keep the relation from that state. -/
theorem Op.keeps_get_bind (f : State → Op β) (h : ∀ s, R s ((f s).leaves s)) : (get >>= f : Op β).Keeps R := h

theorem Op.keeps_ite (p : Prop) [Decidable p] (x y : Op α) (hx : x.Keeps R) (hy : y.Keeps R) :
    (if p then x else y).Keeps R := by split <;> assumption

theorem Op.keeps_forM (hr : ∀ s, R s s) (ht : ∀ a b c, R a b → R b c → R a c) (f : α → Op PUnit) (h : ∀ a, (f a).Keeps R) :
    ∀ l : List α, (l.forM f).Keeps R
  | [] => Op.keeps_pure hr _
  | a :: l => Op.keeps_bind ht (f a) (fun _ => l.forM f) (h a) (fun _ => Op.keeps_forM hr ht f h l)

theorem Op.keeps_foldlM (hr : ∀ s, R s s) (ht : ∀ a b c, R a b → R b c → R a c) (f : β → α → Op β)
    (h : ∀ b a, (f b a).Keeps R) : ∀ (l : List α) (b : β), (l.foldlM f b).Keeps R
  | [], b => Op.keeps_pure hr b
  | a :: l, b => by
    rw [List.foldlM_cons]
    exact Op.keeps_bind ht _ _ (h b a) (fun b' => Op.keeps_foldlM hr ht f h l b')

/-- A fold of updates keeps a relation that each of them keeps. -/
theorem keeps_foldl (hr : ∀ s, R s s) (ht : ∀ a b c, R a b → R b c → R a c) (f : State → α → State)
    (h : ∀ s a, R s (f s a)) : ∀ (l : List α) (s : State), R s (l.foldl f s)
  | [], s => hr s
  | a :: l, s => ht _ _ _ (h s a) (keeps_foldl hr ht f h l (f s a))

/-- An operation that keeps a relation, carried out as an event's own effects: a fault is handed to engine control. -/
theorem settle_keeps (ht : ∀ a b c, R a b → R b c → R a c) (op : Op Unit) (h : op.Keeps R)
    (hf : ∀ s f, R s (s.classB f)) (s : State) : R s (s.settle op) := by
  have h1 := h s
  unfold Op.leaves at h1
  unfold State.settle
  cases hs : op s with
  | ok a t => rw [hs] at h1; exact h1
  | error e t => rw [hs] at h1; exact ht _ _ _ h1 (hf t e)

end Keeps

/-! ### Records read to be acted on -/

@[simp] theorem readPost_ok (s : State) (i : Fin 256) (h : (s.post i).corrupt = false) : readPost i s = .ok (s.post i) s := by
  simp [readPost, h]

@[simp] theorem readPosition_ok (s : State) (p : Fin 16) (h : (s.position p).corrupt = false) :
    readPosition p s = .ok (s.position p) s := by
  simp [readPosition, h]

@[simp] theorem readCall_free (s : State) (r : Fin 64) (h : s.call r = none) : readCall r s = .ok none s := by
  simp [readCall, h]

theorem readCall_ok (s : State) (r : Fin 64) (c : Call) (h : s.call r = some c) (hc : c.corrupt = false) :
    readCall r s = .ok (some c) s := by
  simp [readCall, h, hc]

theorem withCall_ok (s : State) (r : Fin 64) (c : Call) (f : Call → Op Unit) (h : s.call r = some c)
    (hc : c.corrupt = false) : withCall r f s = f c s := by
  simp [withCall, readCall_ok s r c h hc]

theorem readIncident_ok (s : State) (k : Fin 16) (x : Incident) (h : s.incident k = some x) (hx : x.corrupt = false) :
    readIncident k s = .ok (some x) s := by
  simp [readIncident, h, hx]

@[simp] theorem readIncident_free (s : State) (k : Fin 16) (h : s.incident k = none) : readIncident k s = .ok none s := by
  simp [readIncident, h]

@[simp] theorem readChannel_ok (s : State) (c : Fin 32) (h : (s.channel c).corrupt = false) :
    readChannel c s = .ok (s.channel c) s := by
  simp [readChannel, h]

/-- A record whose check code fails cuts the operation short with a RECORD_CHECK (R186). -/
theorem readPost_bad (s : State) (i : Fin 256) (h : (s.post i).corrupt = true) :
    readPost i s = .error (recordCheck (.post i)) s := by
  simp [readPost, h]

end Machine

end Sys2Proof
end

