-- ==== Sys2Proof/Laws/State.lean ====
section
/-! SUPPORT. What each named update of State leaves as it is, one lemma per field, and what it writes. -/

namespace Sys2Proof.Machine

/-! ### writeMemory -/

@[simp] theorem State.writeMemory_time (a : Nat) (w : Word) (s : State) : (s.writeMemory a w).time = s.time := rfl
@[simp] theorem State.writeMemory_path (a : Nat) (w : Word) (s : State) : (s.writeMemory a w).path = s.path := rfl
@[simp] theorem State.writeMemory_lines (a : Nat) (w : Word) (s : State) : (s.writeMemory a w).lines = s.lines := rfl
@[simp] theorem State.writeMemory_ends (a : Nat) (w : Word) (s : State) : (s.writeMemory a w).ends = s.ends := rfl
@[simp] theorem State.writeMemory_posts (a : Nat) (w : Word) (s : State) : (s.writeMemory a w).posts = s.posts := rfl
@[simp] theorem State.writeMemory_directory (a : Nat) (w : Word) (s : State) :
    (s.writeMemory a w).directory = s.directory := rfl
@[simp] theorem State.writeMemory_segments (a : Nat) (w : Word) (s : State) :
    (s.writeMemory a w).segments = s.segments := rfl
@[simp] theorem State.writeMemory_calls (a : Nat) (w : Word) (s : State) : (s.writeMemory a w).calls = s.calls := rfl
@[simp] theorem State.writeMemory_cluster (a : Nat) (w : Word) (s : State) :
    (s.writeMemory a w).cluster = s.cluster := rfl
@[simp] theorem State.writeMemory_positions (a : Nat) (w : Word) (s : State) :
    (s.writeMemory a w).positions = s.positions := rfl
@[simp] theorem State.writeMemory_speech (a : Nat) (w : Word) (s : State) : (s.writeMemory a w).speech = s.speech := rfl
@[simp] theorem State.writeMemory_reports (a : Nat) (w : Word) (s : State) :
    (s.writeMemory a w).reports = s.reports := rfl
@[simp] theorem State.writeMemory_engine (a : Nat) (w : Word) (s : State) : (s.writeMemory a w).engine = s.engine := rfl
@[simp] theorem State.writeMemory_dispatchDue (a : Nat) (w : Word) (s : State) :
    (s.writeMemory a w).dispatchDue = s.dispatchDue := rfl
@[simp] theorem State.writeMemory_commandResult (a : Nat) (w : Word) (s : State) :
    (s.writeMemory a w).commandResult = s.commandResult := rfl
@[simp] theorem State.writeMemory_pending (a : Nat) (w : Word) (s : State) :
    (s.writeMemory a w).pending = s.pending := rfl

/-! ### engineWrites -/

@[simp] theorem State.engineWrites_time (es : List QueueEntry) (s : State) : (s.engineWrites es).time = s.time := rfl
@[simp] theorem State.engineWrites_mem (es : List QueueEntry) (s : State) : (s.engineWrites es).mem = s.mem := rfl
@[simp] theorem State.engineWrites_lines (es : List QueueEntry) (s : State) : (s.engineWrites es).lines = s.lines := rfl
@[simp] theorem State.engineWrites_ends (es : List QueueEntry) (s : State) : (s.engineWrites es).ends = s.ends := rfl
@[simp] theorem State.engineWrites_posts (es : List QueueEntry) (s : State) : (s.engineWrites es).posts = s.posts := rfl
@[simp] theorem State.engineWrites_directory (es : List QueueEntry) (s : State) :
    (s.engineWrites es).directory = s.directory := rfl
@[simp] theorem State.engineWrites_segments (es : List QueueEntry) (s : State) :
    (s.engineWrites es).segments = s.segments := rfl
@[simp] theorem State.engineWrites_calls (es : List QueueEntry) (s : State) : (s.engineWrites es).calls = s.calls := rfl
@[simp] theorem State.engineWrites_cluster (es : List QueueEntry) (s : State) :
    (s.engineWrites es).cluster = s.cluster := rfl
@[simp] theorem State.engineWrites_positions (es : List QueueEntry) (s : State) :
    (s.engineWrites es).positions = s.positions := rfl
@[simp] theorem State.engineWrites_speech (es : List QueueEntry) (s : State) :
    (s.engineWrites es).speech = s.speech := rfl
@[simp] theorem State.engineWrites_reports (es : List QueueEntry) (s : State) :
    (s.engineWrites es).reports = s.reports := rfl
@[simp] theorem State.engineWrites_engine (es : List QueueEntry) (s : State) :
    (s.engineWrites es).engine = s.engine := rfl
@[simp] theorem State.engineWrites_dispatchDue (es : List QueueEntry) (s : State) :
    (s.engineWrites es).dispatchDue = s.dispatchDue := rfl
@[simp] theorem State.engineWrites_commandResult (es : List QueueEntry) (s : State) :
    (s.engineWrites es).commandResult = s.commandResult := rfl
@[simp] theorem State.engineWrites_pending (es : List QueueEntry) (s : State) :
    (s.engineWrites es).pending = s.pending := rfl

/-! ### writeStateWord -/

@[simp] theorem State.writeStateWord_time (s : State) : s.writeStateWord.time = s.time := rfl
@[simp] theorem State.writeStateWord_mem (s : State) : s.writeStateWord.mem = s.mem := rfl
@[simp] theorem State.writeStateWord_lines (s : State) : s.writeStateWord.lines = s.lines := rfl
@[simp] theorem State.writeStateWord_ends (s : State) : s.writeStateWord.ends = s.ends := rfl
@[simp] theorem State.writeStateWord_posts (s : State) : s.writeStateWord.posts = s.posts := rfl
@[simp] theorem State.writeStateWord_directory (s : State) : s.writeStateWord.directory = s.directory := rfl
@[simp] theorem State.writeStateWord_segments (s : State) : s.writeStateWord.segments = s.segments := rfl
@[simp] theorem State.writeStateWord_calls (s : State) : s.writeStateWord.calls = s.calls := rfl
@[simp] theorem State.writeStateWord_cluster (s : State) : s.writeStateWord.cluster = s.cluster := rfl
@[simp] theorem State.writeStateWord_positions (s : State) : s.writeStateWord.positions = s.positions := rfl
@[simp] theorem State.writeStateWord_speech (s : State) : s.writeStateWord.speech = s.speech := rfl
@[simp] theorem State.writeStateWord_reports (s : State) : s.writeStateWord.reports = s.reports := rfl
@[simp] theorem State.writeStateWord_engine (s : State) : s.writeStateWord.engine = s.engine := rfl
@[simp] theorem State.writeStateWord_dispatchDue (s : State) : s.writeStateWord.dispatchDue = s.dispatchDue := rfl
@[simp] theorem State.writeStateWord_commandResult (s : State) : s.writeStateWord.commandResult = s.commandResult := rfl
@[simp] theorem State.writeStateWord_pending (s : State) : s.writeStateWord.pending = s.pending := rfl

/-! ### flushTaker -/

@[simp] theorem State.flushTaker_time (s : State) : s.flushTaker.time = s.time := by
  simp only [State.flushTaker]; (repeat' split) <;> simp
@[simp] theorem State.flushTaker_mem (s : State) : s.flushTaker.mem = s.mem := by
  simp only [State.flushTaker]; (repeat' split) <;> simp
@[simp] theorem State.flushTaker_lines (s : State) : s.flushTaker.lines = s.lines := by
  simp only [State.flushTaker]; (repeat' split) <;> simp
@[simp] theorem State.flushTaker_ends (s : State) : s.flushTaker.ends = s.ends := by
  simp only [State.flushTaker]; (repeat' split) <;> simp
@[simp] theorem State.flushTaker_posts (s : State) : s.flushTaker.posts = s.posts := by
  simp only [State.flushTaker]; (repeat' split) <;> simp
@[simp] theorem State.flushTaker_directory (s : State) : s.flushTaker.directory = s.directory := by
  simp only [State.flushTaker]; (repeat' split) <;> simp
@[simp] theorem State.flushTaker_segments (s : State) : s.flushTaker.segments = s.segments := by
  simp only [State.flushTaker]; (repeat' split) <;> simp
@[simp] theorem State.flushTaker_calls (s : State) : s.flushTaker.calls = s.calls := by
  simp only [State.flushTaker]; (repeat' split) <;> simp
@[simp] theorem State.flushTaker_cluster (s : State) : s.flushTaker.cluster = s.cluster := by
  simp only [State.flushTaker]; (repeat' split) <;> simp
@[simp] theorem State.flushTaker_positions (s : State) : s.flushTaker.positions = s.positions := by
  simp only [State.flushTaker]; (repeat' split) <;> simp
@[simp] theorem State.flushTaker_speech (s : State) : s.flushTaker.speech = s.speech := by
  simp only [State.flushTaker]; (repeat' split) <;> simp
@[simp] theorem State.flushTaker_reports (s : State) : s.flushTaker.reports = s.reports := by
  simp only [State.flushTaker]; (repeat' split) <;> simp
@[simp] theorem State.flushTaker_engine (s : State) : s.flushTaker.engine = s.engine := by
  simp only [State.flushTaker]; (repeat' split) <;> simp
@[simp] theorem State.flushTaker_dispatchDue (s : State) : s.flushTaker.dispatchDue = s.dispatchDue := by
  simp only [State.flushTaker]; (repeat' split) <;> simp
@[simp] theorem State.flushTaker_commandResult (s : State) : s.flushTaker.commandResult = s.commandResult := by
  simp only [State.flushTaker]; (repeat' split) <;> simp
@[simp] theorem State.flushTaker_pending (s : State) : s.flushTaker.pending = s.pending := by
  simp only [State.flushTaker]; (repeat' split) <;> simp

/-! ### report -/

@[simp] theorem State.report_time (o : Obj) (b e f : Bool) (s : State) : (s.report o b e f).time = s.time := rfl
@[simp] theorem State.report_mem (o : Obj) (b e f : Bool) (s : State) : (s.report o b e f).mem = s.mem := rfl
@[simp] theorem State.report_path (o : Obj) (b e f : Bool) (s : State) : (s.report o b e f).path = s.path := rfl
@[simp] theorem State.report_lines (o : Obj) (b e f : Bool) (s : State) : (s.report o b e f).lines = s.lines := rfl
@[simp] theorem State.report_ends (o : Obj) (b e f : Bool) (s : State) : (s.report o b e f).ends = s.ends := rfl
@[simp] theorem State.report_posts (o : Obj) (b e f : Bool) (s : State) : (s.report o b e f).posts = s.posts := rfl
@[simp] theorem State.report_directory (o : Obj) (b e f : Bool) (s : State) :
    (s.report o b e f).directory = s.directory := rfl
@[simp] theorem State.report_segments (o : Obj) (b e f : Bool) (s : State) :
    (s.report o b e f).segments = s.segments := rfl
@[simp] theorem State.report_calls (o : Obj) (b e f : Bool) (s : State) : (s.report o b e f).calls = s.calls := rfl
@[simp] theorem State.report_cluster (o : Obj) (b e f : Bool) (s : State) :
    (s.report o b e f).cluster = s.cluster := rfl
@[simp] theorem State.report_positions (o : Obj) (b e f : Bool) (s : State) :
    (s.report o b e f).positions = s.positions := rfl
@[simp] theorem State.report_speech (o : Obj) (b e f : Bool) (s : State) : (s.report o b e f).speech = s.speech := rfl
@[simp] theorem State.report_engine (o : Obj) (b e f : Bool) (s : State) : (s.report o b e f).engine = s.engine := rfl
@[simp] theorem State.report_dispatchDue (o : Obj) (b e f : Bool) (s : State) :
    (s.report o b e f).dispatchDue = s.dispatchDue := rfl
@[simp] theorem State.report_commandResult (o : Obj) (b e f : Bool) (s : State) :
    (s.report o b e f).commandResult = s.commandResult := rfl
@[simp] theorem State.report_pending (o : Obj) (b e f : Bool) (s : State) :
    (s.report o b e f).pending = s.pending := rfl

/-! ### reportBoth -/

@[simp] theorem State.reportBoth_time (o : Obj) (s : State) : (s.reportBoth o).time = s.time := rfl
@[simp] theorem State.reportBoth_mem (o : Obj) (s : State) : (s.reportBoth o).mem = s.mem := rfl
@[simp] theorem State.reportBoth_path (o : Obj) (s : State) : (s.reportBoth o).path = s.path := rfl
@[simp] theorem State.reportBoth_lines (o : Obj) (s : State) : (s.reportBoth o).lines = s.lines := rfl
@[simp] theorem State.reportBoth_ends (o : Obj) (s : State) : (s.reportBoth o).ends = s.ends := rfl
@[simp] theorem State.reportBoth_posts (o : Obj) (s : State) : (s.reportBoth o).posts = s.posts := rfl
@[simp] theorem State.reportBoth_directory (o : Obj) (s : State) : (s.reportBoth o).directory = s.directory := rfl
@[simp] theorem State.reportBoth_segments (o : Obj) (s : State) : (s.reportBoth o).segments = s.segments := rfl
@[simp] theorem State.reportBoth_calls (o : Obj) (s : State) : (s.reportBoth o).calls = s.calls := rfl
@[simp] theorem State.reportBoth_cluster (o : Obj) (s : State) : (s.reportBoth o).cluster = s.cluster := rfl
@[simp] theorem State.reportBoth_positions (o : Obj) (s : State) : (s.reportBoth o).positions = s.positions := rfl
@[simp] theorem State.reportBoth_speech (o : Obj) (s : State) : (s.reportBoth o).speech = s.speech := rfl
@[simp] theorem State.reportBoth_engine (o : Obj) (s : State) : (s.reportBoth o).engine = s.engine := rfl
@[simp] theorem State.reportBoth_dispatchDue (o : Obj) (s : State) : (s.reportBoth o).dispatchDue = s.dispatchDue := rfl
@[simp] theorem State.reportBoth_commandResult (o : Obj) (s : State) :
    (s.reportBoth o).commandResult = s.commandResult := rfl
@[simp] theorem State.reportBoth_pending (o : Obj) (s : State) : (s.reportBoth o).pending = s.pending := rfl

/-! ### reportCounts -/

@[simp] theorem State.reportCounts_time (s : State) : s.reportCounts.time = s.time := rfl
@[simp] theorem State.reportCounts_mem (s : State) : s.reportCounts.mem = s.mem := rfl
@[simp] theorem State.reportCounts_path (s : State) : s.reportCounts.path = s.path := rfl
@[simp] theorem State.reportCounts_lines (s : State) : s.reportCounts.lines = s.lines := rfl
@[simp] theorem State.reportCounts_ends (s : State) : s.reportCounts.ends = s.ends := rfl
@[simp] theorem State.reportCounts_posts (s : State) : s.reportCounts.posts = s.posts := rfl
@[simp] theorem State.reportCounts_directory (s : State) : s.reportCounts.directory = s.directory := rfl
@[simp] theorem State.reportCounts_segments (s : State) : s.reportCounts.segments = s.segments := rfl
@[simp] theorem State.reportCounts_calls (s : State) : s.reportCounts.calls = s.calls := rfl
@[simp] theorem State.reportCounts_cluster (s : State) : s.reportCounts.cluster = s.cluster := rfl
@[simp] theorem State.reportCounts_positions (s : State) : s.reportCounts.positions = s.positions := rfl
@[simp] theorem State.reportCounts_speech (s : State) : s.reportCounts.speech = s.speech := rfl
@[simp] theorem State.reportCounts_engine (s : State) : s.reportCounts.engine = s.engine := rfl
@[simp] theorem State.reportCounts_dispatchDue (s : State) : s.reportCounts.dispatchDue = s.dispatchDue := rfl
@[simp] theorem State.reportCounts_commandResult (s : State) : s.reportCounts.commandResult = s.commandResult := rfl
@[simp] theorem State.reportCounts_pending (s : State) : s.reportCounts.pending = s.pending := rfl

/-! ### reportEngine -/

@[simp] theorem State.reportEngine_time (s : State) : s.reportEngine.time = s.time := rfl
@[simp] theorem State.reportEngine_mem (s : State) : s.reportEngine.mem = s.mem := rfl
@[simp] theorem State.reportEngine_path (s : State) : s.reportEngine.path = s.path := rfl
@[simp] theorem State.reportEngine_lines (s : State) : s.reportEngine.lines = s.lines := rfl
@[simp] theorem State.reportEngine_ends (s : State) : s.reportEngine.ends = s.ends := rfl
@[simp] theorem State.reportEngine_posts (s : State) : s.reportEngine.posts = s.posts := rfl
@[simp] theorem State.reportEngine_directory (s : State) : s.reportEngine.directory = s.directory := rfl
@[simp] theorem State.reportEngine_segments (s : State) : s.reportEngine.segments = s.segments := rfl
@[simp] theorem State.reportEngine_calls (s : State) : s.reportEngine.calls = s.calls := rfl
@[simp] theorem State.reportEngine_cluster (s : State) : s.reportEngine.cluster = s.cluster := rfl
@[simp] theorem State.reportEngine_positions (s : State) : s.reportEngine.positions = s.positions := rfl
@[simp] theorem State.reportEngine_speech (s : State) : s.reportEngine.speech = s.speech := rfl
@[simp] theorem State.reportEngine_dispatchDue (s : State) : s.reportEngine.dispatchDue = s.dispatchDue := rfl
@[simp] theorem State.reportEngine_commandResult (s : State) : s.reportEngine.commandResult = s.commandResult := rfl
@[simp] theorem State.reportEngine_pending (s : State) : s.reportEngine.pending = s.pending := rfl

/-! ### recordFault -/

@[simp] theorem State.recordFault_time (k : Fin 9) (q : FaultKind) (n : Nat) (d : BitVec 32) (s : State) :
    (s.recordFault k q n d).time = s.time := by
  simp only [State.recordFault]; (repeat' split) <;> simp
@[simp] theorem State.recordFault_mem (k : Fin 9) (q : FaultKind) (n : Nat) (d : BitVec 32) (s : State) :
    (s.recordFault k q n d).mem = s.mem := by
  simp only [State.recordFault]; (repeat' split) <;> simp
@[simp] theorem State.recordFault_path (k : Fin 9) (q : FaultKind) (n : Nat) (d : BitVec 32) (s : State) :
    (s.recordFault k q n d).path = s.path := by
  simp only [State.recordFault]; (repeat' split) <;> simp
@[simp] theorem State.recordFault_lines (k : Fin 9) (q : FaultKind) (n : Nat) (d : BitVec 32) (s : State) :
    (s.recordFault k q n d).lines = s.lines := by
  simp only [State.recordFault]; (repeat' split) <;> simp
@[simp] theorem State.recordFault_ends (k : Fin 9) (q : FaultKind) (n : Nat) (d : BitVec 32) (s : State) :
    (s.recordFault k q n d).ends = s.ends := by
  simp only [State.recordFault]; (repeat' split) <;> simp
@[simp] theorem State.recordFault_posts (k : Fin 9) (q : FaultKind) (n : Nat) (d : BitVec 32) (s : State) :
    (s.recordFault k q n d).posts = s.posts := by
  simp only [State.recordFault]; (repeat' split) <;> simp
@[simp] theorem State.recordFault_directory (k : Fin 9) (q : FaultKind) (n : Nat) (d : BitVec 32) (s : State) :
    (s.recordFault k q n d).directory = s.directory := by
  simp only [State.recordFault]; (repeat' split) <;> simp
@[simp] theorem State.recordFault_segments (k : Fin 9) (q : FaultKind) (n : Nat) (d : BitVec 32) (s : State) :
    (s.recordFault k q n d).segments = s.segments := by
  simp only [State.recordFault]; (repeat' split) <;> simp
@[simp] theorem State.recordFault_calls (k : Fin 9) (q : FaultKind) (n : Nat) (d : BitVec 32) (s : State) :
    (s.recordFault k q n d).calls = s.calls := by
  simp only [State.recordFault]; (repeat' split) <;> simp
@[simp] theorem State.recordFault_cluster (k : Fin 9) (q : FaultKind) (n : Nat) (d : BitVec 32) (s : State) :
    (s.recordFault k q n d).cluster = s.cluster := by
  simp only [State.recordFault]; (repeat' split) <;> simp
@[simp] theorem State.recordFault_positions (k : Fin 9) (q : FaultKind) (n : Nat) (d : BitVec 32) (s : State) :
    (s.recordFault k q n d).positions = s.positions := by
  simp only [State.recordFault]; (repeat' split) <;> simp
@[simp] theorem State.recordFault_speech (k : Fin 9) (q : FaultKind) (n : Nat) (d : BitVec 32) (s : State) :
    (s.recordFault k q n d).speech = s.speech := by
  simp only [State.recordFault]; (repeat' split) <;> simp
@[simp] theorem State.recordFault_engine (k : Fin 9) (q : FaultKind) (n : Nat) (d : BitVec 32) (s : State) :
    (s.recordFault k q n d).engine = s.engine := by
  simp only [State.recordFault]; (repeat' split) <;> simp
@[simp] theorem State.recordFault_dispatchDue (k : Fin 9) (q : FaultKind) (n : Nat) (d : BitVec 32) (s : State) :
    (s.recordFault k q n d).dispatchDue = s.dispatchDue := by
  simp only [State.recordFault]; (repeat' split) <;> simp
@[simp] theorem State.recordFault_commandResult (k : Fin 9) (q : FaultKind) (n : Nat) (d : BitVec 32) (s : State) :
    (s.recordFault k q n d).commandResult = s.commandResult := by
  simp only [State.recordFault]; (repeat' split) <;> simp
@[simp] theorem State.recordFault_pending (k : Fin 9) (q : FaultKind) (n : Nat) (d : BitVec 32) (s : State) :
    (s.recordFault k q n d).pending = s.pending := by
  simp only [State.recordFault]; (repeat' split) <;> simp

/-! ### setEngineState -/

@[simp] theorem State.setEngineState_time (st : EngineState) (s : State) : (s.setEngineState st).time = s.time := rfl
@[simp] theorem State.setEngineState_mem (st : EngineState) (s : State) : (s.setEngineState st).mem = s.mem := rfl
@[simp] theorem State.setEngineState_lines (st : EngineState) (s : State) : (s.setEngineState st).lines = s.lines := rfl
@[simp] theorem State.setEngineState_ends (st : EngineState) (s : State) : (s.setEngineState st).ends = s.ends := rfl
@[simp] theorem State.setEngineState_posts (st : EngineState) (s : State) : (s.setEngineState st).posts = s.posts := rfl
@[simp] theorem State.setEngineState_directory (st : EngineState) (s : State) :
    (s.setEngineState st).directory = s.directory := rfl
@[simp] theorem State.setEngineState_segments (st : EngineState) (s : State) :
    (s.setEngineState st).segments = s.segments := rfl
@[simp] theorem State.setEngineState_calls (st : EngineState) (s : State) : (s.setEngineState st).calls = s.calls := rfl
@[simp] theorem State.setEngineState_cluster (st : EngineState) (s : State) :
    (s.setEngineState st).cluster = s.cluster := rfl
@[simp] theorem State.setEngineState_positions (st : EngineState) (s : State) :
    (s.setEngineState st).positions = s.positions := rfl
@[simp] theorem State.setEngineState_speech (st : EngineState) (s : State) :
    (s.setEngineState st).speech = s.speech := rfl
@[simp] theorem State.setEngineState_dispatchDue (st : EngineState) (s : State) :
    (s.setEngineState st).dispatchDue = s.dispatchDue := rfl
@[simp] theorem State.setEngineState_commandResult (st : EngineState) (s : State) :
    (s.setEngineState st).commandResult = s.commandResult := rfl
@[simp] theorem State.setEngineState_pending (st : EngineState) (s : State) :
    (s.setEngineState st).pending = s.pending := rfl

/-! ### setClamped -/

@[simp] theorem State.setClamped_time (b : Bool) (s : State) : (s.setClamped b).time = s.time := by
  simp only [State.setClamped]; (repeat' split) <;> simp
@[simp] theorem State.setClamped_mem (b : Bool) (s : State) : (s.setClamped b).mem = s.mem := by
  simp only [State.setClamped]; (repeat' split) <;> simp
@[simp] theorem State.setClamped_lines (b : Bool) (s : State) : (s.setClamped b).lines = s.lines := by
  simp only [State.setClamped]; (repeat' split) <;> simp
@[simp] theorem State.setClamped_ends (b : Bool) (s : State) : (s.setClamped b).ends = s.ends := by
  simp only [State.setClamped]; (repeat' split) <;> simp
@[simp] theorem State.setClamped_posts (b : Bool) (s : State) : (s.setClamped b).posts = s.posts := by
  simp only [State.setClamped]; (repeat' split) <;> simp
@[simp] theorem State.setClamped_directory (b : Bool) (s : State) : (s.setClamped b).directory = s.directory := by
  simp only [State.setClamped]; (repeat' split) <;> simp
@[simp] theorem State.setClamped_segments (b : Bool) (s : State) : (s.setClamped b).segments = s.segments := by
  simp only [State.setClamped]; (repeat' split) <;> simp
@[simp] theorem State.setClamped_calls (b : Bool) (s : State) : (s.setClamped b).calls = s.calls := by
  simp only [State.setClamped]; (repeat' split) <;> simp
@[simp] theorem State.setClamped_cluster (b : Bool) (s : State) : (s.setClamped b).cluster = s.cluster := by
  simp only [State.setClamped]; (repeat' split) <;> simp
@[simp] theorem State.setClamped_positions (b : Bool) (s : State) : (s.setClamped b).positions = s.positions := by
  simp only [State.setClamped]; (repeat' split) <;> simp
@[simp] theorem State.setClamped_speech (b : Bool) (s : State) : (s.setClamped b).speech = s.speech := by
  simp only [State.setClamped]; (repeat' split) <;> simp
@[simp] theorem State.setClamped_dispatchDue (b : Bool) (s : State) : (s.setClamped b).dispatchDue = s.dispatchDue := by
  simp only [State.setClamped]; (repeat' split) <;> simp
@[simp] theorem State.setClamped_commandResult (b : Bool) (s : State) :
    (s.setClamped b).commandResult = s.commandResult := by
  simp only [State.setClamped]; (repeat' split) <;> simp
@[simp] theorem State.setClamped_pending (b : Bool) (s : State) : (s.setClamped b).pending = s.pending := by
  simp only [State.setClamped]; (repeat' split) <;> simp

/-! ### updateLine -/

@[simp] theorem State.updateLine_time (l : LineId) (f : LineSide → LineSide) (s : State) :
    (s.updateLine l f).time = s.time := rfl
@[simp] theorem State.updateLine_mem (l : LineId) (f : LineSide → LineSide) (s : State) :
    (s.updateLine l f).mem = s.mem := rfl
@[simp] theorem State.updateLine_path (l : LineId) (f : LineSide → LineSide) (s : State) :
    (s.updateLine l f).path = s.path := rfl
@[simp] theorem State.updateLine_ends (l : LineId) (f : LineSide → LineSide) (s : State) :
    (s.updateLine l f).ends = s.ends := rfl
@[simp] theorem State.updateLine_posts (l : LineId) (f : LineSide → LineSide) (s : State) :
    (s.updateLine l f).posts = s.posts := rfl
@[simp] theorem State.updateLine_directory (l : LineId) (f : LineSide → LineSide) (s : State) :
    (s.updateLine l f).directory = s.directory := rfl
@[simp] theorem State.updateLine_segments (l : LineId) (f : LineSide → LineSide) (s : State) :
    (s.updateLine l f).segments = s.segments := rfl
@[simp] theorem State.updateLine_calls (l : LineId) (f : LineSide → LineSide) (s : State) :
    (s.updateLine l f).calls = s.calls := rfl
@[simp] theorem State.updateLine_cluster (l : LineId) (f : LineSide → LineSide) (s : State) :
    (s.updateLine l f).cluster = s.cluster := rfl
@[simp] theorem State.updateLine_positions (l : LineId) (f : LineSide → LineSide) (s : State) :
    (s.updateLine l f).positions = s.positions := rfl
@[simp] theorem State.updateLine_speech (l : LineId) (f : LineSide → LineSide) (s : State) :
    (s.updateLine l f).speech = s.speech := rfl
@[simp] theorem State.updateLine_reports (l : LineId) (f : LineSide → LineSide) (s : State) :
    (s.updateLine l f).reports = s.reports := rfl
@[simp] theorem State.updateLine_engine (l : LineId) (f : LineSide → LineSide) (s : State) :
    (s.updateLine l f).engine = s.engine := rfl
@[simp] theorem State.updateLine_dispatchDue (l : LineId) (f : LineSide → LineSide) (s : State) :
    (s.updateLine l f).dispatchDue = s.dispatchDue := rfl
@[simp] theorem State.updateLine_commandResult (l : LineId) (f : LineSide → LineSide) (s : State) :
    (s.updateLine l f).commandResult = s.commandResult := rfl
@[simp] theorem State.updateLine_pending (l : LineId) (f : LineSide → LineSide) (s : State) :
    (s.updateLine l f).pending = s.pending := rfl

/-! ### updateEnd -/

@[simp] theorem State.updateEnd_time (l : LineId) (f : LineEnd → LineEnd) (s : State) :
    (s.updateEnd l f).time = s.time := rfl
@[simp] theorem State.updateEnd_mem (l : LineId) (f : LineEnd → LineEnd) (s : State) :
    (s.updateEnd l f).mem = s.mem := rfl
@[simp] theorem State.updateEnd_path (l : LineId) (f : LineEnd → LineEnd) (s : State) :
    (s.updateEnd l f).path = s.path := rfl
@[simp] theorem State.updateEnd_lines (l : LineId) (f : LineEnd → LineEnd) (s : State) :
    (s.updateEnd l f).lines = s.lines := rfl
@[simp] theorem State.updateEnd_posts (l : LineId) (f : LineEnd → LineEnd) (s : State) :
    (s.updateEnd l f).posts = s.posts := rfl
@[simp] theorem State.updateEnd_directory (l : LineId) (f : LineEnd → LineEnd) (s : State) :
    (s.updateEnd l f).directory = s.directory := rfl
@[simp] theorem State.updateEnd_segments (l : LineId) (f : LineEnd → LineEnd) (s : State) :
    (s.updateEnd l f).segments = s.segments := rfl
@[simp] theorem State.updateEnd_calls (l : LineId) (f : LineEnd → LineEnd) (s : State) :
    (s.updateEnd l f).calls = s.calls := rfl
@[simp] theorem State.updateEnd_cluster (l : LineId) (f : LineEnd → LineEnd) (s : State) :
    (s.updateEnd l f).cluster = s.cluster := rfl
@[simp] theorem State.updateEnd_positions (l : LineId) (f : LineEnd → LineEnd) (s : State) :
    (s.updateEnd l f).positions = s.positions := rfl
@[simp] theorem State.updateEnd_speech (l : LineId) (f : LineEnd → LineEnd) (s : State) :
    (s.updateEnd l f).speech = s.speech := rfl
@[simp] theorem State.updateEnd_reports (l : LineId) (f : LineEnd → LineEnd) (s : State) :
    (s.updateEnd l f).reports = s.reports := rfl
@[simp] theorem State.updateEnd_engine (l : LineId) (f : LineEnd → LineEnd) (s : State) :
    (s.updateEnd l f).engine = s.engine := rfl
@[simp] theorem State.updateEnd_dispatchDue (l : LineId) (f : LineEnd → LineEnd) (s : State) :
    (s.updateEnd l f).dispatchDue = s.dispatchDue := rfl
@[simp] theorem State.updateEnd_commandResult (l : LineId) (f : LineEnd → LineEnd) (s : State) :
    (s.updateEnd l f).commandResult = s.commandResult := rfl
@[simp] theorem State.updateEnd_pending (l : LineId) (f : LineEnd → LineEnd) (s : State) :
    (s.updateEnd l f).pending = s.pending := rfl

/-! ### syncPolledSide -/

@[simp] theorem State.syncPolledSide_time (i : Fin 256) (d : Side) (s : State) :
    (s.syncPolledSide i d).time = s.time := by
  simp only [State.syncPolledSide]; (repeat' split) <;> simp
@[simp] theorem State.syncPolledSide_mem (i : Fin 256) (d : Side) (s : State) : (s.syncPolledSide i d).mem = s.mem := by
  simp only [State.syncPolledSide]; (repeat' split) <;> simp
@[simp] theorem State.syncPolledSide_path (i : Fin 256) (d : Side) (s : State) :
    (s.syncPolledSide i d).path = s.path := by
  simp only [State.syncPolledSide]; (repeat' split) <;> simp
@[simp] theorem State.syncPolledSide_ends (i : Fin 256) (d : Side) (s : State) :
    (s.syncPolledSide i d).ends = s.ends := by
  simp only [State.syncPolledSide]; (repeat' split) <;> simp
@[simp] theorem State.syncPolledSide_posts (i : Fin 256) (d : Side) (s : State) :
    (s.syncPolledSide i d).posts = s.posts := by
  simp only [State.syncPolledSide]; (repeat' split) <;> simp
@[simp] theorem State.syncPolledSide_directory (i : Fin 256) (d : Side) (s : State) :
    (s.syncPolledSide i d).directory = s.directory := by
  simp only [State.syncPolledSide]; (repeat' split) <;> simp
@[simp] theorem State.syncPolledSide_segments (i : Fin 256) (d : Side) (s : State) :
    (s.syncPolledSide i d).segments = s.segments := by
  simp only [State.syncPolledSide]; (repeat' split) <;> simp
@[simp] theorem State.syncPolledSide_calls (i : Fin 256) (d : Side) (s : State) :
    (s.syncPolledSide i d).calls = s.calls := by
  simp only [State.syncPolledSide]; (repeat' split) <;> simp
@[simp] theorem State.syncPolledSide_cluster (i : Fin 256) (d : Side) (s : State) :
    (s.syncPolledSide i d).cluster = s.cluster := by
  simp only [State.syncPolledSide]; (repeat' split) <;> simp
@[simp] theorem State.syncPolledSide_positions (i : Fin 256) (d : Side) (s : State) :
    (s.syncPolledSide i d).positions = s.positions := by
  simp only [State.syncPolledSide]; (repeat' split) <;> simp
@[simp] theorem State.syncPolledSide_speech (i : Fin 256) (d : Side) (s : State) :
    (s.syncPolledSide i d).speech = s.speech := by
  simp only [State.syncPolledSide]; (repeat' split) <;> simp
@[simp] theorem State.syncPolledSide_reports (i : Fin 256) (d : Side) (s : State) :
    (s.syncPolledSide i d).reports = s.reports := by
  simp only [State.syncPolledSide]; (repeat' split) <;> simp
@[simp] theorem State.syncPolledSide_engine (i : Fin 256) (d : Side) (s : State) :
    (s.syncPolledSide i d).engine = s.engine := by
  simp only [State.syncPolledSide]; (repeat' split) <;> simp
@[simp] theorem State.syncPolledSide_dispatchDue (i : Fin 256) (d : Side) (s : State) :
    (s.syncPolledSide i d).dispatchDue = s.dispatchDue := by
  simp only [State.syncPolledSide]; (repeat' split) <;> simp
@[simp] theorem State.syncPolledSide_commandResult (i : Fin 256) (d : Side) (s : State) :
    (s.syncPolledSide i d).commandResult = s.commandResult := by
  simp only [State.syncPolledSide]; (repeat' split) <;> simp
@[simp] theorem State.syncPolledSide_pending (i : Fin 256) (d : Side) (s : State) :
    (s.syncPolledSide i d).pending = s.pending := by
  simp only [State.syncPolledSide]; (repeat' split) <;> simp

/-! ### syncPolled -/

@[simp] theorem State.syncPolled_time (i : Fin 256) (s : State) :
    (s.syncPolled i).time = s.time := by simp [State.syncPolled]
@[simp] theorem State.syncPolled_mem (i : Fin 256) (s : State) :
    (s.syncPolled i).mem = s.mem := by simp [State.syncPolled]
@[simp] theorem State.syncPolled_path (i : Fin 256) (s : State) :
    (s.syncPolled i).path = s.path := by simp [State.syncPolled]
@[simp] theorem State.syncPolled_ends (i : Fin 256) (s : State) :
    (s.syncPolled i).ends = s.ends := by simp [State.syncPolled]
@[simp] theorem State.syncPolled_posts (i : Fin 256) (s : State) :
    (s.syncPolled i).posts = s.posts := by simp [State.syncPolled]
@[simp] theorem State.syncPolled_directory (i : Fin 256) (s : State) :
    (s.syncPolled i).directory = s.directory := by simp [State.syncPolled]
@[simp] theorem State.syncPolled_segments (i : Fin 256) (s : State) :
    (s.syncPolled i).segments = s.segments := by simp [State.syncPolled]
@[simp] theorem State.syncPolled_calls (i : Fin 256) (s : State) :
    (s.syncPolled i).calls = s.calls := by simp [State.syncPolled]
@[simp] theorem State.syncPolled_cluster (i : Fin 256) (s : State) :
    (s.syncPolled i).cluster = s.cluster := by simp [State.syncPolled]
@[simp] theorem State.syncPolled_positions (i : Fin 256) (s : State) :
    (s.syncPolled i).positions = s.positions := by simp [State.syncPolled]
@[simp] theorem State.syncPolled_speech (i : Fin 256) (s : State) :
    (s.syncPolled i).speech = s.speech := by simp [State.syncPolled]
@[simp] theorem State.syncPolled_reports (i : Fin 256) (s : State) :
    (s.syncPolled i).reports = s.reports := by simp [State.syncPolled]
@[simp] theorem State.syncPolled_engine (i : Fin 256) (s : State) :
    (s.syncPolled i).engine = s.engine := by simp [State.syncPolled]
@[simp] theorem State.syncPolled_dispatchDue (i : Fin 256) (s : State) :
    (s.syncPolled i).dispatchDue = s.dispatchDue := by simp [State.syncPolled]
@[simp] theorem State.syncPolled_commandResult (i : Fin 256) (s : State) :
    (s.syncPolled i).commandResult = s.commandResult := by simp [State.syncPolled]
@[simp] theorem State.syncPolled_pending (i : Fin 256) (s : State) :
    (s.syncPolled i).pending = s.pending := by simp [State.syncPolled]

/-! ### setPost -/

@[simp] theorem State.setPost_time (i : Fin 256) (p : Post) (s : State) : (s.setPost i p).time = s.time := by
  simp only [State.setPost]; (repeat' split) <;> simp
@[simp] theorem State.setPost_mem (i : Fin 256) (p : Post) (s : State) : (s.setPost i p).mem = s.mem := by
  simp only [State.setPost]; (repeat' split) <;> simp
@[simp] theorem State.setPost_path (i : Fin 256) (p : Post) (s : State) : (s.setPost i p).path = s.path := by
  simp only [State.setPost]; (repeat' split) <;> simp
@[simp] theorem State.setPost_ends (i : Fin 256) (p : Post) (s : State) : (s.setPost i p).ends = s.ends := by
  simp only [State.setPost]; (repeat' split) <;> simp
@[simp] theorem State.setPost_directory (i : Fin 256) (p : Post) (s : State) :
    (s.setPost i p).directory = s.directory := by
  simp only [State.setPost]; (repeat' split) <;> simp
@[simp] theorem State.setPost_segments (i : Fin 256) (p : Post) (s : State) :
    (s.setPost i p).segments = s.segments := by
  simp only [State.setPost]; (repeat' split) <;> simp
@[simp] theorem State.setPost_calls (i : Fin 256) (p : Post) (s : State) : (s.setPost i p).calls = s.calls := by
  simp only [State.setPost]; (repeat' split) <;> simp
@[simp] theorem State.setPost_cluster (i : Fin 256) (p : Post) (s : State) : (s.setPost i p).cluster = s.cluster := by
  simp only [State.setPost]; (repeat' split) <;> simp
@[simp] theorem State.setPost_positions (i : Fin 256) (p : Post) (s : State) :
    (s.setPost i p).positions = s.positions := by
  simp only [State.setPost]; (repeat' split) <;> simp
@[simp] theorem State.setPost_speech (i : Fin 256) (p : Post) (s : State) : (s.setPost i p).speech = s.speech := by
  simp only [State.setPost]; (repeat' split) <;> simp
@[simp] theorem State.setPost_engine (i : Fin 256) (p : Post) (s : State) : (s.setPost i p).engine = s.engine := by
  simp only [State.setPost]; (repeat' split) <;> simp
@[simp] theorem State.setPost_dispatchDue (i : Fin 256) (p : Post) (s : State) :
    (s.setPost i p).dispatchDue = s.dispatchDue := by
  simp only [State.setPost]; (repeat' split) <;> simp
@[simp] theorem State.setPost_commandResult (i : Fin 256) (p : Post) (s : State) :
    (s.setPost i p).commandResult = s.commandResult := by
  simp only [State.setPost]; (repeat' split) <;> simp
@[simp] theorem State.setPost_pending (i : Fin 256) (p : Post) (s : State) : (s.setPost i p).pending = s.pending := by
  simp only [State.setPost]; (repeat' split) <;> simp

/-! ### setCall -/

@[simp] theorem State.setCall_time (r : Fin 64) (c : Call) (s : State) : (s.setCall r c).time = s.time := rfl
@[simp] theorem State.setCall_mem (r : Fin 64) (c : Call) (s : State) : (s.setCall r c).mem = s.mem := rfl
@[simp] theorem State.setCall_path (r : Fin 64) (c : Call) (s : State) : (s.setCall r c).path = s.path := rfl
@[simp] theorem State.setCall_lines (r : Fin 64) (c : Call) (s : State) : (s.setCall r c).lines = s.lines := rfl
@[simp] theorem State.setCall_ends (r : Fin 64) (c : Call) (s : State) : (s.setCall r c).ends = s.ends := rfl
@[simp] theorem State.setCall_posts (r : Fin 64) (c : Call) (s : State) : (s.setCall r c).posts = s.posts := rfl
@[simp] theorem State.setCall_directory (r : Fin 64) (c : Call) (s : State) :
    (s.setCall r c).directory = s.directory := rfl
@[simp] theorem State.setCall_segments (r : Fin 64) (c : Call) (s : State) :
    (s.setCall r c).segments = s.segments := rfl
@[simp] theorem State.setCall_cluster (r : Fin 64) (c : Call) (s : State) : (s.setCall r c).cluster = s.cluster := rfl
@[simp] theorem State.setCall_positions (r : Fin 64) (c : Call) (s : State) :
    (s.setCall r c).positions = s.positions := rfl
@[simp] theorem State.setCall_speech (r : Fin 64) (c : Call) (s : State) : (s.setCall r c).speech = s.speech := rfl
@[simp] theorem State.setCall_reports (r : Fin 64) (c : Call) (s : State) : (s.setCall r c).reports = s.reports := rfl
@[simp] theorem State.setCall_engine (r : Fin 64) (c : Call) (s : State) : (s.setCall r c).engine = s.engine := rfl
@[simp] theorem State.setCall_dispatchDue (r : Fin 64) (c : Call) (s : State) :
    (s.setCall r c).dispatchDue = s.dispatchDue := rfl
@[simp] theorem State.setCall_commandResult (r : Fin 64) (c : Call) (s : State) :
    (s.setCall r c).commandResult = s.commandResult := rfl
@[simp] theorem State.setCall_pending (r : Fin 64) (c : Call) (s : State) : (s.setCall r c).pending = s.pending := rfl

/-! ### reportCall -/

@[simp] theorem State.reportCall_time (r : Fin 64) (s : State) : (s.reportCall r).time = s.time := rfl
@[simp] theorem State.reportCall_mem (r : Fin 64) (s : State) : (s.reportCall r).mem = s.mem := rfl
@[simp] theorem State.reportCall_path (r : Fin 64) (s : State) : (s.reportCall r).path = s.path := rfl
@[simp] theorem State.reportCall_lines (r : Fin 64) (s : State) : (s.reportCall r).lines = s.lines := rfl
@[simp] theorem State.reportCall_ends (r : Fin 64) (s : State) : (s.reportCall r).ends = s.ends := rfl
@[simp] theorem State.reportCall_posts (r : Fin 64) (s : State) : (s.reportCall r).posts = s.posts := rfl
@[simp] theorem State.reportCall_directory (r : Fin 64) (s : State) : (s.reportCall r).directory = s.directory := rfl
@[simp] theorem State.reportCall_segments (r : Fin 64) (s : State) : (s.reportCall r).segments = s.segments := rfl
@[simp] theorem State.reportCall_calls (r : Fin 64) (s : State) : (s.reportCall r).calls = s.calls := rfl
@[simp] theorem State.reportCall_cluster (r : Fin 64) (s : State) : (s.reportCall r).cluster = s.cluster := rfl
@[simp] theorem State.reportCall_positions (r : Fin 64) (s : State) : (s.reportCall r).positions = s.positions := rfl
@[simp] theorem State.reportCall_speech (r : Fin 64) (s : State) : (s.reportCall r).speech = s.speech := rfl
@[simp] theorem State.reportCall_engine (r : Fin 64) (s : State) : (s.reportCall r).engine = s.engine := rfl
@[simp] theorem State.reportCall_dispatchDue (r : Fin 64) (s : State) :
    (s.reportCall r).dispatchDue = s.dispatchDue := rfl
@[simp] theorem State.reportCall_commandResult (r : Fin 64) (s : State) :
    (s.reportCall r).commandResult = s.commandResult := rfl
@[simp] theorem State.reportCall_pending (r : Fin 64) (s : State) : (s.reportCall r).pending = s.pending := rfl

/-! ### setIncident -/

@[simp] theorem State.setIncident_time (k : Fin 16) (x : Incident) (s : State) :
    (s.setIncident k x).time = s.time := rfl
@[simp] theorem State.setIncident_mem (k : Fin 16) (x : Incident) (s : State) : (s.setIncident k x).mem = s.mem := rfl
@[simp] theorem State.setIncident_path (k : Fin 16) (x : Incident) (s : State) :
    (s.setIncident k x).path = s.path := rfl
@[simp] theorem State.setIncident_lines (k : Fin 16) (x : Incident) (s : State) :
    (s.setIncident k x).lines = s.lines := rfl
@[simp] theorem State.setIncident_ends (k : Fin 16) (x : Incident) (s : State) :
    (s.setIncident k x).ends = s.ends := rfl
@[simp] theorem State.setIncident_posts (k : Fin 16) (x : Incident) (s : State) :
    (s.setIncident k x).posts = s.posts := rfl
@[simp] theorem State.setIncident_directory (k : Fin 16) (x : Incident) (s : State) :
    (s.setIncident k x).directory = s.directory := rfl
@[simp] theorem State.setIncident_segments (k : Fin 16) (x : Incident) (s : State) :
    (s.setIncident k x).segments = s.segments := rfl
@[simp] theorem State.setIncident_calls (k : Fin 16) (x : Incident) (s : State) :
    (s.setIncident k x).calls = s.calls := rfl
@[simp] theorem State.setIncident_positions (k : Fin 16) (x : Incident) (s : State) :
    (s.setIncident k x).positions = s.positions := rfl
@[simp] theorem State.setIncident_speech (k : Fin 16) (x : Incident) (s : State) :
    (s.setIncident k x).speech = s.speech := rfl
@[simp] theorem State.setIncident_reports (k : Fin 16) (x : Incident) (s : State) :
    (s.setIncident k x).reports = s.reports := rfl
@[simp] theorem State.setIncident_engine (k : Fin 16) (x : Incident) (s : State) :
    (s.setIncident k x).engine = s.engine := rfl
@[simp] theorem State.setIncident_dispatchDue (k : Fin 16) (x : Incident) (s : State) :
    (s.setIncident k x).dispatchDue = s.dispatchDue := rfl
@[simp] theorem State.setIncident_commandResult (k : Fin 16) (x : Incident) (s : State) :
    (s.setIncident k x).commandResult = s.commandResult := rfl
@[simp] theorem State.setIncident_pending (k : Fin 16) (x : Incident) (s : State) :
    (s.setIncident k x).pending = s.pending := rfl

/-! ### reportIncident -/

@[simp] theorem State.reportIncident_time (k : Fin 16) (s : State) : (s.reportIncident k).time = s.time := rfl
@[simp] theorem State.reportIncident_mem (k : Fin 16) (s : State) : (s.reportIncident k).mem = s.mem := rfl
@[simp] theorem State.reportIncident_path (k : Fin 16) (s : State) : (s.reportIncident k).path = s.path := rfl
@[simp] theorem State.reportIncident_lines (k : Fin 16) (s : State) : (s.reportIncident k).lines = s.lines := rfl
@[simp] theorem State.reportIncident_ends (k : Fin 16) (s : State) : (s.reportIncident k).ends = s.ends := rfl
@[simp] theorem State.reportIncident_posts (k : Fin 16) (s : State) : (s.reportIncident k).posts = s.posts := rfl
@[simp] theorem State.reportIncident_directory (k : Fin 16) (s : State) :
    (s.reportIncident k).directory = s.directory := rfl
@[simp] theorem State.reportIncident_segments (k : Fin 16) (s : State) :
    (s.reportIncident k).segments = s.segments := rfl
@[simp] theorem State.reportIncident_calls (k : Fin 16) (s : State) : (s.reportIncident k).calls = s.calls := rfl
@[simp] theorem State.reportIncident_cluster (k : Fin 16) (s : State) : (s.reportIncident k).cluster = s.cluster := rfl
@[simp] theorem State.reportIncident_positions (k : Fin 16) (s : State) :
    (s.reportIncident k).positions = s.positions := rfl
@[simp] theorem State.reportIncident_speech (k : Fin 16) (s : State) : (s.reportIncident k).speech = s.speech := rfl
@[simp] theorem State.reportIncident_engine (k : Fin 16) (s : State) : (s.reportIncident k).engine = s.engine := rfl
@[simp] theorem State.reportIncident_dispatchDue (k : Fin 16) (s : State) :
    (s.reportIncident k).dispatchDue = s.dispatchDue := rfl
@[simp] theorem State.reportIncident_commandResult (k : Fin 16) (s : State) :
    (s.reportIncident k).commandResult = s.commandResult := rfl
@[simp] theorem State.reportIncident_pending (k : Fin 16) (s : State) : (s.reportIncident k).pending = s.pending := rfl

/-! ### setPositionTimers -/

@[simp] theorem State.setPositionTimers_time (p : Fin 16) (x : Position) (s : State) :
    (s.setPositionTimers p x).time = s.time := rfl
@[simp] theorem State.setPositionTimers_mem (p : Fin 16) (x : Position) (s : State) :
    (s.setPositionTimers p x).mem = s.mem := rfl
@[simp] theorem State.setPositionTimers_path (p : Fin 16) (x : Position) (s : State) :
    (s.setPositionTimers p x).path = s.path := rfl
@[simp] theorem State.setPositionTimers_lines (p : Fin 16) (x : Position) (s : State) :
    (s.setPositionTimers p x).lines = s.lines := rfl
@[simp] theorem State.setPositionTimers_ends (p : Fin 16) (x : Position) (s : State) :
    (s.setPositionTimers p x).ends = s.ends := rfl
@[simp] theorem State.setPositionTimers_posts (p : Fin 16) (x : Position) (s : State) :
    (s.setPositionTimers p x).posts = s.posts := rfl
@[simp] theorem State.setPositionTimers_directory (p : Fin 16) (x : Position) (s : State) :
    (s.setPositionTimers p x).directory = s.directory := rfl
@[simp] theorem State.setPositionTimers_segments (p : Fin 16) (x : Position) (s : State) :
    (s.setPositionTimers p x).segments = s.segments := rfl
@[simp] theorem State.setPositionTimers_calls (p : Fin 16) (x : Position) (s : State) :
    (s.setPositionTimers p x).calls = s.calls := rfl
@[simp] theorem State.setPositionTimers_cluster (p : Fin 16) (x : Position) (s : State) :
    (s.setPositionTimers p x).cluster = s.cluster := rfl
@[simp] theorem State.setPositionTimers_speech (p : Fin 16) (x : Position) (s : State) :
    (s.setPositionTimers p x).speech = s.speech := rfl
@[simp] theorem State.setPositionTimers_reports (p : Fin 16) (x : Position) (s : State) :
    (s.setPositionTimers p x).reports = s.reports := rfl
@[simp] theorem State.setPositionTimers_engine (p : Fin 16) (x : Position) (s : State) :
    (s.setPositionTimers p x).engine = s.engine := rfl
@[simp] theorem State.setPositionTimers_dispatchDue (p : Fin 16) (x : Position) (s : State) :
    (s.setPositionTimers p x).dispatchDue = s.dispatchDue := rfl
@[simp] theorem State.setPositionTimers_commandResult (p : Fin 16) (x : Position) (s : State) :
    (s.setPositionTimers p x).commandResult = s.commandResult := rfl
@[simp] theorem State.setPositionTimers_pending (p : Fin 16) (x : Position) (s : State) :
    (s.setPositionTimers p x).pending = s.pending := rfl

/-! ### rejoinPolled -/

@[simp] theorem State.rejoinPolled_time (i : Fin 256) (s : State) : (s.rejoinPolled i).time = s.time := by
  simp only [State.rejoinPolled]; (repeat' split) <;> simp
@[simp] theorem State.rejoinPolled_mem (i : Fin 256) (s : State) : (s.rejoinPolled i).mem = s.mem := by
  simp only [State.rejoinPolled]; (repeat' split) <;> simp
@[simp] theorem State.rejoinPolled_path (i : Fin 256) (s : State) : (s.rejoinPolled i).path = s.path := by
  simp only [State.rejoinPolled]; (repeat' split) <;> simp
@[simp] theorem State.rejoinPolled_ends (i : Fin 256) (s : State) : (s.rejoinPolled i).ends = s.ends := by
  simp only [State.rejoinPolled]; (repeat' split) <;> simp
@[simp] theorem State.rejoinPolled_posts (i : Fin 256) (s : State) : (s.rejoinPolled i).posts = s.posts := by
  simp only [State.rejoinPolled]; (repeat' split) <;> simp
@[simp] theorem State.rejoinPolled_directory (i : Fin 256) (s : State) :
    (s.rejoinPolled i).directory = s.directory := by
  simp only [State.rejoinPolled]; (repeat' split) <;> simp
@[simp] theorem State.rejoinPolled_segments (i : Fin 256) (s : State) : (s.rejoinPolled i).segments = s.segments := by
  simp only [State.rejoinPolled]; (repeat' split) <;> simp
@[simp] theorem State.rejoinPolled_calls (i : Fin 256) (s : State) : (s.rejoinPolled i).calls = s.calls := by
  simp only [State.rejoinPolled]; (repeat' split) <;> simp
@[simp] theorem State.rejoinPolled_cluster (i : Fin 256) (s : State) : (s.rejoinPolled i).cluster = s.cluster := by
  simp only [State.rejoinPolled]; (repeat' split) <;> simp
@[simp] theorem State.rejoinPolled_positions (i : Fin 256) (s : State) :
    (s.rejoinPolled i).positions = s.positions := by
  simp only [State.rejoinPolled]; (repeat' split) <;> simp
@[simp] theorem State.rejoinPolled_speech (i : Fin 256) (s : State) : (s.rejoinPolled i).speech = s.speech := by
  simp only [State.rejoinPolled]; (repeat' split) <;> simp
@[simp] theorem State.rejoinPolled_reports (i : Fin 256) (s : State) : (s.rejoinPolled i).reports = s.reports := by
  simp only [State.rejoinPolled]; (repeat' split) <;> simp
@[simp] theorem State.rejoinPolled_engine (i : Fin 256) (s : State) : (s.rejoinPolled i).engine = s.engine := by
  simp only [State.rejoinPolled]; (repeat' split) <;> simp
@[simp] theorem State.rejoinPolled_dispatchDue (i : Fin 256) (s : State) :
    (s.rejoinPolled i).dispatchDue = s.dispatchDue := by
  simp only [State.rejoinPolled]; (repeat' split) <;> simp
@[simp] theorem State.rejoinPolled_commandResult (i : Fin 256) (s : State) :
    (s.rejoinPolled i).commandResult = s.commandResult := by
  simp only [State.rejoinPolled]; (repeat' split) <;> simp
@[simp] theorem State.rejoinPolled_pending (i : Fin 256) (s : State) : (s.rejoinPolled i).pending = s.pending := by
  simp only [State.rejoinPolled]; (repeat' split) <;> simp

/-! ### setPosition -/

@[simp] theorem State.setPosition_time (p : Fin 16) (x : Position) (s : State) :
    (s.setPosition p x).time = s.time := rfl
@[simp] theorem State.setPosition_mem (p : Fin 16) (x : Position) (s : State) : (s.setPosition p x).mem = s.mem := rfl
@[simp] theorem State.setPosition_path (p : Fin 16) (x : Position) (s : State) :
    (s.setPosition p x).path = s.path := rfl
@[simp] theorem State.setPosition_lines (p : Fin 16) (x : Position) (s : State) :
    (s.setPosition p x).lines = s.lines := rfl
@[simp] theorem State.setPosition_ends (p : Fin 16) (x : Position) (s : State) :
    (s.setPosition p x).ends = s.ends := rfl
@[simp] theorem State.setPosition_posts (p : Fin 16) (x : Position) (s : State) :
    (s.setPosition p x).posts = s.posts := rfl
@[simp] theorem State.setPosition_directory (p : Fin 16) (x : Position) (s : State) :
    (s.setPosition p x).directory = s.directory := rfl
@[simp] theorem State.setPosition_segments (p : Fin 16) (x : Position) (s : State) :
    (s.setPosition p x).segments = s.segments := rfl
@[simp] theorem State.setPosition_calls (p : Fin 16) (x : Position) (s : State) :
    (s.setPosition p x).calls = s.calls := rfl
@[simp] theorem State.setPosition_cluster (p : Fin 16) (x : Position) (s : State) :
    (s.setPosition p x).cluster = s.cluster := rfl
@[simp] theorem State.setPosition_speech (p : Fin 16) (x : Position) (s : State) :
    (s.setPosition p x).speech = s.speech := rfl
@[simp] theorem State.setPosition_engine (p : Fin 16) (x : Position) (s : State) :
    (s.setPosition p x).engine = s.engine := rfl
@[simp] theorem State.setPosition_dispatchDue (p : Fin 16) (x : Position) (s : State) :
    (s.setPosition p x).dispatchDue = s.dispatchDue := rfl
@[simp] theorem State.setPosition_commandResult (p : Fin 16) (x : Position) (s : State) :
    (s.setPosition p x).commandResult = s.commandResult := rfl
@[simp] theorem State.setPosition_pending (p : Fin 16) (x : Position) (s : State) :
    (s.setPosition p x).pending = s.pending := rfl

/-! ### setSegmentTimers -/

@[simp] theorem State.setSegmentTimers_time (g : Fin 8) (x : Segment) (s : State) :
    (s.setSegmentTimers g x).time = s.time := rfl
@[simp] theorem State.setSegmentTimers_mem (g : Fin 8) (x : Segment) (s : State) :
    (s.setSegmentTimers g x).mem = s.mem := rfl
@[simp] theorem State.setSegmentTimers_path (g : Fin 8) (x : Segment) (s : State) :
    (s.setSegmentTimers g x).path = s.path := rfl
@[simp] theorem State.setSegmentTimers_lines (g : Fin 8) (x : Segment) (s : State) :
    (s.setSegmentTimers g x).lines = s.lines := rfl
@[simp] theorem State.setSegmentTimers_ends (g : Fin 8) (x : Segment) (s : State) :
    (s.setSegmentTimers g x).ends = s.ends := rfl
@[simp] theorem State.setSegmentTimers_posts (g : Fin 8) (x : Segment) (s : State) :
    (s.setSegmentTimers g x).posts = s.posts := rfl
@[simp] theorem State.setSegmentTimers_directory (g : Fin 8) (x : Segment) (s : State) :
    (s.setSegmentTimers g x).directory = s.directory := rfl
@[simp] theorem State.setSegmentTimers_calls (g : Fin 8) (x : Segment) (s : State) :
    (s.setSegmentTimers g x).calls = s.calls := rfl
@[simp] theorem State.setSegmentTimers_cluster (g : Fin 8) (x : Segment) (s : State) :
    (s.setSegmentTimers g x).cluster = s.cluster := rfl
@[simp] theorem State.setSegmentTimers_positions (g : Fin 8) (x : Segment) (s : State) :
    (s.setSegmentTimers g x).positions = s.positions := rfl
@[simp] theorem State.setSegmentTimers_speech (g : Fin 8) (x : Segment) (s : State) :
    (s.setSegmentTimers g x).speech = s.speech := rfl
@[simp] theorem State.setSegmentTimers_reports (g : Fin 8) (x : Segment) (s : State) :
    (s.setSegmentTimers g x).reports = s.reports := rfl
@[simp] theorem State.setSegmentTimers_engine (g : Fin 8) (x : Segment) (s : State) :
    (s.setSegmentTimers g x).engine = s.engine := rfl
@[simp] theorem State.setSegmentTimers_dispatchDue (g : Fin 8) (x : Segment) (s : State) :
    (s.setSegmentTimers g x).dispatchDue = s.dispatchDue := rfl
@[simp] theorem State.setSegmentTimers_commandResult (g : Fin 8) (x : Segment) (s : State) :
    (s.setSegmentTimers g x).commandResult = s.commandResult := rfl
@[simp] theorem State.setSegmentTimers_pending (g : Fin 8) (x : Segment) (s : State) :
    (s.setSegmentTimers g x).pending = s.pending := rfl

/-! ### setSegment -/

@[simp] theorem State.setSegment_time (g : Fin 8) (x : Segment) (s : State) : (s.setSegment g x).time = s.time := by
  simp only [State.setSegment]; (repeat' split) <;> simp
@[simp] theorem State.setSegment_mem (g : Fin 8) (x : Segment) (s : State) : (s.setSegment g x).mem = s.mem := by
  simp only [State.setSegment]; (repeat' split) <;> simp
@[simp] theorem State.setSegment_path (g : Fin 8) (x : Segment) (s : State) : (s.setSegment g x).path = s.path := by
  simp only [State.setSegment]; (repeat' split) <;> simp
@[simp] theorem State.setSegment_lines (g : Fin 8) (x : Segment) (s : State) : (s.setSegment g x).lines = s.lines := by
  simp only [State.setSegment]; (repeat' split) <;> simp
@[simp] theorem State.setSegment_ends (g : Fin 8) (x : Segment) (s : State) : (s.setSegment g x).ends = s.ends := by
  simp only [State.setSegment]; (repeat' split) <;> simp
@[simp] theorem State.setSegment_posts (g : Fin 8) (x : Segment) (s : State) : (s.setSegment g x).posts = s.posts := by
  simp only [State.setSegment]; (repeat' split) <;> simp
@[simp] theorem State.setSegment_directory (g : Fin 8) (x : Segment) (s : State) :
    (s.setSegment g x).directory = s.directory := by
  simp only [State.setSegment]; (repeat' split) <;> simp
@[simp] theorem State.setSegment_calls (g : Fin 8) (x : Segment) (s : State) : (s.setSegment g x).calls = s.calls := by
  simp only [State.setSegment]; (repeat' split) <;> simp
@[simp] theorem State.setSegment_cluster (g : Fin 8) (x : Segment) (s : State) :
    (s.setSegment g x).cluster = s.cluster := by
  simp only [State.setSegment]; (repeat' split) <;> simp
@[simp] theorem State.setSegment_positions (g : Fin 8) (x : Segment) (s : State) :
    (s.setSegment g x).positions = s.positions := by
  simp only [State.setSegment]; (repeat' split) <;> simp
@[simp] theorem State.setSegment_speech (g : Fin 8) (x : Segment) (s : State) :
    (s.setSegment g x).speech = s.speech := by
  simp only [State.setSegment]; (repeat' split) <;> simp
@[simp] theorem State.setSegment_engine (g : Fin 8) (x : Segment) (s : State) :
    (s.setSegment g x).engine = s.engine := by
  simp only [State.setSegment]; (repeat' split) <;> simp
@[simp] theorem State.setSegment_dispatchDue (g : Fin 8) (x : Segment) (s : State) :
    (s.setSegment g x).dispatchDue = s.dispatchDue := by
  simp only [State.setSegment]; (repeat' split) <;> simp
@[simp] theorem State.setSegment_commandResult (g : Fin 8) (x : Segment) (s : State) :
    (s.setSegment g x).commandResult = s.commandResult := by
  simp only [State.setSegment]; (repeat' split) <;> simp
@[simp] theorem State.setSegment_pending (g : Fin 8) (x : Segment) (s : State) :
    (s.setSegment g x).pending = s.pending := by
  simp only [State.setSegment]; (repeat' split) <;> simp

/-! ### wantDispatch -/

@[simp] theorem State.wantDispatch_time (s : State) : s.wantDispatch.time = s.time := rfl
@[simp] theorem State.wantDispatch_mem (s : State) : s.wantDispatch.mem = s.mem := rfl
@[simp] theorem State.wantDispatch_path (s : State) : s.wantDispatch.path = s.path := rfl
@[simp] theorem State.wantDispatch_lines (s : State) : s.wantDispatch.lines = s.lines := rfl
@[simp] theorem State.wantDispatch_ends (s : State) : s.wantDispatch.ends = s.ends := rfl
@[simp] theorem State.wantDispatch_posts (s : State) : s.wantDispatch.posts = s.posts := rfl
@[simp] theorem State.wantDispatch_directory (s : State) : s.wantDispatch.directory = s.directory := rfl
@[simp] theorem State.wantDispatch_segments (s : State) : s.wantDispatch.segments = s.segments := rfl
@[simp] theorem State.wantDispatch_calls (s : State) : s.wantDispatch.calls = s.calls := rfl
@[simp] theorem State.wantDispatch_cluster (s : State) : s.wantDispatch.cluster = s.cluster := rfl
@[simp] theorem State.wantDispatch_positions (s : State) : s.wantDispatch.positions = s.positions := rfl
@[simp] theorem State.wantDispatch_speech (s : State) : s.wantDispatch.speech = s.speech := rfl
@[simp] theorem State.wantDispatch_reports (s : State) : s.wantDispatch.reports = s.reports := rfl
@[simp] theorem State.wantDispatch_engine (s : State) : s.wantDispatch.engine = s.engine := rfl
@[simp] theorem State.wantDispatch_commandResult (s : State) : s.wantDispatch.commandResult = s.commandResult := rfl
@[simp] theorem State.wantDispatch_pending (s : State) : s.wantDispatch.pending = s.pending := rfl

/-! ### syncService -/

@[simp] theorem State.syncService_time (i : Fin 256) (s : State) : (s.syncService i).time = s.time := rfl
@[simp] theorem State.syncService_mem (i : Fin 256) (s : State) : (s.syncService i).mem = s.mem := rfl
@[simp] theorem State.syncService_path (i : Fin 256) (s : State) : (s.syncService i).path = s.path := rfl
@[simp] theorem State.syncService_ends (i : Fin 256) (s : State) : (s.syncService i).ends = s.ends := rfl
@[simp] theorem State.syncService_posts (i : Fin 256) (s : State) : (s.syncService i).posts = s.posts := rfl
@[simp] theorem State.syncService_directory (i : Fin 256) (s : State) : (s.syncService i).directory = s.directory := rfl
@[simp] theorem State.syncService_segments (i : Fin 256) (s : State) : (s.syncService i).segments = s.segments := rfl
@[simp] theorem State.syncService_calls (i : Fin 256) (s : State) : (s.syncService i).calls = s.calls := rfl
@[simp] theorem State.syncService_cluster (i : Fin 256) (s : State) : (s.syncService i).cluster = s.cluster := rfl
@[simp] theorem State.syncService_positions (i : Fin 256) (s : State) : (s.syncService i).positions = s.positions := rfl
@[simp] theorem State.syncService_speech (i : Fin 256) (s : State) : (s.syncService i).speech = s.speech := rfl
@[simp] theorem State.syncService_reports (i : Fin 256) (s : State) : (s.syncService i).reports = s.reports := rfl
@[simp] theorem State.syncService_engine (i : Fin 256) (s : State) : (s.syncService i).engine = s.engine := rfl
@[simp] theorem State.syncService_dispatchDue (i : Fin 256) (s : State) :
    (s.syncService i).dispatchDue = s.dispatchDue := rfl
@[simp] theorem State.syncService_commandResult (i : Fin 256) (s : State) :
    (s.syncService i).commandResult = s.commandResult := rfl
@[simp] theorem State.syncService_pending (i : Fin 256) (s : State) : (s.syncService i).pending = s.pending := rfl

/-! ### setCommands -/

@[simp] theorem State.setCommands_time (i : Fin 256) (l : List PendingCommand) (s : State) :
    (s.setCommands i l).time = s.time := by simp [State.setCommands]
@[simp] theorem State.setCommands_mem (i : Fin 256) (l : List PendingCommand) (s : State) :
    (s.setCommands i l).mem = s.mem := by simp [State.setCommands]
@[simp] theorem State.setCommands_path (i : Fin 256) (l : List PendingCommand) (s : State) :
    (s.setCommands i l).path = s.path := by simp [State.setCommands]
@[simp] theorem State.setCommands_ends (i : Fin 256) (l : List PendingCommand) (s : State) :
    (s.setCommands i l).ends = s.ends := by simp [State.setCommands]
@[simp] theorem State.setCommands_directory (i : Fin 256) (l : List PendingCommand) (s : State) :
    (s.setCommands i l).directory = s.directory := by simp [State.setCommands]
@[simp] theorem State.setCommands_segments (i : Fin 256) (l : List PendingCommand) (s : State) :
    (s.setCommands i l).segments = s.segments := by simp [State.setCommands]
@[simp] theorem State.setCommands_calls (i : Fin 256) (l : List PendingCommand) (s : State) :
    (s.setCommands i l).calls = s.calls := by simp [State.setCommands]
@[simp] theorem State.setCommands_cluster (i : Fin 256) (l : List PendingCommand) (s : State) :
    (s.setCommands i l).cluster = s.cluster := by simp [State.setCommands]
@[simp] theorem State.setCommands_positions (i : Fin 256) (l : List PendingCommand) (s : State) :
    (s.setCommands i l).positions = s.positions := by simp [State.setCommands]
@[simp] theorem State.setCommands_speech (i : Fin 256) (l : List PendingCommand) (s : State) :
    (s.setCommands i l).speech = s.speech := by simp [State.setCommands]
@[simp] theorem State.setCommands_engine (i : Fin 256) (l : List PendingCommand) (s : State) :
    (s.setCommands i l).engine = s.engine := by simp [State.setCommands]
@[simp] theorem State.setCommands_dispatchDue (i : Fin 256) (l : List PendingCommand) (s : State) :
    (s.setCommands i l).dispatchDue = s.dispatchDue := by simp [State.setCommands]
@[simp] theorem State.setCommands_commandResult (i : Fin 256) (l : List PendingCommand) (s : State) :
    (s.setCommands i l).commandResult = s.commandResult := by simp [State.setCommands]
@[simp] theorem State.setCommands_pending (i : Fin 256) (l : List PendingCommand) (s : State) :
    (s.setCommands i l).pending = s.pending := by simp [State.setCommands]

/-! ### loseTest -/

@[simp] theorem State.loseTest_time (i : Fin 256) (b : Bool) (s : State) : (s.loseTest i b).time = s.time := by
  simp only [State.loseTest]; (repeat' split) <;> simp
@[simp] theorem State.loseTest_mem (i : Fin 256) (b : Bool) (s : State) : (s.loseTest i b).mem = s.mem := by
  simp only [State.loseTest]; (repeat' split) <;> simp
@[simp] theorem State.loseTest_path (i : Fin 256) (b : Bool) (s : State) : (s.loseTest i b).path = s.path := by
  simp only [State.loseTest]; (repeat' split) <;> simp
@[simp] theorem State.loseTest_ends (i : Fin 256) (b : Bool) (s : State) : (s.loseTest i b).ends = s.ends := by
  simp only [State.loseTest]; (repeat' split) <;> simp
@[simp] theorem State.loseTest_directory (i : Fin 256) (b : Bool) (s : State) :
    (s.loseTest i b).directory = s.directory := by
  simp only [State.loseTest]; (repeat' split) <;> simp
@[simp] theorem State.loseTest_segments (i : Fin 256) (b : Bool) (s : State) :
    (s.loseTest i b).segments = s.segments := by
  simp only [State.loseTest]; (repeat' split) <;> simp
@[simp] theorem State.loseTest_calls (i : Fin 256) (b : Bool) (s : State) : (s.loseTest i b).calls = s.calls := by
  simp only [State.loseTest]; (repeat' split) <;> simp
@[simp] theorem State.loseTest_cluster (i : Fin 256) (b : Bool) (s : State) : (s.loseTest i b).cluster = s.cluster := by
  simp only [State.loseTest]; (repeat' split) <;> simp
@[simp] theorem State.loseTest_positions (i : Fin 256) (b : Bool) (s : State) :
    (s.loseTest i b).positions = s.positions := by
  simp only [State.loseTest]; (repeat' split) <;> simp
@[simp] theorem State.loseTest_speech (i : Fin 256) (b : Bool) (s : State) : (s.loseTest i b).speech = s.speech := by
  simp only [State.loseTest]; (repeat' split) <;> simp
@[simp] theorem State.loseTest_engine (i : Fin 256) (b : Bool) (s : State) : (s.loseTest i b).engine = s.engine := by
  simp only [State.loseTest]; (repeat' split) <;> simp
@[simp] theorem State.loseTest_dispatchDue (i : Fin 256) (b : Bool) (s : State) :
    (s.loseTest i b).dispatchDue = s.dispatchDue := by
  simp only [State.loseTest]; (repeat' split) <;> simp
@[simp] theorem State.loseTest_commandResult (i : Fin 256) (b : Bool) (s : State) :
    (s.loseTest i b).commandResult = s.commandResult := by
  simp only [State.loseTest]; (repeat' split) <;> simp
@[simp] theorem State.loseTest_pending (i : Fin 256) (b : Bool) (s : State) : (s.loseTest i b).pending = s.pending := by
  simp only [State.loseTest]; (repeat' split) <;> simp

/-! ### emptyCommands -/

@[simp] theorem State.emptyCommands_time (i : Fin 256) (b : Bool) (s : State) :
    (s.emptyCommands i b).time = s.time := by
  simp only [State.emptyCommands]; (repeat' split) <;> simp
@[simp] theorem State.emptyCommands_mem (i : Fin 256) (b : Bool) (s : State) : (s.emptyCommands i b).mem = s.mem := by
  simp only [State.emptyCommands]; (repeat' split) <;> simp
@[simp] theorem State.emptyCommands_path (i : Fin 256) (b : Bool) (s : State) :
    (s.emptyCommands i b).path = s.path := by
  simp only [State.emptyCommands]; (repeat' split) <;> simp
@[simp] theorem State.emptyCommands_ends (i : Fin 256) (b : Bool) (s : State) :
    (s.emptyCommands i b).ends = s.ends := by
  simp only [State.emptyCommands]; (repeat' split) <;> simp
@[simp] theorem State.emptyCommands_directory (i : Fin 256) (b : Bool) (s : State) :
    (s.emptyCommands i b).directory = s.directory := by
  simp only [State.emptyCommands]; (repeat' split) <;> simp
@[simp] theorem State.emptyCommands_segments (i : Fin 256) (b : Bool) (s : State) :
    (s.emptyCommands i b).segments = s.segments := by
  simp only [State.emptyCommands]; (repeat' split) <;> simp
@[simp] theorem State.emptyCommands_calls (i : Fin 256) (b : Bool) (s : State) :
    (s.emptyCommands i b).calls = s.calls := by
  simp only [State.emptyCommands]; (repeat' split) <;> simp
@[simp] theorem State.emptyCommands_cluster (i : Fin 256) (b : Bool) (s : State) :
    (s.emptyCommands i b).cluster = s.cluster := by
  simp only [State.emptyCommands]; (repeat' split) <;> simp
@[simp] theorem State.emptyCommands_positions (i : Fin 256) (b : Bool) (s : State) :
    (s.emptyCommands i b).positions = s.positions := by
  simp only [State.emptyCommands]; (repeat' split) <;> simp
@[simp] theorem State.emptyCommands_speech (i : Fin 256) (b : Bool) (s : State) :
    (s.emptyCommands i b).speech = s.speech := by
  simp only [State.emptyCommands]; (repeat' split) <;> simp
@[simp] theorem State.emptyCommands_engine (i : Fin 256) (b : Bool) (s : State) :
    (s.emptyCommands i b).engine = s.engine := by
  simp only [State.emptyCommands]; (repeat' split) <;> simp
@[simp] theorem State.emptyCommands_dispatchDue (i : Fin 256) (b : Bool) (s : State) :
    (s.emptyCommands i b).dispatchDue = s.dispatchDue := by
  simp only [State.emptyCommands]; (repeat' split) <;> simp
@[simp] theorem State.emptyCommands_commandResult (i : Fin 256) (b : Bool) (s : State) :
    (s.emptyCommands i b).commandResult = s.commandResult := by
  simp only [State.emptyCommands]; (repeat' split) <;> simp
@[simp] theorem State.emptyCommands_pending (i : Fin 256) (b : Bool) (s : State) :
    (s.emptyCommands i b).pending = s.pending := by
  simp only [State.emptyCommands]; (repeat' split) <;> simp

/-! ### setSide -/

@[simp] theorem State.setSide_time (i : Fin 256) (d : Side) (s : State) : (s.setSide i d).time = s.time := by
  simp only [State.setSide]; (repeat' split) <;> simp
@[simp] theorem State.setSide_mem (i : Fin 256) (d : Side) (s : State) : (s.setSide i d).mem = s.mem := by
  simp only [State.setSide]; (repeat' split) <;> simp
@[simp] theorem State.setSide_path (i : Fin 256) (d : Side) (s : State) : (s.setSide i d).path = s.path := by
  simp only [State.setSide]; (repeat' split) <;> simp
@[simp] theorem State.setSide_ends (i : Fin 256) (d : Side) (s : State) : (s.setSide i d).ends = s.ends := by
  simp only [State.setSide]; (repeat' split) <;> simp
@[simp] theorem State.setSide_directory (i : Fin 256) (d : Side) (s : State) :
    (s.setSide i d).directory = s.directory := by
  simp only [State.setSide]; (repeat' split) <;> simp
@[simp] theorem State.setSide_segments (i : Fin 256) (d : Side) (s : State) :
    (s.setSide i d).segments = s.segments := by
  simp only [State.setSide]; (repeat' split) <;> simp
@[simp] theorem State.setSide_calls (i : Fin 256) (d : Side) (s : State) : (s.setSide i d).calls = s.calls := by
  simp only [State.setSide]; (repeat' split) <;> simp
@[simp] theorem State.setSide_cluster (i : Fin 256) (d : Side) (s : State) : (s.setSide i d).cluster = s.cluster := by
  simp only [State.setSide]; (repeat' split) <;> simp
@[simp] theorem State.setSide_positions (i : Fin 256) (d : Side) (s : State) :
    (s.setSide i d).positions = s.positions := by
  simp only [State.setSide]; (repeat' split) <;> simp
@[simp] theorem State.setSide_speech (i : Fin 256) (d : Side) (s : State) : (s.setSide i d).speech = s.speech := by
  simp only [State.setSide]; (repeat' split) <;> simp
@[simp] theorem State.setSide_engine (i : Fin 256) (d : Side) (s : State) : (s.setSide i d).engine = s.engine := by
  simp only [State.setSide]; (repeat' split) <;> simp
@[simp] theorem State.setSide_dispatchDue (i : Fin 256) (d : Side) (s : State) :
    (s.setSide i d).dispatchDue = s.dispatchDue := by
  simp only [State.setSide]; (repeat' split) <;> simp
@[simp] theorem State.setSide_commandResult (i : Fin 256) (d : Side) (s : State) :
    (s.setSide i d).commandResult = s.commandResult := by
  simp only [State.setSide]; (repeat' split) <;> simp
@[simp] theorem State.setSide_pending (i : Fin 256) (d : Side) (s : State) : (s.setSide i d).pending = s.pending := by
  simp only [State.setSide]; (repeat' split) <;> simp

/-! ### modifyCall -/

@[simp] theorem State.modifyCall_time (r : Fin 64) (f : Call → Call) (s : State) :
    (s.modifyCall r f).time = s.time := by
  simp only [State.modifyCall]; (repeat' split) <;> simp
@[simp] theorem State.modifyCall_mem (r : Fin 64) (f : Call → Call) (s : State) : (s.modifyCall r f).mem = s.mem := by
  simp only [State.modifyCall]; (repeat' split) <;> simp
@[simp] theorem State.modifyCall_path (r : Fin 64) (f : Call → Call) (s : State) :
    (s.modifyCall r f).path = s.path := by
  simp only [State.modifyCall]; (repeat' split) <;> simp
@[simp] theorem State.modifyCall_lines (r : Fin 64) (f : Call → Call) (s : State) :
    (s.modifyCall r f).lines = s.lines := by
  simp only [State.modifyCall]; (repeat' split) <;> simp
@[simp] theorem State.modifyCall_ends (r : Fin 64) (f : Call → Call) (s : State) :
    (s.modifyCall r f).ends = s.ends := by
  simp only [State.modifyCall]; (repeat' split) <;> simp
@[simp] theorem State.modifyCall_posts (r : Fin 64) (f : Call → Call) (s : State) :
    (s.modifyCall r f).posts = s.posts := by
  simp only [State.modifyCall]; (repeat' split) <;> simp
@[simp] theorem State.modifyCall_directory (r : Fin 64) (f : Call → Call) (s : State) :
    (s.modifyCall r f).directory = s.directory := by
  simp only [State.modifyCall]; (repeat' split) <;> simp
@[simp] theorem State.modifyCall_segments (r : Fin 64) (f : Call → Call) (s : State) :
    (s.modifyCall r f).segments = s.segments := by
  simp only [State.modifyCall]; (repeat' split) <;> simp
@[simp] theorem State.modifyCall_cluster (r : Fin 64) (f : Call → Call) (s : State) :
    (s.modifyCall r f).cluster = s.cluster := by
  simp only [State.modifyCall]; (repeat' split) <;> simp
@[simp] theorem State.modifyCall_positions (r : Fin 64) (f : Call → Call) (s : State) :
    (s.modifyCall r f).positions = s.positions := by
  simp only [State.modifyCall]; (repeat' split) <;> simp
@[simp] theorem State.modifyCall_speech (r : Fin 64) (f : Call → Call) (s : State) :
    (s.modifyCall r f).speech = s.speech := by
  simp only [State.modifyCall]; (repeat' split) <;> simp
@[simp] theorem State.modifyCall_reports (r : Fin 64) (f : Call → Call) (s : State) :
    (s.modifyCall r f).reports = s.reports := by
  simp only [State.modifyCall]; (repeat' split) <;> simp
@[simp] theorem State.modifyCall_engine (r : Fin 64) (f : Call → Call) (s : State) :
    (s.modifyCall r f).engine = s.engine := by
  simp only [State.modifyCall]; (repeat' split) <;> simp
@[simp] theorem State.modifyCall_dispatchDue (r : Fin 64) (f : Call → Call) (s : State) :
    (s.modifyCall r f).dispatchDue = s.dispatchDue := by
  simp only [State.modifyCall]; (repeat' split) <;> simp
@[simp] theorem State.modifyCall_commandResult (r : Fin 64) (f : Call → Call) (s : State) :
    (s.modifyCall r f).commandResult = s.commandResult := by
  simp only [State.modifyCall]; (repeat' split) <;> simp
@[simp] theorem State.modifyCall_pending (r : Fin 64) (f : Call → Call) (s : State) :
    (s.modifyCall r f).pending = s.pending := by
  simp only [State.modifyCall]; (repeat' split) <;> simp

/-! ### setChannel -/

@[simp] theorem State.setChannel_time (g : Fin 8) (c : Fin 4) (x : Channel) (s : State) :
    (s.setChannel g c x).time = s.time := rfl
@[simp] theorem State.setChannel_mem (g : Fin 8) (c : Fin 4) (x : Channel) (s : State) :
    (s.setChannel g c x).mem = s.mem := rfl
@[simp] theorem State.setChannel_path (g : Fin 8) (c : Fin 4) (x : Channel) (s : State) :
    (s.setChannel g c x).path = s.path := rfl
@[simp] theorem State.setChannel_lines (g : Fin 8) (c : Fin 4) (x : Channel) (s : State) :
    (s.setChannel g c x).lines = s.lines := rfl
@[simp] theorem State.setChannel_ends (g : Fin 8) (c : Fin 4) (x : Channel) (s : State) :
    (s.setChannel g c x).ends = s.ends := rfl
@[simp] theorem State.setChannel_posts (g : Fin 8) (c : Fin 4) (x : Channel) (s : State) :
    (s.setChannel g c x).posts = s.posts := rfl
@[simp] theorem State.setChannel_directory (g : Fin 8) (c : Fin 4) (x : Channel) (s : State) :
    (s.setChannel g c x).directory = s.directory := rfl
@[simp] theorem State.setChannel_segments (g : Fin 8) (c : Fin 4) (x : Channel) (s : State) :
    (s.setChannel g c x).segments = s.segments := rfl
@[simp] theorem State.setChannel_calls (g : Fin 8) (c : Fin 4) (x : Channel) (s : State) :
    (s.setChannel g c x).calls = s.calls := rfl
@[simp] theorem State.setChannel_cluster (g : Fin 8) (c : Fin 4) (x : Channel) (s : State) :
    (s.setChannel g c x).cluster = s.cluster := rfl
@[simp] theorem State.setChannel_positions (g : Fin 8) (c : Fin 4) (x : Channel) (s : State) :
    (s.setChannel g c x).positions = s.positions := rfl
@[simp] theorem State.setChannel_engine (g : Fin 8) (c : Fin 4) (x : Channel) (s : State) :
    (s.setChannel g c x).engine = s.engine := rfl
@[simp] theorem State.setChannel_dispatchDue (g : Fin 8) (c : Fin 4) (x : Channel) (s : State) :
    (s.setChannel g c x).dispatchDue = s.dispatchDue := rfl
@[simp] theorem State.setChannel_commandResult (g : Fin 8) (c : Fin 4) (x : Channel) (s : State) :
    (s.setChannel g c x).commandResult = s.commandResult := rfl
@[simp] theorem State.setChannel_pending (g : Fin 8) (c : Fin 4) (x : Channel) (s : State) :
    (s.setChannel g c x).pending = s.pending := rfl

/-! ### setConnection -/

@[simp] theorem State.setConnection_time (p : Fin 16) (x : Option Connection) (s : State) :
    (s.setConnection p x).time = s.time := rfl
@[simp] theorem State.setConnection_mem (p : Fin 16) (x : Option Connection) (s : State) :
    (s.setConnection p x).mem = s.mem := rfl
@[simp] theorem State.setConnection_path (p : Fin 16) (x : Option Connection) (s : State) :
    (s.setConnection p x).path = s.path := rfl
@[simp] theorem State.setConnection_lines (p : Fin 16) (x : Option Connection) (s : State) :
    (s.setConnection p x).lines = s.lines := rfl
@[simp] theorem State.setConnection_ends (p : Fin 16) (x : Option Connection) (s : State) :
    (s.setConnection p x).ends = s.ends := rfl
@[simp] theorem State.setConnection_posts (p : Fin 16) (x : Option Connection) (s : State) :
    (s.setConnection p x).posts = s.posts := rfl
@[simp] theorem State.setConnection_directory (p : Fin 16) (x : Option Connection) (s : State) :
    (s.setConnection p x).directory = s.directory := rfl
@[simp] theorem State.setConnection_segments (p : Fin 16) (x : Option Connection) (s : State) :
    (s.setConnection p x).segments = s.segments := rfl
@[simp] theorem State.setConnection_calls (p : Fin 16) (x : Option Connection) (s : State) :
    (s.setConnection p x).calls = s.calls := rfl
@[simp] theorem State.setConnection_cluster (p : Fin 16) (x : Option Connection) (s : State) :
    (s.setConnection p x).cluster = s.cluster := rfl
@[simp] theorem State.setConnection_positions (p : Fin 16) (x : Option Connection) (s : State) :
    (s.setConnection p x).positions = s.positions := rfl
@[simp] theorem State.setConnection_reports (p : Fin 16) (x : Option Connection) (s : State) :
    (s.setConnection p x).reports = s.reports := rfl
@[simp] theorem State.setConnection_engine (p : Fin 16) (x : Option Connection) (s : State) :
    (s.setConnection p x).engine = s.engine := rfl
@[simp] theorem State.setConnection_dispatchDue (p : Fin 16) (x : Option Connection) (s : State) :
    (s.setConnection p x).dispatchDue = s.dispatchDue := rfl
@[simp] theorem State.setConnection_commandResult (p : Fin 16) (x : Option Connection) (s : State) :
    (s.setConnection p x).commandResult = s.commandResult := rfl
@[simp] theorem State.setConnection_pending (p : Fin 16) (x : Option Connection) (s : State) :
    (s.setConnection p x).pending = s.pending := rfl

/-! ### placePosition -/

@[simp] theorem State.placePosition_time (p : Fin 16) (x : Position) (s : State) :
    (s.placePosition p x).time = s.time := by
  simp only [State.placePosition]; (repeat' split) <;> simp
@[simp] theorem State.placePosition_mem (p : Fin 16) (x : Position) (s : State) :
    (s.placePosition p x).mem = s.mem := by
  simp only [State.placePosition]; (repeat' split) <;> simp
@[simp] theorem State.placePosition_path (p : Fin 16) (x : Position) (s : State) :
    (s.placePosition p x).path = s.path := by
  simp only [State.placePosition]; (repeat' split) <;> simp
@[simp] theorem State.placePosition_lines (p : Fin 16) (x : Position) (s : State) :
    (s.placePosition p x).lines = s.lines := by
  simp only [State.placePosition]; (repeat' split) <;> simp
@[simp] theorem State.placePosition_ends (p : Fin 16) (x : Position) (s : State) :
    (s.placePosition p x).ends = s.ends := by
  simp only [State.placePosition]; (repeat' split) <;> simp
@[simp] theorem State.placePosition_posts (p : Fin 16) (x : Position) (s : State) :
    (s.placePosition p x).posts = s.posts := by
  simp only [State.placePosition]; (repeat' split) <;> simp
@[simp] theorem State.placePosition_directory (p : Fin 16) (x : Position) (s : State) :
    (s.placePosition p x).directory = s.directory := by
  simp only [State.placePosition]; (repeat' split) <;> simp
@[simp] theorem State.placePosition_segments (p : Fin 16) (x : Position) (s : State) :
    (s.placePosition p x).segments = s.segments := by
  simp only [State.placePosition]; (repeat' split) <;> simp
@[simp] theorem State.placePosition_calls (p : Fin 16) (x : Position) (s : State) :
    (s.placePosition p x).calls = s.calls := by
  simp only [State.placePosition]; (repeat' split) <;> simp
@[simp] theorem State.placePosition_cluster (p : Fin 16) (x : Position) (s : State) :
    (s.placePosition p x).cluster = s.cluster := by
  simp only [State.placePosition]; (repeat' split) <;> simp
@[simp] theorem State.placePosition_speech (p : Fin 16) (x : Position) (s : State) :
    (s.placePosition p x).speech = s.speech := by
  simp only [State.placePosition]; (repeat' split) <;> simp
@[simp] theorem State.placePosition_engine (p : Fin 16) (x : Position) (s : State) :
    (s.placePosition p x).engine = s.engine := by
  simp only [State.placePosition]; (repeat' split) <;> simp
@[simp] theorem State.placePosition_commandResult (p : Fin 16) (x : Position) (s : State) :
    (s.placePosition p x).commandResult = s.commandResult := by
  simp only [State.placePosition]; (repeat' split) <;> simp
@[simp] theorem State.placePosition_pending (p : Fin 16) (x : Position) (s : State) :
    (s.placePosition p x).pending = s.pending := by
  simp only [State.placePosition]; (repeat' split) <;> simp

/-! ### setOverflow -/

@[simp] theorem State.setOverflow_time (b : Bool) (s : State) : (s.setOverflow b).time = s.time := rfl
@[simp] theorem State.setOverflow_mem (b : Bool) (s : State) : (s.setOverflow b).mem = s.mem := rfl
@[simp] theorem State.setOverflow_lines (b : Bool) (s : State) : (s.setOverflow b).lines = s.lines := rfl
@[simp] theorem State.setOverflow_ends (b : Bool) (s : State) : (s.setOverflow b).ends = s.ends := rfl
@[simp] theorem State.setOverflow_posts (b : Bool) (s : State) : (s.setOverflow b).posts = s.posts := rfl
@[simp] theorem State.setOverflow_directory (b : Bool) (s : State) : (s.setOverflow b).directory = s.directory := rfl
@[simp] theorem State.setOverflow_segments (b : Bool) (s : State) : (s.setOverflow b).segments = s.segments := rfl
@[simp] theorem State.setOverflow_cluster (b : Bool) (s : State) : (s.setOverflow b).cluster = s.cluster := rfl
@[simp] theorem State.setOverflow_positions (b : Bool) (s : State) : (s.setOverflow b).positions = s.positions := rfl
@[simp] theorem State.setOverflow_speech (b : Bool) (s : State) : (s.setOverflow b).speech = s.speech := rfl
@[simp] theorem State.setOverflow_dispatchDue (b : Bool) (s : State) :
    (s.setOverflow b).dispatchDue = s.dispatchDue := rfl
@[simp] theorem State.setOverflow_commandResult (b : Bool) (s : State) :
    (s.setOverflow b).commandResult = s.commandResult := rfl
@[simp] theorem State.setOverflow_pending (b : Bool) (s : State) : (s.setOverflow b).pending = s.pending := rfl

/-! ### judgeOverflow -/

@[simp] theorem State.judgeOverflow_time (s : State) : s.judgeOverflow.time = s.time := by
  simp only [State.judgeOverflow]; (repeat' split) <;> simp
@[simp] theorem State.judgeOverflow_mem (s : State) : s.judgeOverflow.mem = s.mem := by
  simp only [State.judgeOverflow]; (repeat' split) <;> simp
@[simp] theorem State.judgeOverflow_lines (s : State) : s.judgeOverflow.lines = s.lines := by
  simp only [State.judgeOverflow]; (repeat' split) <;> simp
@[simp] theorem State.judgeOverflow_ends (s : State) : s.judgeOverflow.ends = s.ends := by
  simp only [State.judgeOverflow]; (repeat' split) <;> simp
@[simp] theorem State.judgeOverflow_posts (s : State) : s.judgeOverflow.posts = s.posts := by
  simp only [State.judgeOverflow]; (repeat' split) <;> simp
@[simp] theorem State.judgeOverflow_directory (s : State) : s.judgeOverflow.directory = s.directory := by
  simp only [State.judgeOverflow]; (repeat' split) <;> simp
@[simp] theorem State.judgeOverflow_segments (s : State) : s.judgeOverflow.segments = s.segments := by
  simp only [State.judgeOverflow]; (repeat' split) <;> simp
@[simp] theorem State.judgeOverflow_cluster (s : State) : s.judgeOverflow.cluster = s.cluster := by
  simp only [State.judgeOverflow]; (repeat' split) <;> simp
@[simp] theorem State.judgeOverflow_positions (s : State) : s.judgeOverflow.positions = s.positions := by
  simp only [State.judgeOverflow]; (repeat' split) <;> simp
@[simp] theorem State.judgeOverflow_speech (s : State) : s.judgeOverflow.speech = s.speech := by
  simp only [State.judgeOverflow]; (repeat' split) <;> simp
@[simp] theorem State.judgeOverflow_dispatchDue (s : State) : s.judgeOverflow.dispatchDue = s.dispatchDue := by
  simp only [State.judgeOverflow]; (repeat' split) <;> simp
@[simp] theorem State.judgeOverflow_commandResult (s : State) : s.judgeOverflow.commandResult = s.commandResult := by
  simp only [State.judgeOverflow]; (repeat' split) <;> simp
@[simp] theorem State.judgeOverflow_pending (s : State) : s.judgeOverflow.pending = s.pending := by
  simp only [State.judgeOverflow]; (repeat' split) <;> simp

/-! ### joinQueue -/

@[simp] theorem State.joinQueue_time (r : Fin 64) (s : State) : (s.joinQueue r).time = s.time := rfl
@[simp] theorem State.joinQueue_mem (r : Fin 64) (s : State) : (s.joinQueue r).mem = s.mem := rfl
@[simp] theorem State.joinQueue_path (r : Fin 64) (s : State) : (s.joinQueue r).path = s.path := rfl
@[simp] theorem State.joinQueue_lines (r : Fin 64) (s : State) : (s.joinQueue r).lines = s.lines := rfl
@[simp] theorem State.joinQueue_ends (r : Fin 64) (s : State) : (s.joinQueue r).ends = s.ends := rfl
@[simp] theorem State.joinQueue_posts (r : Fin 64) (s : State) : (s.joinQueue r).posts = s.posts := rfl
@[simp] theorem State.joinQueue_directory (r : Fin 64) (s : State) : (s.joinQueue r).directory = s.directory := rfl
@[simp] theorem State.joinQueue_segments (r : Fin 64) (s : State) : (s.joinQueue r).segments = s.segments := rfl
@[simp] theorem State.joinQueue_cluster (r : Fin 64) (s : State) : (s.joinQueue r).cluster = s.cluster := rfl
@[simp] theorem State.joinQueue_positions (r : Fin 64) (s : State) : (s.joinQueue r).positions = s.positions := rfl
@[simp] theorem State.joinQueue_speech (r : Fin 64) (s : State) : (s.joinQueue r).speech = s.speech := rfl
@[simp] theorem State.joinQueue_engine (r : Fin 64) (s : State) : (s.joinQueue r).engine = s.engine := rfl
@[simp] theorem State.joinQueue_dispatchDue (r : Fin 64) (s : State) :
    (s.joinQueue r).dispatchDue = s.dispatchDue := rfl
@[simp] theorem State.joinQueue_commandResult (r : Fin 64) (s : State) :
    (s.joinQueue r).commandResult = s.commandResult := rfl
@[simp] theorem State.joinQueue_pending (r : Fin 64) (s : State) : (s.joinQueue r).pending = s.pending := rfl

/-! ### leaveQueue -/

@[simp] theorem State.leaveQueue_time (r : Fin 64) (s : State) : (s.leaveQueue r).time = s.time := rfl
@[simp] theorem State.leaveQueue_mem (r : Fin 64) (s : State) : (s.leaveQueue r).mem = s.mem := rfl
@[simp] theorem State.leaveQueue_path (r : Fin 64) (s : State) : (s.leaveQueue r).path = s.path := rfl
@[simp] theorem State.leaveQueue_lines (r : Fin 64) (s : State) : (s.leaveQueue r).lines = s.lines := rfl
@[simp] theorem State.leaveQueue_ends (r : Fin 64) (s : State) : (s.leaveQueue r).ends = s.ends := rfl
@[simp] theorem State.leaveQueue_posts (r : Fin 64) (s : State) : (s.leaveQueue r).posts = s.posts := rfl
@[simp] theorem State.leaveQueue_directory (r : Fin 64) (s : State) : (s.leaveQueue r).directory = s.directory := rfl
@[simp] theorem State.leaveQueue_segments (r : Fin 64) (s : State) : (s.leaveQueue r).segments = s.segments := rfl
@[simp] theorem State.leaveQueue_cluster (r : Fin 64) (s : State) : (s.leaveQueue r).cluster = s.cluster := rfl
@[simp] theorem State.leaveQueue_positions (r : Fin 64) (s : State) : (s.leaveQueue r).positions = s.positions := rfl
@[simp] theorem State.leaveQueue_speech (r : Fin 64) (s : State) : (s.leaveQueue r).speech = s.speech := rfl
@[simp] theorem State.leaveQueue_engine (r : Fin 64) (s : State) : (s.leaveQueue r).engine = s.engine := rfl
@[simp] theorem State.leaveQueue_dispatchDue (r : Fin 64) (s : State) :
    (s.leaveQueue r).dispatchDue = s.dispatchDue := rfl
@[simp] theorem State.leaveQueue_commandResult (r : Fin 64) (s : State) :
    (s.leaveQueue r).commandResult = s.commandResult := rfl
@[simp] theorem State.leaveQueue_pending (r : Fin 64) (s : State) : (s.leaveQueue r).pending = s.pending := rfl

/-! ### returnToQueue -/

@[simp] theorem State.returnToQueue_time (r : Fin 64) (s : State) :
    (s.returnToQueue r).time = s.time := by simp [State.returnToQueue]
@[simp] theorem State.returnToQueue_mem (r : Fin 64) (s : State) :
    (s.returnToQueue r).mem = s.mem := by simp [State.returnToQueue]
@[simp] theorem State.returnToQueue_lines (r : Fin 64) (s : State) :
    (s.returnToQueue r).lines = s.lines := by simp [State.returnToQueue]
@[simp] theorem State.returnToQueue_ends (r : Fin 64) (s : State) :
    (s.returnToQueue r).ends = s.ends := by simp [State.returnToQueue]
@[simp] theorem State.returnToQueue_posts (r : Fin 64) (s : State) :
    (s.returnToQueue r).posts = s.posts := by simp [State.returnToQueue]
@[simp] theorem State.returnToQueue_directory (r : Fin 64) (s : State) :
    (s.returnToQueue r).directory = s.directory := by simp [State.returnToQueue]
@[simp] theorem State.returnToQueue_segments (r : Fin 64) (s : State) :
    (s.returnToQueue r).segments = s.segments := by simp [State.returnToQueue]
@[simp] theorem State.returnToQueue_cluster (r : Fin 64) (s : State) :
    (s.returnToQueue r).cluster = s.cluster := by simp [State.returnToQueue]
@[simp] theorem State.returnToQueue_positions (r : Fin 64) (s : State) :
    (s.returnToQueue r).positions = s.positions := by simp [State.returnToQueue]
@[simp] theorem State.returnToQueue_speech (r : Fin 64) (s : State) :
    (s.returnToQueue r).speech = s.speech := by simp [State.returnToQueue]
@[simp] theorem State.returnToQueue_commandResult (r : Fin 64) (s : State) :
    (s.returnToQueue r).commandResult = s.commandResult := by simp [State.returnToQueue]
@[simp] theorem State.returnToQueue_pending (r : Fin 64) (s : State) :
    (s.returnToQueue r).pending = s.pending := by simp [State.returnToQueue]

/-! ### setDeferrals -/

@[simp] theorem State.setDeferrals_time (l : List Deferral) (s : State) : (s.setDeferrals l).time = s.time := by
  simp only [State.setDeferrals]; (repeat' split) <;> simp
@[simp] theorem State.setDeferrals_mem (l : List Deferral) (s : State) : (s.setDeferrals l).mem = s.mem := by
  simp only [State.setDeferrals]; (repeat' split) <;> simp
@[simp] theorem State.setDeferrals_path (l : List Deferral) (s : State) : (s.setDeferrals l).path = s.path := by
  simp only [State.setDeferrals]; (repeat' split) <;> simp
@[simp] theorem State.setDeferrals_lines (l : List Deferral) (s : State) : (s.setDeferrals l).lines = s.lines := by
  simp only [State.setDeferrals]; (repeat' split) <;> simp
@[simp] theorem State.setDeferrals_ends (l : List Deferral) (s : State) : (s.setDeferrals l).ends = s.ends := by
  simp only [State.setDeferrals]; (repeat' split) <;> simp
@[simp] theorem State.setDeferrals_posts (l : List Deferral) (s : State) : (s.setDeferrals l).posts = s.posts := by
  simp only [State.setDeferrals]; (repeat' split) <;> simp
@[simp] theorem State.setDeferrals_directory (l : List Deferral) (s : State) :
    (s.setDeferrals l).directory = s.directory := by
  simp only [State.setDeferrals]; (repeat' split) <;> simp
@[simp] theorem State.setDeferrals_segments (l : List Deferral) (s : State) :
    (s.setDeferrals l).segments = s.segments := by
  simp only [State.setDeferrals]; (repeat' split) <;> simp
@[simp] theorem State.setDeferrals_cluster (l : List Deferral) (s : State) :
    (s.setDeferrals l).cluster = s.cluster := by
  simp only [State.setDeferrals]; (repeat' split) <;> simp
@[simp] theorem State.setDeferrals_positions (l : List Deferral) (s : State) :
    (s.setDeferrals l).positions = s.positions := by
  simp only [State.setDeferrals]; (repeat' split) <;> simp
@[simp] theorem State.setDeferrals_speech (l : List Deferral) (s : State) : (s.setDeferrals l).speech = s.speech := by
  simp only [State.setDeferrals]; (repeat' split) <;> simp
@[simp] theorem State.setDeferrals_engine (l : List Deferral) (s : State) : (s.setDeferrals l).engine = s.engine := by
  simp only [State.setDeferrals]; (repeat' split) <;> simp
@[simp] theorem State.setDeferrals_dispatchDue (l : List Deferral) (s : State) :
    (s.setDeferrals l).dispatchDue = s.dispatchDue := by
  simp only [State.setDeferrals]; (repeat' split) <;> simp
@[simp] theorem State.setDeferrals_commandResult (l : List Deferral) (s : State) :
    (s.setDeferrals l).commandResult = s.commandResult := by
  simp only [State.setDeferrals]; (repeat' split) <;> simp
@[simp] theorem State.setDeferrals_pending (l : List Deferral) (s : State) :
    (s.setDeferrals l).pending = s.pending := by
  simp only [State.setDeferrals]; (repeat' split) <;> simp

/-! ### removeDeferral -/

@[simp] theorem State.removeDeferral_time (i : Fin 256) (s : State) :
    (s.removeDeferral i).time = s.time := by simp [State.removeDeferral]
@[simp] theorem State.removeDeferral_mem (i : Fin 256) (s : State) :
    (s.removeDeferral i).mem = s.mem := by simp [State.removeDeferral]
@[simp] theorem State.removeDeferral_path (i : Fin 256) (s : State) :
    (s.removeDeferral i).path = s.path := by simp [State.removeDeferral]
@[simp] theorem State.removeDeferral_ends (i : Fin 256) (s : State) :
    (s.removeDeferral i).ends = s.ends := by simp [State.removeDeferral]
@[simp] theorem State.removeDeferral_directory (i : Fin 256) (s : State) :
    (s.removeDeferral i).directory = s.directory := by simp [State.removeDeferral]
@[simp] theorem State.removeDeferral_segments (i : Fin 256) (s : State) :
    (s.removeDeferral i).segments = s.segments := by simp [State.removeDeferral]
@[simp] theorem State.removeDeferral_cluster (i : Fin 256) (s : State) :
    (s.removeDeferral i).cluster = s.cluster := by simp [State.removeDeferral]
@[simp] theorem State.removeDeferral_positions (i : Fin 256) (s : State) :
    (s.removeDeferral i).positions = s.positions := by simp [State.removeDeferral]
@[simp] theorem State.removeDeferral_speech (i : Fin 256) (s : State) :
    (s.removeDeferral i).speech = s.speech := by simp [State.removeDeferral]
@[simp] theorem State.removeDeferral_engine (i : Fin 256) (s : State) :
    (s.removeDeferral i).engine = s.engine := by simp [State.removeDeferral]
@[simp] theorem State.removeDeferral_dispatchDue (i : Fin 256) (s : State) :
    (s.removeDeferral i).dispatchDue = s.dispatchDue := by simp [State.removeDeferral]
@[simp] theorem State.removeDeferral_commandResult (i : Fin 256) (s : State) :
    (s.removeDeferral i).commandResult = s.commandResult := by simp [State.removeDeferral]
@[simp] theorem State.removeDeferral_pending (i : Fin 256) (s : State) :
    (s.removeDeferral i).pending = s.pending := by simp [State.removeDeferral]

/-! ### takeRecord -/

@[simp] theorem State.takeRecord_time (r : Fin 64) (i : Fin 256) (k : CallKind) (st : CallState) (s : State) :
    (s.takeRecord r i k st).time = s.time := rfl
@[simp] theorem State.takeRecord_mem (r : Fin 64) (i : Fin 256) (k : CallKind) (st : CallState) (s : State) :
    (s.takeRecord r i k st).mem = s.mem := rfl
@[simp] theorem State.takeRecord_path (r : Fin 64) (i : Fin 256) (k : CallKind) (st : CallState) (s : State) :
    (s.takeRecord r i k st).path = s.path := rfl
@[simp] theorem State.takeRecord_lines (r : Fin 64) (i : Fin 256) (k : CallKind) (st : CallState) (s : State) :
    (s.takeRecord r i k st).lines = s.lines := rfl
@[simp] theorem State.takeRecord_ends (r : Fin 64) (i : Fin 256) (k : CallKind) (st : CallState) (s : State) :
    (s.takeRecord r i k st).ends = s.ends := rfl
@[simp] theorem State.takeRecord_posts (r : Fin 64) (i : Fin 256) (k : CallKind) (st : CallState) (s : State) :
    (s.takeRecord r i k st).posts = s.posts := rfl
@[simp] theorem State.takeRecord_directory (r : Fin 64) (i : Fin 256) (k : CallKind) (st : CallState) (s : State) :
    (s.takeRecord r i k st).directory = s.directory := rfl
@[simp] theorem State.takeRecord_segments (r : Fin 64) (i : Fin 256) (k : CallKind) (st : CallState) (s : State) :
    (s.takeRecord r i k st).segments = s.segments := rfl
@[simp] theorem State.takeRecord_cluster (r : Fin 64) (i : Fin 256) (k : CallKind) (st : CallState) (s : State) :
    (s.takeRecord r i k st).cluster = s.cluster := rfl
@[simp] theorem State.takeRecord_positions (r : Fin 64) (i : Fin 256) (k : CallKind) (st : CallState) (s : State) :
    (s.takeRecord r i k st).positions = s.positions := rfl
@[simp] theorem State.takeRecord_speech (r : Fin 64) (i : Fin 256) (k : CallKind) (st : CallState) (s : State) :
    (s.takeRecord r i k st).speech = s.speech := rfl
@[simp] theorem State.takeRecord_engine (r : Fin 64) (i : Fin 256) (k : CallKind) (st : CallState) (s : State) :
    (s.takeRecord r i k st).engine = s.engine := rfl
@[simp] theorem State.takeRecord_dispatchDue (r : Fin 64) (i : Fin 256) (k : CallKind) (st : CallState) (s : State) :
    (s.takeRecord r i k st).dispatchDue = s.dispatchDue := rfl
@[simp] theorem State.takeRecord_commandResult (r : Fin 64) (i : Fin 256) (k : CallKind) (st : CallState) (s : State) :
    (s.takeRecord r i k st).commandResult = s.commandResult := rfl
@[simp] theorem State.takeRecord_pending (r : Fin 64) (i : Fin 256) (k : CallKind) (st : CallState) (s : State) :
    (s.takeRecord r i k st).pending = s.pending := rfl

/-! ### writeJudged -/

@[simp] theorem State.writeJudged_time (i : Fin 256) (p : Post) (x : Option Identity) (s : State) :
    (s.writeJudged i p x).time = s.time := by
  simp only [State.writeJudged]; (repeat' split) <;> simp
@[simp] theorem State.writeJudged_mem (i : Fin 256) (p : Post) (x : Option Identity) (s : State) :
    (s.writeJudged i p x).mem = s.mem := by
  simp only [State.writeJudged]; (repeat' split) <;> simp
@[simp] theorem State.writeJudged_path (i : Fin 256) (p : Post) (x : Option Identity) (s : State) :
    (s.writeJudged i p x).path = s.path := by
  simp only [State.writeJudged]; (repeat' split) <;> simp
@[simp] theorem State.writeJudged_ends (i : Fin 256) (p : Post) (x : Option Identity) (s : State) :
    (s.writeJudged i p x).ends = s.ends := by
  simp only [State.writeJudged]; (repeat' split) <;> simp
@[simp] theorem State.writeJudged_directory (i : Fin 256) (p : Post) (x : Option Identity) (s : State) :
    (s.writeJudged i p x).directory = s.directory := by
  simp only [State.writeJudged]; (repeat' split) <;> simp
@[simp] theorem State.writeJudged_segments (i : Fin 256) (p : Post) (x : Option Identity) (s : State) :
    (s.writeJudged i p x).segments = s.segments := by
  simp only [State.writeJudged]; (repeat' split) <;> simp
@[simp] theorem State.writeJudged_calls (i : Fin 256) (p : Post) (x : Option Identity) (s : State) :
    (s.writeJudged i p x).calls = s.calls := by
  simp only [State.writeJudged]; (repeat' split) <;> simp
@[simp] theorem State.writeJudged_cluster (i : Fin 256) (p : Post) (x : Option Identity) (s : State) :
    (s.writeJudged i p x).cluster = s.cluster := by
  simp only [State.writeJudged]; (repeat' split) <;> simp
@[simp] theorem State.writeJudged_positions (i : Fin 256) (p : Post) (x : Option Identity) (s : State) :
    (s.writeJudged i p x).positions = s.positions := by
  simp only [State.writeJudged]; (repeat' split) <;> simp
@[simp] theorem State.writeJudged_speech (i : Fin 256) (p : Post) (x : Option Identity) (s : State) :
    (s.writeJudged i p x).speech = s.speech := by
  simp only [State.writeJudged]; (repeat' split) <;> simp
@[simp] theorem State.writeJudged_engine (i : Fin 256) (p : Post) (x : Option Identity) (s : State) :
    (s.writeJudged i p x).engine = s.engine := by
  simp only [State.writeJudged]; (repeat' split) <;> simp
@[simp] theorem State.writeJudged_dispatchDue (i : Fin 256) (p : Post) (x : Option Identity) (s : State) :
    (s.writeJudged i p x).dispatchDue = s.dispatchDue := by
  simp only [State.writeJudged]; (repeat' split) <;> simp
@[simp] theorem State.writeJudged_commandResult (i : Fin 256) (p : Post) (x : Option Identity) (s : State) :
    (s.writeJudged i p x).commandResult = s.commandResult := by
  simp only [State.writeJudged]; (repeat' split) <;> simp
@[simp] theorem State.writeJudged_pending (i : Fin 256) (p : Post) (x : Option Identity) (s : State) :
    (s.writeJudged i p x).pending = s.pending := by
  simp only [State.writeJudged]; (repeat' split) <;> simp

/-! ### setBreak -/

@[simp] theorem State.setBreak_time (g : Fin 8) (b : Break) (s : State) :
    (s.setBreak g b).time = s.time := by simp [State.setBreak]
@[simp] theorem State.setBreak_mem (g : Fin 8) (b : Break) (s : State) :
    (s.setBreak g b).mem = s.mem := by simp [State.setBreak]
@[simp] theorem State.setBreak_path (g : Fin 8) (b : Break) (s : State) :
    (s.setBreak g b).path = s.path := by simp [State.setBreak]
@[simp] theorem State.setBreak_lines (g : Fin 8) (b : Break) (s : State) :
    (s.setBreak g b).lines = s.lines := by simp [State.setBreak]
@[simp] theorem State.setBreak_ends (g : Fin 8) (b : Break) (s : State) :
    (s.setBreak g b).ends = s.ends := by simp [State.setBreak]
@[simp] theorem State.setBreak_posts (g : Fin 8) (b : Break) (s : State) :
    (s.setBreak g b).posts = s.posts := by simp [State.setBreak]
@[simp] theorem State.setBreak_directory (g : Fin 8) (b : Break) (s : State) :
    (s.setBreak g b).directory = s.directory := by simp [State.setBreak]
@[simp] theorem State.setBreak_calls (g : Fin 8) (b : Break) (s : State) :
    (s.setBreak g b).calls = s.calls := by simp [State.setBreak]
@[simp] theorem State.setBreak_cluster (g : Fin 8) (b : Break) (s : State) :
    (s.setBreak g b).cluster = s.cluster := by simp [State.setBreak]
@[simp] theorem State.setBreak_positions (g : Fin 8) (b : Break) (s : State) :
    (s.setBreak g b).positions = s.positions := by simp [State.setBreak]
@[simp] theorem State.setBreak_speech (g : Fin 8) (b : Break) (s : State) :
    (s.setBreak g b).speech = s.speech := by simp [State.setBreak]
@[simp] theorem State.setBreak_engine (g : Fin 8) (b : Break) (s : State) :
    (s.setBreak g b).engine = s.engine := by simp [State.setBreak]
@[simp] theorem State.setBreak_dispatchDue (g : Fin 8) (b : Break) (s : State) :
    (s.setBreak g b).dispatchDue = s.dispatchDue := by simp [State.setBreak]
@[simp] theorem State.setBreak_commandResult (g : Fin 8) (b : Break) (s : State) :
    (s.setBreak g b).commandResult = s.commandResult := by simp [State.setBreak]
@[simp] theorem State.setBreak_pending (g : Fin 8) (b : Break) (s : State) :
    (s.setBreak g b).pending = s.pending := by simp [State.setBreak]

/-! ### watchEnd -/

@[simp] theorem State.watchEnd_time (l : LineId) (s : State) : (s.watchEnd l).time = s.time := rfl
@[simp] theorem State.watchEnd_mem (l : LineId) (s : State) : (s.watchEnd l).mem = s.mem := rfl
@[simp] theorem State.watchEnd_path (l : LineId) (s : State) : (s.watchEnd l).path = s.path := rfl
@[simp] theorem State.watchEnd_lines (l : LineId) (s : State) : (s.watchEnd l).lines = s.lines := rfl
@[simp] theorem State.watchEnd_posts (l : LineId) (s : State) : (s.watchEnd l).posts = s.posts := rfl
@[simp] theorem State.watchEnd_directory (l : LineId) (s : State) : (s.watchEnd l).directory = s.directory := rfl
@[simp] theorem State.watchEnd_segments (l : LineId) (s : State) : (s.watchEnd l).segments = s.segments := rfl
@[simp] theorem State.watchEnd_calls (l : LineId) (s : State) : (s.watchEnd l).calls = s.calls := rfl
@[simp] theorem State.watchEnd_cluster (l : LineId) (s : State) : (s.watchEnd l).cluster = s.cluster := rfl
@[simp] theorem State.watchEnd_positions (l : LineId) (s : State) : (s.watchEnd l).positions = s.positions := rfl
@[simp] theorem State.watchEnd_speech (l : LineId) (s : State) : (s.watchEnd l).speech = s.speech := rfl
@[simp] theorem State.watchEnd_reports (l : LineId) (s : State) : (s.watchEnd l).reports = s.reports := rfl
@[simp] theorem State.watchEnd_engine (l : LineId) (s : State) : (s.watchEnd l).engine = s.engine := rfl
@[simp] theorem State.watchEnd_dispatchDue (l : LineId) (s : State) : (s.watchEnd l).dispatchDue = s.dispatchDue := rfl
@[simp] theorem State.watchEnd_commandResult (l : LineId) (s : State) :
    (s.watchEnd l).commandResult = s.commandResult := rfl
@[simp] theorem State.watchEnd_pending (l : LineId) (s : State) : (s.watchEnd l).pending = s.pending := rfl

/-! ### unwatchEnd -/

@[simp] theorem State.unwatchEnd_time (l : LineId) (s : State) : (s.unwatchEnd l).time = s.time := rfl
@[simp] theorem State.unwatchEnd_mem (l : LineId) (s : State) : (s.unwatchEnd l).mem = s.mem := rfl
@[simp] theorem State.unwatchEnd_path (l : LineId) (s : State) : (s.unwatchEnd l).path = s.path := rfl
@[simp] theorem State.unwatchEnd_lines (l : LineId) (s : State) : (s.unwatchEnd l).lines = s.lines := rfl
@[simp] theorem State.unwatchEnd_posts (l : LineId) (s : State) : (s.unwatchEnd l).posts = s.posts := rfl
@[simp] theorem State.unwatchEnd_directory (l : LineId) (s : State) : (s.unwatchEnd l).directory = s.directory := rfl
@[simp] theorem State.unwatchEnd_segments (l : LineId) (s : State) : (s.unwatchEnd l).segments = s.segments := rfl
@[simp] theorem State.unwatchEnd_calls (l : LineId) (s : State) : (s.unwatchEnd l).calls = s.calls := rfl
@[simp] theorem State.unwatchEnd_cluster (l : LineId) (s : State) : (s.unwatchEnd l).cluster = s.cluster := rfl
@[simp] theorem State.unwatchEnd_positions (l : LineId) (s : State) : (s.unwatchEnd l).positions = s.positions := rfl
@[simp] theorem State.unwatchEnd_speech (l : LineId) (s : State) : (s.unwatchEnd l).speech = s.speech := rfl
@[simp] theorem State.unwatchEnd_reports (l : LineId) (s : State) : (s.unwatchEnd l).reports = s.reports := rfl
@[simp] theorem State.unwatchEnd_engine (l : LineId) (s : State) : (s.unwatchEnd l).engine = s.engine := rfl
@[simp] theorem State.unwatchEnd_dispatchDue (l : LineId) (s : State) :
    (s.unwatchEnd l).dispatchDue = s.dispatchDue := rfl
@[simp] theorem State.unwatchEnd_commandResult (l : LineId) (s : State) :
    (s.unwatchEnd l).commandResult = s.commandResult := rfl
@[simp] theorem State.unwatchEnd_pending (l : LineId) (s : State) : (s.unwatchEnd l).pending = s.pending := rfl

/-! ### withdrawProbes -/

@[simp] theorem State.withdrawProbes_time (g : Fin 8) (s : State) : (s.withdrawProbes g).time = s.time := rfl
@[simp] theorem State.withdrawProbes_mem (g : Fin 8) (s : State) : (s.withdrawProbes g).mem = s.mem := rfl
@[simp] theorem State.withdrawProbes_path (g : Fin 8) (s : State) : (s.withdrawProbes g).path = s.path := rfl
@[simp] theorem State.withdrawProbes_ends (g : Fin 8) (s : State) : (s.withdrawProbes g).ends = s.ends := rfl
@[simp] theorem State.withdrawProbes_posts (g : Fin 8) (s : State) : (s.withdrawProbes g).posts = s.posts := rfl
@[simp] theorem State.withdrawProbes_directory (g : Fin 8) (s : State) :
    (s.withdrawProbes g).directory = s.directory := rfl
@[simp] theorem State.withdrawProbes_segments (g : Fin 8) (s : State) :
    (s.withdrawProbes g).segments = s.segments := rfl
@[simp] theorem State.withdrawProbes_calls (g : Fin 8) (s : State) : (s.withdrawProbes g).calls = s.calls := rfl
@[simp] theorem State.withdrawProbes_cluster (g : Fin 8) (s : State) : (s.withdrawProbes g).cluster = s.cluster := rfl
@[simp] theorem State.withdrawProbes_positions (g : Fin 8) (s : State) :
    (s.withdrawProbes g).positions = s.positions := rfl
@[simp] theorem State.withdrawProbes_speech (g : Fin 8) (s : State) : (s.withdrawProbes g).speech = s.speech := rfl
@[simp] theorem State.withdrawProbes_reports (g : Fin 8) (s : State) : (s.withdrawProbes g).reports = s.reports := rfl
@[simp] theorem State.withdrawProbes_engine (g : Fin 8) (s : State) : (s.withdrawProbes g).engine = s.engine := rfl
@[simp] theorem State.withdrawProbes_dispatchDue (g : Fin 8) (s : State) :
    (s.withdrawProbes g).dispatchDue = s.dispatchDue := rfl
@[simp] theorem State.withdrawProbes_commandResult (g : Fin 8) (s : State) :
    (s.withdrawProbes g).commandResult = s.commandResult := rfl
@[simp] theorem State.withdrawProbes_pending (g : Fin 8) (s : State) : (s.withdrawProbes g).pending = s.pending := rfl

/-! ### startExchange -/

@[simp] theorem State.startExchange_time (l : LineId) (u : Purpose) (d : Fin 32) (t : PartTelegram) (s : State) :
    (s.startExchange l u d t).time = s.time := rfl
@[simp] theorem State.startExchange_mem (l : LineId) (u : Purpose) (d : Fin 32) (t : PartTelegram) (s : State) :
    (s.startExchange l u d t).mem = s.mem := rfl
@[simp] theorem State.startExchange_path (l : LineId) (u : Purpose) (d : Fin 32) (t : PartTelegram) (s : State) :
    (s.startExchange l u d t).path = s.path := rfl
@[simp] theorem State.startExchange_ends (l : LineId) (u : Purpose) (d : Fin 32) (t : PartTelegram) (s : State) :
    (s.startExchange l u d t).ends = s.ends := rfl
@[simp] theorem State.startExchange_posts (l : LineId) (u : Purpose) (d : Fin 32) (t : PartTelegram) (s : State) :
    (s.startExchange l u d t).posts = s.posts := rfl
@[simp] theorem State.startExchange_directory (l : LineId) (u : Purpose) (d : Fin 32) (t : PartTelegram) (s : State) :
    (s.startExchange l u d t).directory = s.directory := rfl
@[simp] theorem State.startExchange_segments (l : LineId) (u : Purpose) (d : Fin 32) (t : PartTelegram) (s : State) :
    (s.startExchange l u d t).segments = s.segments := rfl
@[simp] theorem State.startExchange_calls (l : LineId) (u : Purpose) (d : Fin 32) (t : PartTelegram) (s : State) :
    (s.startExchange l u d t).calls = s.calls := rfl
@[simp] theorem State.startExchange_cluster (l : LineId) (u : Purpose) (d : Fin 32) (t : PartTelegram) (s : State) :
    (s.startExchange l u d t).cluster = s.cluster := rfl
@[simp] theorem State.startExchange_positions (l : LineId) (u : Purpose) (d : Fin 32) (t : PartTelegram) (s : State) :
    (s.startExchange l u d t).positions = s.positions := rfl
@[simp] theorem State.startExchange_speech (l : LineId) (u : Purpose) (d : Fin 32) (t : PartTelegram) (s : State) :
    (s.startExchange l u d t).speech = s.speech := rfl
@[simp] theorem State.startExchange_reports (l : LineId) (u : Purpose) (d : Fin 32) (t : PartTelegram) (s : State) :
    (s.startExchange l u d t).reports = s.reports := rfl
@[simp] theorem State.startExchange_engine (l : LineId) (u : Purpose) (d : Fin 32) (t : PartTelegram) (s : State) :
    (s.startExchange l u d t).engine = s.engine := rfl
@[simp] theorem State.startExchange_dispatchDue (l : LineId) (u : Purpose) (d : Fin 32) (t : PartTelegram) (s : State) :
    (s.startExchange l u d t).dispatchDue = s.dispatchDue := rfl
@[simp] theorem State.startExchange_commandResult (l : LineId) (u : Purpose) (d : Fin 32) (t : PartTelegram) (s : State) :
    (s.startExchange l u d t).commandResult = s.commandResult := rfl
@[simp] theorem State.startExchange_pending (l : LineId) (u : Purpose) (d : Fin 32) (t : PartTelegram) (s : State) :
    (s.startExchange l u d t).pending = s.pending := rfl

/-! ### accessDone -/

@[simp] theorem State.accessDone_time (s : State) : s.accessDone.time = s.time := rfl
@[simp] theorem State.accessDone_mem (s : State) : s.accessDone.mem = s.mem := rfl
@[simp] theorem State.accessDone_lines (s : State) : s.accessDone.lines = s.lines := rfl
@[simp] theorem State.accessDone_ends (s : State) : s.accessDone.ends = s.ends := rfl
@[simp] theorem State.accessDone_posts (s : State) : s.accessDone.posts = s.posts := rfl
@[simp] theorem State.accessDone_directory (s : State) : s.accessDone.directory = s.directory := rfl
@[simp] theorem State.accessDone_segments (s : State) : s.accessDone.segments = s.segments := rfl
@[simp] theorem State.accessDone_calls (s : State) : s.accessDone.calls = s.calls := rfl
@[simp] theorem State.accessDone_cluster (s : State) : s.accessDone.cluster = s.cluster := rfl
@[simp] theorem State.accessDone_positions (s : State) : s.accessDone.positions = s.positions := rfl
@[simp] theorem State.accessDone_speech (s : State) : s.accessDone.speech = s.speech := rfl
@[simp] theorem State.accessDone_reports (s : State) : s.accessDone.reports = s.reports := rfl
@[simp] theorem State.accessDone_engine (s : State) : s.accessDone.engine = s.engine := rfl
@[simp] theorem State.accessDone_dispatchDue (s : State) : s.accessDone.dispatchDue = s.dispatchDue := rfl
@[simp] theorem State.accessDone_commandResult (s : State) : s.accessDone.commandResult = s.commandResult := rfl
@[simp] theorem State.accessDone_pending (s : State) : s.accessDone.pending = s.pending := rfl

/-! ### grantRead -/

@[simp] theorem State.grantRead_time (s : State) : s.grantRead.time = s.time := by
  simp only [State.grantRead]; (repeat' split) <;> simp
@[simp] theorem State.grantRead_mem (s : State) : s.grantRead.mem = s.mem := by
  simp only [State.grantRead]; (repeat' split) <;> simp
@[simp] theorem State.grantRead_lines (s : State) : s.grantRead.lines = s.lines := by
  simp only [State.grantRead]; (repeat' split) <;> simp
@[simp] theorem State.grantRead_ends (s : State) : s.grantRead.ends = s.ends := by
  simp only [State.grantRead]; (repeat' split) <;> simp
@[simp] theorem State.grantRead_posts (s : State) : s.grantRead.posts = s.posts := by
  simp only [State.grantRead]; (repeat' split) <;> simp
@[simp] theorem State.grantRead_directory (s : State) : s.grantRead.directory = s.directory := by
  simp only [State.grantRead]; (repeat' split) <;> simp
@[simp] theorem State.grantRead_segments (s : State) : s.grantRead.segments = s.segments := by
  simp only [State.grantRead]; (repeat' split) <;> simp
@[simp] theorem State.grantRead_calls (s : State) : s.grantRead.calls = s.calls := by
  simp only [State.grantRead]; (repeat' split) <;> simp
@[simp] theorem State.grantRead_cluster (s : State) : s.grantRead.cluster = s.cluster := by
  simp only [State.grantRead]; (repeat' split) <;> simp
@[simp] theorem State.grantRead_positions (s : State) : s.grantRead.positions = s.positions := by
  simp only [State.grantRead]; (repeat' split) <;> simp
@[simp] theorem State.grantRead_speech (s : State) : s.grantRead.speech = s.speech := by
  simp only [State.grantRead]; (repeat' split) <;> simp
@[simp] theorem State.grantRead_reports (s : State) : s.grantRead.reports = s.reports := by
  simp only [State.grantRead]; (repeat' split) <;> simp
@[simp] theorem State.grantRead_engine (s : State) : s.grantRead.engine = s.engine := by
  simp only [State.grantRead]; (repeat' split) <;> simp
@[simp] theorem State.grantRead_dispatchDue (s : State) : s.grantRead.dispatchDue = s.dispatchDue := by
  simp only [State.grantRead]; (repeat' split) <;> simp
@[simp] theorem State.grantRead_commandResult (s : State) : s.grantRead.commandResult = s.commandResult := by
  simp only [State.grantRead]; (repeat' split) <;> simp
@[simp] theorem State.grantRead_pending (s : State) : s.grantRead.pending = s.pending := by
  simp only [State.grantRead]; (repeat' split) <;> simp

/-! ### holdAccess -/

@[simp] theorem State.holdAccess_time (x : HostAccess) (s : State) : (s.holdAccess x).time = s.time := rfl
@[simp] theorem State.holdAccess_mem (x : HostAccess) (s : State) : (s.holdAccess x).mem = s.mem := rfl
@[simp] theorem State.holdAccess_lines (x : HostAccess) (s : State) : (s.holdAccess x).lines = s.lines := rfl
@[simp] theorem State.holdAccess_ends (x : HostAccess) (s : State) : (s.holdAccess x).ends = s.ends := rfl
@[simp] theorem State.holdAccess_posts (x : HostAccess) (s : State) : (s.holdAccess x).posts = s.posts := rfl
@[simp] theorem State.holdAccess_directory (x : HostAccess) (s : State) :
    (s.holdAccess x).directory = s.directory := rfl
@[simp] theorem State.holdAccess_segments (x : HostAccess) (s : State) : (s.holdAccess x).segments = s.segments := rfl
@[simp] theorem State.holdAccess_calls (x : HostAccess) (s : State) : (s.holdAccess x).calls = s.calls := rfl
@[simp] theorem State.holdAccess_cluster (x : HostAccess) (s : State) : (s.holdAccess x).cluster = s.cluster := rfl
@[simp] theorem State.holdAccess_positions (x : HostAccess) (s : State) :
    (s.holdAccess x).positions = s.positions := rfl
@[simp] theorem State.holdAccess_speech (x : HostAccess) (s : State) : (s.holdAccess x).speech = s.speech := rfl
@[simp] theorem State.holdAccess_reports (x : HostAccess) (s : State) : (s.holdAccess x).reports = s.reports := rfl
@[simp] theorem State.holdAccess_engine (x : HostAccess) (s : State) : (s.holdAccess x).engine = s.engine := rfl
@[simp] theorem State.holdAccess_dispatchDue (x : HostAccess) (s : State) :
    (s.holdAccess x).dispatchDue = s.dispatchDue := rfl
@[simp] theorem State.holdAccess_commandResult (x : HostAccess) (s : State) :
    (s.holdAccess x).commandResult = s.commandResult := rfl
@[simp] theorem State.holdAccess_pending (x : HostAccess) (s : State) : (s.holdAccess x).pending = s.pending := rfl

/-! ### readDone -/

@[simp] theorem State.readDone_time (s : State) : s.readDone.time = s.time := rfl
@[simp] theorem State.readDone_mem (s : State) : s.readDone.mem = s.mem := rfl
@[simp] theorem State.readDone_lines (s : State) : s.readDone.lines = s.lines := rfl
@[simp] theorem State.readDone_ends (s : State) : s.readDone.ends = s.ends := rfl
@[simp] theorem State.readDone_posts (s : State) : s.readDone.posts = s.posts := rfl
@[simp] theorem State.readDone_directory (s : State) : s.readDone.directory = s.directory := rfl
@[simp] theorem State.readDone_segments (s : State) : s.readDone.segments = s.segments := rfl
@[simp] theorem State.readDone_calls (s : State) : s.readDone.calls = s.calls := rfl
@[simp] theorem State.readDone_cluster (s : State) : s.readDone.cluster = s.cluster := rfl
@[simp] theorem State.readDone_positions (s : State) : s.readDone.positions = s.positions := rfl
@[simp] theorem State.readDone_speech (s : State) : s.readDone.speech = s.speech := rfl
@[simp] theorem State.readDone_reports (s : State) : s.readDone.reports = s.reports := rfl
@[simp] theorem State.readDone_engine (s : State) : s.readDone.engine = s.engine := rfl
@[simp] theorem State.readDone_dispatchDue (s : State) : s.readDone.dispatchDue = s.dispatchDue := rfl
@[simp] theorem State.readDone_commandResult (s : State) : s.readDone.commandResult = s.commandResult := rfl
@[simp] theorem State.readDone_pending (s : State) : s.readDone.pending = s.pending := rfl

/-! ### setAnchor -/

@[simp] theorem State.setAnchor_time (n : Fin 128) (v : Word) (s : State) : (s.setAnchor n v).time = s.time := rfl
@[simp] theorem State.setAnchor_mem (n : Fin 128) (v : Word) (s : State) : (s.setAnchor n v).mem = s.mem := rfl
@[simp] theorem State.setAnchor_lines (n : Fin 128) (v : Word) (s : State) : (s.setAnchor n v).lines = s.lines := rfl
@[simp] theorem State.setAnchor_ends (n : Fin 128) (v : Word) (s : State) : (s.setAnchor n v).ends = s.ends := rfl
@[simp] theorem State.setAnchor_posts (n : Fin 128) (v : Word) (s : State) : (s.setAnchor n v).posts = s.posts := rfl
@[simp] theorem State.setAnchor_directory (n : Fin 128) (v : Word) (s : State) :
    (s.setAnchor n v).directory = s.directory := rfl
@[simp] theorem State.setAnchor_segments (n : Fin 128) (v : Word) (s : State) :
    (s.setAnchor n v).segments = s.segments := rfl
@[simp] theorem State.setAnchor_calls (n : Fin 128) (v : Word) (s : State) : (s.setAnchor n v).calls = s.calls := rfl
@[simp] theorem State.setAnchor_cluster (n : Fin 128) (v : Word) (s : State) :
    (s.setAnchor n v).cluster = s.cluster := rfl
@[simp] theorem State.setAnchor_positions (n : Fin 128) (v : Word) (s : State) :
    (s.setAnchor n v).positions = s.positions := rfl
@[simp] theorem State.setAnchor_speech (n : Fin 128) (v : Word) (s : State) : (s.setAnchor n v).speech = s.speech := rfl
@[simp] theorem State.setAnchor_reports (n : Fin 128) (v : Word) (s : State) :
    (s.setAnchor n v).reports = s.reports := rfl
@[simp] theorem State.setAnchor_engine (n : Fin 128) (v : Word) (s : State) : (s.setAnchor n v).engine = s.engine := rfl
@[simp] theorem State.setAnchor_dispatchDue (n : Fin 128) (v : Word) (s : State) :
    (s.setAnchor n v).dispatchDue = s.dispatchDue := rfl
@[simp] theorem State.setAnchor_commandResult (n : Fin 128) (v : Word) (s : State) :
    (s.setAnchor n v).commandResult = s.commandResult := rfl
@[simp] theorem State.setAnchor_pending (n : Fin 128) (v : Word) (s : State) :
    (s.setAnchor n v).pending = s.pending := rfl

/-! ### setEntry -/

@[simp] theorem State.setEntry_time (i : Fin 256) (e : DirectoryEntry) (s : State) :
    (s.setEntry i e).time = s.time := rfl
@[simp] theorem State.setEntry_mem (i : Fin 256) (e : DirectoryEntry) (s : State) : (s.setEntry i e).mem = s.mem := rfl
@[simp] theorem State.setEntry_path (i : Fin 256) (e : DirectoryEntry) (s : State) :
    (s.setEntry i e).path = s.path := rfl
@[simp] theorem State.setEntry_lines (i : Fin 256) (e : DirectoryEntry) (s : State) :
    (s.setEntry i e).lines = s.lines := rfl
@[simp] theorem State.setEntry_ends (i : Fin 256) (e : DirectoryEntry) (s : State) :
    (s.setEntry i e).ends = s.ends := rfl
@[simp] theorem State.setEntry_posts (i : Fin 256) (e : DirectoryEntry) (s : State) :
    (s.setEntry i e).posts = s.posts := rfl
@[simp] theorem State.setEntry_segments (i : Fin 256) (e : DirectoryEntry) (s : State) :
    (s.setEntry i e).segments = s.segments := rfl
@[simp] theorem State.setEntry_calls (i : Fin 256) (e : DirectoryEntry) (s : State) :
    (s.setEntry i e).calls = s.calls := rfl
@[simp] theorem State.setEntry_cluster (i : Fin 256) (e : DirectoryEntry) (s : State) :
    (s.setEntry i e).cluster = s.cluster := rfl
@[simp] theorem State.setEntry_positions (i : Fin 256) (e : DirectoryEntry) (s : State) :
    (s.setEntry i e).positions = s.positions := rfl
@[simp] theorem State.setEntry_speech (i : Fin 256) (e : DirectoryEntry) (s : State) :
    (s.setEntry i e).speech = s.speech := rfl
@[simp] theorem State.setEntry_reports (i : Fin 256) (e : DirectoryEntry) (s : State) :
    (s.setEntry i e).reports = s.reports := rfl
@[simp] theorem State.setEntry_engine (i : Fin 256) (e : DirectoryEntry) (s : State) :
    (s.setEntry i e).engine = s.engine := rfl
@[simp] theorem State.setEntry_dispatchDue (i : Fin 256) (e : DirectoryEntry) (s : State) :
    (s.setEntry i e).dispatchDue = s.dispatchDue := rfl
@[simp] theorem State.setEntry_commandResult (i : Fin 256) (e : DirectoryEntry) (s : State) :
    (s.setEntry i e).commandResult = s.commandResult := rfl
@[simp] theorem State.setEntry_pending (i : Fin 256) (e : DirectoryEntry) (s : State) :
    (s.setEntry i e).pending = s.pending := rfl

/-! ### hostFault -/

@[simp] theorem State.hostFault_time (q : FaultKind) (n : Nat) (s : State) :
    (s.hostFault q n).time = s.time := by simp [State.hostFault]
@[simp] theorem State.hostFault_mem (q : FaultKind) (n : Nat) (s : State) :
    (s.hostFault q n).mem = s.mem := by simp [State.hostFault]
@[simp] theorem State.hostFault_path (q : FaultKind) (n : Nat) (s : State) :
    (s.hostFault q n).path = s.path := by simp [State.hostFault]
@[simp] theorem State.hostFault_lines (q : FaultKind) (n : Nat) (s : State) :
    (s.hostFault q n).lines = s.lines := by simp [State.hostFault]
@[simp] theorem State.hostFault_ends (q : FaultKind) (n : Nat) (s : State) :
    (s.hostFault q n).ends = s.ends := by simp [State.hostFault]
@[simp] theorem State.hostFault_posts (q : FaultKind) (n : Nat) (s : State) :
    (s.hostFault q n).posts = s.posts := by simp [State.hostFault]
@[simp] theorem State.hostFault_directory (q : FaultKind) (n : Nat) (s : State) :
    (s.hostFault q n).directory = s.directory := by simp [State.hostFault]
@[simp] theorem State.hostFault_segments (q : FaultKind) (n : Nat) (s : State) :
    (s.hostFault q n).segments = s.segments := by simp [State.hostFault]
@[simp] theorem State.hostFault_calls (q : FaultKind) (n : Nat) (s : State) :
    (s.hostFault q n).calls = s.calls := by simp [State.hostFault]
@[simp] theorem State.hostFault_cluster (q : FaultKind) (n : Nat) (s : State) :
    (s.hostFault q n).cluster = s.cluster := by simp [State.hostFault]
@[simp] theorem State.hostFault_positions (q : FaultKind) (n : Nat) (s : State) :
    (s.hostFault q n).positions = s.positions := by simp [State.hostFault]
@[simp] theorem State.hostFault_speech (q : FaultKind) (n : Nat) (s : State) :
    (s.hostFault q n).speech = s.speech := by simp [State.hostFault]
@[simp] theorem State.hostFault_engine (q : FaultKind) (n : Nat) (s : State) :
    (s.hostFault q n).engine = s.engine := by simp [State.hostFault]
@[simp] theorem State.hostFault_dispatchDue (q : FaultKind) (n : Nat) (s : State) :
    (s.hostFault q n).dispatchDue = s.dispatchDue := by simp [State.hostFault]
@[simp] theorem State.hostFault_commandResult (q : FaultKind) (n : Nat) (s : State) :
    (s.hostFault q n).commandResult = s.commandResult := by simp [State.hostFault]
@[simp] theorem State.hostFault_pending (q : FaultKind) (n : Nat) (s : State) :
    (s.hostFault q n).pending = s.pending := by simp [State.hostFault]

/-! ### What the updates write -/

@[simp] theorem State.writeMemory_mem (a : Nat) (w : Word) (s : State) :
    (s.writeMemory a w).mem = Memory.write s.mem a bothLanes w := rfl

@[simp] theorem State.report_list (o : Obj) (b e f : Bool) (s : State) :
    (s.report o b e f).reports.list = markObject s.reports.list o b e f s.time := rfl

@[simp] theorem State.report_slots (o : Obj) (b e f : Bool) (s : State) :
    (s.report o b e f).reports.slots = s.reports.slots := rfl

@[simp] theorem State.setEngineState_state (st : EngineState) (s : State) : (s.setEngineState st).engine.state = st := rfl

@[simp] theorem State.setEngineState_step (st : EngineState) (s : State) : (s.setEngineState st).engine.step = s.engine.step := rfl

@[simp] theorem State.updateLine_self (l : LineId) (f : LineSide → LineSide) (s : State) :
    (s.updateLine l f).line l = f (s.line l) := by simp [State.line, State.updateLine]

@[simp] theorem State.updateEnd_self (l : LineId) (f : LineEnd → LineEnd) (s : State) :
    (s.updateEnd l f).segmentEnd l = f (s.segmentEnd l) := by simp [State.segmentEnd, State.updateEnd]

@[simp] theorem State.setPost_posts (i : Fin 256) (p : Post) (s : State) :
    (s.setPost i p).posts = put s.posts i { p with corrupt := false } := by simp only [State.setPost]; split <;> simp

@[simp] theorem State.setPost_self (i : Fin 256) (p : Post) (s : State) :
    (s.setPost i p).post i = { p with corrupt := false } := by simp [State.post]

@[simp] theorem State.setPost_ne (i j : Fin 256) (p : Post) (s : State) (h : j ≠ i) : (s.setPost i p).post j = s.post j := by
  simp [State.post, h]

@[simp] theorem State.setCall_self (r : Fin 64) (c : Call) (s : State) : (s.setCall r c).call r = some { c with corrupt := false } := by
  simp [State.call, State.setCall]

@[simp] theorem State.setCall_ne (r q : Fin 64) (c : Call) (s : State) (h : q ≠ r) : (s.setCall r c).call q = s.call q := by
  simp [State.call, State.setCall, h]

@[simp] theorem State.setIncident_self (k : Fin 16) (x : Incident) (s : State) :
    (s.setIncident k x).incident k = some { x with corrupt := false } := by simp [State.incident, State.setIncident]

@[simp] theorem State.setIncident_ne (k j : Fin 16) (x : Incident) (s : State) (h : j ≠ k) :
    (s.setIncident k x).incident j = s.incident j := by simp [State.incident, State.setIncident, h]

@[simp] theorem State.setPositionTimers_self (p : Fin 16) (x : Position) (s : State) :
    (s.setPositionTimers p x).position p = { x with corrupt := false } := by
  simp [State.position, State.setPositionTimers]

@[simp] theorem State.setPosition_self (p : Fin 16) (x : Position) (s : State) :
    (s.setPosition p x).position p = { x with corrupt := false } := by
  simp [State.position, State.setPosition, State.setPositionTimers, State.reportBoth, State.report]

@[simp] theorem State.setPosition_ne (p q : Fin 16) (x : Position) (s : State) (h : q ≠ p) :
    (s.setPosition p x).position q = s.position q := by
  simp [State.position, State.setPosition, State.setPositionTimers, State.reportBoth, State.report, h]

@[simp] theorem State.placePosition_self (p : Fin 16) (x : Position) (s : State) :
    (s.placePosition p x).position p = { x with corrupt := false } := by
  simp only [State.placePosition]; split <;> simp [State.position, State.setPosition, State.setPositionTimers, State.reportBoth, State.report, State.wantDispatch]

@[simp] theorem State.placePosition_ne (p q : Fin 16) (x : Position) (s : State) (h : q ≠ p) :
    (s.placePosition p x).position q = s.position q := by
  simp only [State.placePosition]; split <;>
    simp [State.position, State.setPosition, State.setPositionTimers, State.reportBoth, State.report, State.wantDispatch, h]

@[simp] theorem State.setSegment_segments (g : Fin 8) (x : Segment) (s : State) :
    (s.setSegment g x).segments = put s.segments g x := by
  simp only [State.setSegment]; split <;> simp [State.setSegmentTimers]

@[simp] theorem State.setSegment_self (g : Fin 8) (x : Segment) (s : State) : (s.setSegment g x).segment g = x := by
  simp [State.segment]

@[simp] theorem State.setSegment_ne (g k : Fin 8) (x : Segment) (s : State) (h : k ≠ g) :
    (s.setSegment g x).segment k = s.segment k := by
  simp [State.segment, h]

@[simp] theorem State.setCommands_self (i : Fin 256) (l : List PendingCommand) (s : State) :
    (s.setCommands i l).post i = { s.post i with commands := l, corrupt := false } := by
  simp [State.setCommands, State.post, State.syncService, State.updateLine]

@[simp] theorem State.setCommands_ne (i j : Fin 256) (l : List PendingCommand) (s : State) (h : j ≠ i) :
    (s.setCommands i l).post j = s.post j := by
  simp [State.setCommands, State.post, State.syncService, State.updateLine, h]

@[simp] theorem State.loseTest_self (i : Fin 256) (b : Bool) (s : State) (h : (s.post i).corrupt = false) :
    (s.loseTest i b).post i = { s.post i with testCancelled := (s.post i).testCancelled || b } := by
  have hr : (s.reportBoth (.post i)).post i = s.post i := rfl
  cases b with
  | false => simp [State.loseTest]
  | true =>
    by_cases ht : (s.post i).testCancelled = true
    · simp only [State.loseTest, ht, if_true, hr, Bool.true_or]
      rw [← ht]
    · simp only [State.loseTest, if_true, if_neg ht, State.setPost_self, Bool.or_true]
      rw [← h]

@[simp] theorem State.loseTest_ne (i j : Fin 256) (b : Bool) (s : State) (h : j ≠ i) : (s.loseTest i b).post j = s.post j := by
  simp only [State.loseTest]; (repeat' split) <;> simp [State.post, h]

@[simp] theorem State.setChannel_self (g : Fin 8) (c : Fin 4) (x : Channel) (s : State) :
    (s.setChannel g c x).channel (channelIndex g c) = { x with corrupt := false } := by
  simp [State.channel, State.setChannel, State.report]

@[simp] theorem State.setChannel_ne (g : Fin 8) (c : Fin 4) (k : Fin 32) (x : Channel) (s : State) (h : k ≠ channelIndex g c) :
    (s.setChannel g c x).channel k = s.channel k := by
  simp [State.channel, State.setChannel, State.report, h]

@[simp] theorem State.setConnection_self (p : Fin 16) (x : Option Connection) (s : State) :
    (s.setConnection p x).speech.connections.get p = x := by simp [State.setConnection]

end Sys2Proof.Machine
end

