-- ==== Sys2Proof/Laws/Lists.lean ====
section
/-! SUPPORT. The write-back queue, the report list, the deferral list and a post's pending list: what one change of each
can do, and that it keeps its form. -/

namespace Sys2Proof.Machine

/-! ### The write-back queue (R11) -/

theorem queuedValue_isSome_iff (q : List QueueEntry) (a : Nat) :
    (queuedValue q a).isSome = true ↔ a ∈ q.map (fun e => e.address) := by
  induction q with
  | nil => simp [queuedValue]
  | cons e q ih =>
    simp only [queuedValue, List.map_cons, List.mem_cons]
    split
    · simp_all
    · rw [ih]
      constructor
      · exact .inr
      · rintro (h | h)
        · exact absurd h.symm ‹_›
        · exact h

/-- A write taken into the queue keeps its form. -/
theorem enqueue_wf {q : List QueueEntry} (e : QueueEntry) (h : QueueWf q) (ht : queueTakes q e.address = true) :
    QueueWf (enqueue q e) := by
  obtain ⟨hl, hn⟩ := h
  refine ⟨?_, ?_⟩
  · simp only [queueTakes, Bool.or_eq_true, decide_eq_true_eq] at ht
    simp only [enqueue, List.length_append, List.length_cons, List.length_nil]
    rcases ht with ht | ht
    · rw [queuedValue_isSome_iff] at ht
      obtain ⟨x, hx, hxa⟩ := List.mem_map.mp ht
      have := List.length_filter_lt_length_iff_exists (l := q) (p := fun x => x.address != e.address)
      have h2 : (q.filter (fun x => x.address != e.address)).length < q.length := this.mpr ⟨x, hx, by simp [hxa]⟩
      omega
    · have := List.length_filter_le (fun x => x.address != e.address) q
      omega
  · simp only [enqueue, List.map_append, List.map_cons, List.map_nil]
    rw [List.nodup_append]
    refine ⟨hn.sublist (List.filter_sublist.map _), by simp, ?_⟩
    intro a ha b hb
    simp only [List.mem_singleton] at hb
    subst hb
    obtain ⟨x, hx, rfl⟩ := List.mem_map.mp ha
    have := (List.mem_filter.mp hx).2
    simpa using this

/-- A queue keeps its form as its head leaves it. -/
theorem QueueWf.tail {e : QueueEntry} {q : List QueueEntry} (h : QueueWf (e :: q)) : QueueWf q := by
  obtain ⟨hl, hn⟩ := h
  simp only [List.map_cons, List.nodup_cons, List.length_cons] at hl hn
  exact ⟨by omega, hn.2⟩

/-- Waiting writes that the queue takes keep its form. -/
theorem flushWaiting_wf : ∀ (es q : List QueueEntry), QueueWf q → QueueWf (flushWaiting es q).2
  | [], _, h => h
  | e :: es, q, h => by
    simp only [flushWaiting]
    split
    · exact flushWaiting_wf es _ (enqueue_wf e h ‹_›)
    · exact h

/-- Words of the report writer that the queue takes keep its form. -/
theorem takeWords_wf : ∀ (steps : List ReportStep) (q : List QueueEntry), QueueWf q → QueueWf (takeWords steps q).2
  | [], _, h => h
  | .word a v :: steps, q, h => by
    simp only [takeWords]
    split
    · exact takeWords_wf steps _ (enqueue_wf { address := a, value := v } h ‹_›)
    · exact h
  | .advanceProducer :: _, _, h => h
  | .faultGate _ :: _, _, h => h
  | .emptySlot _ :: _, _, h => h
  | .finish _ :: _, _, h => h

theorem engineWrites_wf (es : List QueueEntry) (s : State) (h : QueueWf s.path.queue) :
    QueueWf (s.engineWrites es).path.queue := flushWaiting_wf _ _ h

/-- One address's queued value after a write of another. -/
theorem queuedValue_append (q r : List QueueEntry) (a : Nat) :
    queuedValue (q ++ r) a = (queuedValue q a).or (queuedValue r a) := by
  induction q with
  | nil => simp [queuedValue]
  | cons e q ih =>
    simp only [List.cons_append, queuedValue]
    split
    · rfl
    · exact ih

theorem queuedValue_filter_self (q : List QueueEntry) (a : Nat) : queuedValue (q.filter (fun x => x.address != a)) a = none := by
  induction q with
  | nil => rfl
  | cons e q ih =>
    simp only [List.filter_cons]
    split
    · simp_all [queuedValue]
    · exact ih

theorem queuedValue_filter_ne (q : List QueueEntry) (a b : Nat) (h : b ≠ a) :
    queuedValue (q.filter (fun x => x.address != a)) b = queuedValue q b := by
  induction q with
  | nil => rfl
  | cons e q ih =>
    simp only [List.filter_cons, queuedValue]
    split
    · simp only [queuedValue, ih]
    · have : e.address = a := by simp_all
      rw [if_neg (by omega)]
      exact ih

/-- A write taken into the queue is what its address reads, and no other address reads otherwise. -/
theorem queuedValue_enqueue (q : List QueueEntry) (e : QueueEntry) (a : Nat) :
    queuedValue (enqueue q e) a = if a = e.address then some e.value else queuedValue q a := by
  simp only [enqueue, queuedValue_append]
  split
  · subst a
    simp [queuedValue_filter_self, queuedValue]
  · rw [queuedValue_filter_ne _ _ _ ‹_›]
    have h : ¬ e.address = a := fun h => ‹¬ a = e.address› h.symm
    simp [queuedValue, h]

/-! ### The report list (R163) -/

/-- A change of an object keeps the report list free of repeats. -/
theorem markObject_wf (l : List ReportEntry) (o : Obj) (b e f : Bool) (now : Time) (h : ReportsWf l) :
    ReportsWf (markObject l o b e f now) := by
  unfold markObject
  split
  · have : (l.map (fun x => if x.object == o then x.mark b e f now else x)).map (fun x => x.object)
        = l.map (fun x => x.object) := by
      rw [List.map_map]
      refine List.map_congr_left (fun x _ => ?_)
      simp only [Function.comp]
      split <;> rfl
    unfold ReportsWf
    rw [this]
    exact h
  · rename_i hn
    unfold ReportsWf
    rw [List.map_append, List.nodup_append]
    refine ⟨h, by simp, ?_⟩
    intro x hx y hy
    simp only [List.map_cons, List.map_nil, List.mem_singleton] at hy
    subst hy
    obtain ⟨z, hz, rfl⟩ := List.mem_map.mp hx
    intro heq
    refine hn (List.any_eq_true.mpr ⟨z, hz, ?_⟩)
    simpa [ReportEntry.mark] using heq

/-- A change reported keeps the report list free of repeats. -/
theorem report_wf (o : Obj) (b e f : Bool) (s : State) (h : ReportsWf s.reports.list) :
    ReportsWf (s.report o b e f).reports.list := markObject_wf _ o b e f _ h

/-- Removing entries keeps a report list free of repeats. -/
theorem ReportsWf.filter {l : List ReportEntry} (p : ReportEntry → Bool) (h : ReportsWf l) : ReportsWf (l.filter p) :=
  List.Nodup.sublist (List.filter_sublist.map _) h

/-- Changing entries but not their objects keeps a report list free of repeats. -/
theorem ReportsWf.map {l : List ReportEntry} (g : ReportEntry → ReportEntry) (hg : ∀ e, (g e).object = e.object)
    (h : ReportsWf l) : ReportsWf (l.map g) := by
  unfold ReportsWf at h ⊢
  rw [List.map_map]
  have : l.map ((fun e => e.object) ∘ g) = l.map (fun e => e.object) := List.map_congr_left (fun e _ => hg e)
  rw [this]
  exact h

/-! ### The deferral list (R106) -/

theorem DeferralsWf.filter {l : List Deferral} (p : Deferral → Bool) (h : DeferralsWf l) : DeferralsWf (l.filter p) :=
  List.Nodup.sublist (List.filter_sublist.map _) h

/-! ### A post's pending list (R36) -/

/-- A command pended to an empty list is its one entry. -/
@[simp] theorem pendList_nil (c : PendingCommand) : pendList [] c = [c] := rfl

/-- A RELEASE at the head stays; a command that is no RELEASE waits behind it alone. -/
theorem pendList_release (a : PendingCommand) (l : List PendingCommand) (c : PendingCommand) (ha : a.kind = .release)
    (hc : c.kind ≠ .release) : pendList (a :: l) c = [a, c] := by
  simp [pendList, ha, hc]

/-- Any other list is replaced. -/
theorem pendList_other (a : PendingCommand) (l : List PendingCommand) (c : PendingCommand) (ha : a.kind ≠ .release) :
    pendList (a :: l) c = [c] := by
  simp [pendList, ha]

/-- A pending list never holds more than two commands. -/
theorem pendList_length (l : List PendingCommand) (c : PendingCommand) : (pendList l c).length ≤ 2 := by
  unfold pendList
  split
  · simp
  · repeat' split
    all_goals simp

end Sys2Proof.Machine
end

