-- ==== Sys2Proof/Laws/Memory.lean ====
section
/-! SUPPORT. Memory keeps its canonical form, and reads what was written. -/

namespace Sys2Proof.Machine

/-- Every address listed is above a bound. -/
theorem Memory.wf_tail {k : Nat} {b : Byte} {m : List Host.Cell} (h : Memory.wf ((k, b) :: m) = true) :
    Memory.wf m = true := by
  simp only [Memory.wf, Bool.and_eq_true] at h
  exact h.2

theorem Memory.wf_head {k : Nat} {b : Byte} {m : List Host.Cell} (h : Memory.wf ((k, b) :: m) = true) : b ≠ 0 := by
  simp only [Memory.wf, Bool.and_eq_true] at h
  simpa using h.1.1

/-- In canonical form every address of the tail is above the head's. -/
theorem Memory.wf_above : ∀ {m : List Host.Cell} {k : Nat} {b : Byte}, Memory.wf ((k, b) :: m) = true →
    ∀ e ∈ m, k < e.1
  | [], _, _, _, _, he => by cases he
  | (k', b') :: m, k, b, h, e, he => by
    have hk : k < k' := by simp only [Memory.wf, Bool.and_eq_true] at h; simpa using h.1.2
    rcases List.mem_cons.mp he with rfl | he
    · exact hk
    · exact Nat.lt_trans hk (Memory.wf_above (Memory.wf_tail h) e he)

/-- A canonical memory stays so with a listed address put before it. -/
theorem Memory.wf_cons {k : Nat} {b : Byte} {m : List Host.Cell} (hb : b ≠ 0) (hm : Memory.wf m = true)
    (h : ∀ e ∈ m, k < e.1) : Memory.wf ((k, b) :: m) = true := by
  cases m with
  | nil => simpa [Memory.wf] using hb
  | cons e m =>
    have := h e (List.mem_cons_self ..)
    simp only [Memory.wf, Bool.and_eq_true] at hm ⊢
    simp_all

/-- What stands in memory after a write of one byte: older entries and the byte written. -/
theorem Memory.mem_set : ∀ {m : List Host.Cell} {a : Nat} {v : Byte} {e : Host.Cell}, e ∈ Memory.set m a v →
    e ∈ m ∨ e.1 = a
  | [], a, v, e, h => by
    simp only [Memory.set] at h
    split at h <;> simp_all
  | (k, b) :: m, a, v, e, h => by
    simp only [Memory.set] at h
    split at h
    · split at h
      · exact .inl h
      · rcases List.mem_cons.mp h with rfl | h
        · exact .inr rfl
        · exact .inl h
    · split at h
      · split at h
        · exact .inl (List.mem_cons_of_mem _ h)
        · rcases List.mem_cons.mp h with rfl | h
          · exact .inr rfl
          · exact .inl (List.mem_cons_of_mem _ h)
      · rcases List.mem_cons.mp h with rfl | h
        · exact .inl (List.mem_cons_self ..)
        · rcases Memory.mem_set h with h | h
          · exact .inl (List.mem_cons_of_mem _ h)
          · exact .inr h

/-- A write of one byte keeps the canonical form. -/
theorem Memory.set_wf : ∀ {m : List Host.Cell} (a : Nat) (v : Byte), Memory.wf m = true → Memory.wf (Memory.set m a v) = true
  | [], a, v, _ => by
    simp only [Memory.set]
    split
    · rfl
    · simp_all [Memory.wf]
  | (k, b) :: m, a, v, h => by
    have ht := Memory.wf_tail h
    have hb := Memory.wf_head h
    have hk := Memory.wf_above h
    simp only [Memory.set]
    split
    · split
      · exact h
      · refine Memory.wf_cons ‹_› h (fun e he => ?_)
        rcases List.mem_cons.mp he with rfl | he
        · assumption
        · exact Nat.lt_trans ‹a < k› (hk e he)
    · split
      · subst a
        split
        · exact ht
        · exact Memory.wf_cons ‹_› ht hk
      · refine Memory.wf_cons hb (Memory.set_wf a v ht) (fun e he => ?_)
        rcases Memory.mem_set he with he | he
        · exact hk e he
        · omega

/-- A write of a word keeps the canonical form. -/
theorem Memory.write_wf {m : List Host.Cell} (a : Nat) (en : Enables) (w : Word) (h : Memory.wf m = true) :
    Memory.wf (Memory.write m a en w) = true := by
  simp only [Memory.write]
  split <;> split <;> first | exact h | exact Memory.set_wf _ _ h | exact Memory.set_wf _ _ (Memory.set_wf _ _ h)

/-- An address that is not listed reads 0 (log entry 1). -/
theorem Memory.get_absent : ∀ {m : List Host.Cell} {a : Nat}, (∀ e ∈ m, a < e.1) → Memory.get m a = 0
  | [], _, _ => rfl
  | (k, b) :: m, a, h => by
    have hk := h (k, b) (List.mem_cons_self ..)
    simp only [Memory.get]
    rw [if_neg (by omega)]
    exact Memory.get_absent (fun e he => h e (List.mem_cons_of_mem _ he))

/-- A byte written is read back. -/
theorem Memory.get_set_self : ∀ {m : List Host.Cell} (a : Nat) (v : Byte), Memory.wf m = true →
    Memory.get (Memory.set m a v) a = v
  | [], a, v, _ => by
    simp only [Memory.set]
    split <;> simp_all [Memory.get]
  | (k, b) :: m, a, v, h => by
    have ht := Memory.wf_tail h
    have hk := Memory.wf_above h
    simp only [Memory.set]
    split
    · split
      · subst v
        refine Memory.get_absent (fun e he => ?_)
        rcases List.mem_cons.mp he with rfl | he
        · assumption
        · exact Nat.lt_trans ‹a < k› (hk e he)
      · simp [Memory.get]
    · split
      · subst a
        split
        · subst v; exact Memory.get_absent hk
        · simp [Memory.get]
      · simp only [Memory.get]
        rw [if_neg (by omega)]
        exact Memory.get_set_self a v ht

/-- A write of one byte leaves every other byte as it was. -/
theorem Memory.get_set_ne : ∀ {m : List Host.Cell} (a b : Nat) (v : Byte), b ≠ a → Memory.get (Memory.set m a v) b = Memory.get m b
  | [], a, b, v, h => by
    simp only [Memory.set]
    split <;> simp [Memory.get, h.symm]
  | (k, x) :: m, a, b, v, h => by
    simp only [Memory.set]
    split
    · split <;> simp [Memory.get, h.symm]
    · split
      · subst a
        split <;> simp [Memory.get, h.symm]
      · simp only [Memory.get]
        split
        · rfl
        · exact Memory.get_set_ne a b v h

/-- A write of a word leaves every byte outside the bytes it enables as it was. -/
theorem Memory.get_write_ne {m : List Host.Cell} (a b : Nat) (en : Enables) (w : Word) (h1 : en.hi = true → b ≠ a)
    (h2 : en.lo = true → b ≠ a + 1) : Memory.get (Memory.write m a en w) b = Memory.get m b := by
  simp only [Memory.write]
  split <;> split <;> simp_all [Memory.get_set_ne]

/-- A word written whole is read back. -/
theorem Memory.word_write_self {m : List Host.Cell} (a : Nat) (w : Word) (h : Memory.wf m = true) :
    Memory.word (Memory.write m a bothLanes w) a = w := by
  have hw := Memory.set_wf a (highByte w) h
  simp only [Memory.word, Memory.write, bothLanes, if_true]
  rw [Memory.get_set_ne (a + 1) a _ (by omega), Memory.get_set_self a _ h, Memory.get_set_self (a + 1) _ hw]
  simp only [wordOf, highByte, lowByte]
  ext i hi
  simp only [BitVec.getElem_append, BitVec.getElem_extractLsb']
  split
  · simp [BitVec.getLsbD_eq_getElem, hi]
  · simp only [show 8 + (i - 8) = i by omega, BitVec.getLsbD_eq_getElem hi]

end Sys2Proof.Machine
end

