-- ==== Sys2Proof/Laws/Operations.lean ====
section
/-! SUPPORT. What each shared operation does, said once: events and what follows them, commands and their answers, the
channel map, the connection memory, pending, and the reports. -/

namespace Sys2Proof.Machine

/-! ### Events and what follows them (R132, R186) -/

theorem settle_ok (s t : State) (op : Op Unit) (h : op s = .ok () t) : s.settle op = t := by
  simp [State.settle, h]

theorem settle_error (s t : State) (op : Op Unit) (f : ClassB) (h : op s = .error f t) : s.settle op = t.classB f := by
  simp [State.settle, h]

/-- An event that no class B fault cuts short: its effects, then what follows. -/
theorem runEvent_ok (s t : State) (op : Op Unit) (h : op s = .ok () t) : s.runEvent op = t.followUp := by
  simp [State.runEvent, settle_ok s t op h]

/-- An event cut short: what it has done stands, and the fault is handed to engine control. -/
theorem runEvent_error (s t : State) (op : Op Unit) (f : ClassB) (h : op s = .error f t) :
    s.runEvent op = (t.classB f).followUp := by
  simp [State.runEvent, settle_error s t op f h]

/-- With no dispatch due, no restart waiting for its line sides and no STOPPING, nothing follows an event. -/
theorem followUp_quiet (s : State) (h : s.Quiet) : s.followUp = s := by
  obtain ⟨hd, hstep, hst⟩ := h
  have e : ({ s with dispatchDue := false } : State) = s := by rw [← hd]
  have h1 : s.dispatchIfDue = s := by simp [State.dispatchIfDue, hd, e]
  have h2 : s.restartProceeds = s := by simp [State.restartProceeds, hstep]
  have h3 : s.stoppingEnds = s := by simp [State.stoppingEnds, State.stoppingComplete, hst]
  simp only [State.followUp, h1, h2, h3, e]

/-! ### Host accesses (R2, R13, R15) -/

/-- With no access held, none is served. -/
theorem serveHeld_none (s : State) (h : s.path.heldAccesses = []) : s.serveHeld = s := by
  rw [State.serveHeld, h, State.serveHeldList]

/-- While an access must wait, none is served. -/
theorem serveHeldList_waits (l : List HostAccess) (s : State) (h : s.accessWaits = true) : State.serveHeldList l s = s := by
  cases l <;> simp [State.serveHeldList, h]

/-- An access that must wait is held behind those that wait already. -/
theorem hostAccess_waits (x : HostAccess) (s : State) (h : s.accessWaits = true) : s.hostAccess x = s.holdAccess x :=
  serveHeldList_waits _ _ h

/-- An access that meets none waiting and need not wait is served after the part's grant. -/
theorem hostAccess_served (x : HostAccess) (s : State) (h : s.ServesHost) :
    s.hostAccess x = State.settle s.grantRead (serveAccess x) := by
  have hw : (s.holdAccess x).accessWaits = false := h.1
  have hl : (s.holdAccess x).path.heldAccesses = [x] := by simp [State.holdAccess, h.2]
  have hg : { (s.holdAccess x).grantRead with path := { (s.holdAccess x).grantRead.path with heldAccesses := [] } }
      = s.grantRead := by
    have hc : ((s.holdAccess x).path.partTurn && (s.holdAccess x).path.queue.isEmpty && (s.holdAccess x).partReadWaiting)
        = (s.path.partTurn && s.path.queue.isEmpty && s.partReadWaiting) := rfl
    have hn := h.2
    unfold State.grantRead
    rw [hc]
    cases (s.path.partTurn && s.path.queue.isEmpty && s.partReadWaiting) <;> simp [State.holdAccess, ← hn]
  rw [State.hostAccess, State.serveHeld, hl, State.serveHeldList, hw]
  simp only [Bool.false_eq_true, if_false, hg, State.serveHeldList]

/-! ### The command taker's answer (R17, R19) -/

/-- With room in the queue an answered slot is released: consumer index, published list and taker change together. -/
theorem releaseSlot_takes (p : MemoryPath) (k : Fin 64)
    (h : queueTakes p.queue (Config.anchorAddress Config.commandConsumer.val) = true) :
    p.releaseSlot k = { p with
      heldConsumer := p.heldConsumer + 1
      queue := enqueue p.queue { address := Config.anchorAddress Config.commandConsumer.val, value := p.heldConsumer + 1 }
      published := p.published.erase k
      taker := .idle } := by
  simp [MemoryPath.releaseSlot, h]

/-- Without room the slot stays published and counted, and the taker waits. -/
theorem releaseSlot_waits (p : MemoryPath) (k : Fin 64)
    (h : queueTakes p.queue (Config.anchorAddress Config.commandConsumer.val) = false) :
    p.releaseSlot k = { p with taker := .consumer k } := by
  simp [MemoryPath.releaseSlot, h]

/-! ### Commands (R18) -/

@[simp] theorem answer_apply (r : ResultCode) (s : State) : answer r s = .ok () { s with commandResult := some r } := rfl

/-- An argument out of its range: BAD_ARG, and no effect. -/
theorem command_badArg {α : Type} (act : α → Op Unit) (s : State) :
    command none act s = .ok () { s with commandResult := some .badArg } := rfl

/-- An engine that is not in RUN: NOT_RUNNING, and no effect. -/
theorem command_notRunning {α : Type} (a : α) (act : α → Op Unit) (s : State) (h : s.inRun = false) :
    command (some a) act s = .ok () { s with commandResult := some .notRunning } := by
  have : (fun (t : State) => t.inRun) { s with commandResult := some .notRunning } = false := h
  simp only [command, Op.bind_apply, answer_apply, Op.get_apply]
  simp [show ({ s with commandResult := some ResultCode.notRunning } : State).inRun = false from h]

/-- In RUN with its arguments in range, a command is what its owning block does. -/
theorem command_run {α : Type} (a : α) (act : α → Op Unit) (s : State) (h : s.inRun = true) :
    command (some a) act s = act a { s with commandResult := some .notRunning } := by
  simp only [command, Op.bind_apply, answer_apply, Op.get_apply]
  simp [show ({ s with commandResult := some ResultCode.notRunning } : State).inRun = true from h]

/-- A call number whose record is live and whose code matches: what is done with that record. -/
theorem withLive_live (n : Nat) (f : Fin 64 → Call → Op Unit) (s : State) (r : Fin 64) (c : Call)
    (h : s.callNumbered n = some r) (hr : s.call r = some c) (hc : c.corrupt = false) (he : c.state ≠ .ended) :
    withLive n f s = f r c s := by
  simp [withLive, liveRecord, readCall, h, hr, hc, he]

/-- A call number that no record holds: nothing. -/
theorem withLive_none (n : Nat) (f : Fin 64 → Call → Op Unit) (s : State) (h : s.callNumbered n = none) :
    withLive n f s = .ok () s := by
  simp [withLive, liveRecord, h]

/-- A call number whose record fails its check: a RECORD_CHECK of that record, and nothing changed (R186). -/
theorem withLive_fails (n : Nat) (f : Fin 64 → Call → Op Unit) (s : State) (r : Fin 64) (c : Call)
    (h : s.callNumbered n = some r) (hr : s.call r = some c) (hc : c.corrupt = true) :
    withLive n f s = .error (recordCheck (.call r)) s := by
  simp [withLive, liveRecord, readCall, h, hr, hc]

/-- An offer timer removed: the position's record alone is written. -/
theorem removeOfferTimer_ok (p : Fin 16) (s : State) (h : (s.position p).corrupt = false) :
    removeOfferTimer p s = .ok () (s.setPositionTimers p { s.position p with offerTimer := none }) := by
  simp [removeOfferTimer, readPosition, h]

/-- A ring timer removed: the position's record alone is written. -/
theorem removeRingTimer_ok (p : Fin 16) (s : State) (h : (s.position p).corrupt = false) :
    removeRingTimer p s = .ok () (s.setPositionTimers p { s.position p with ringTimer := none }) := by
  simp [removeRingTimer, readPosition, h]

/-! ### Pending (R36) -/

theorem pend_ok (i : Fin 256) (kind : CommandKind) (call : Option Nat) (s : State) (h : (s.post i).corrupt = false) :
    pend i kind call s = .ok () ((s.loseTest i ((s.post i).commands.any PendingCommand.isTest)).setCommands i
      (pendList (s.post i).commands { kind, call })) := by
  simp [pend, h]

/-- The post that a pended command leaves: its pending list by the table of R36, test cancelled where a TEST is lost. -/
theorem pend_post (i : Fin 256) (kind : CommandKind) (call : Option Nat) (s t : State) (h : (s.post i).corrupt = false)
    (hp : pend i kind call s = .ok () t) :
    t.post i = { s.post i with
      commands := pendList (s.post i).commands { kind, call }
      testCancelled := (s.post i).testCancelled || (s.post i).commands.any PendingCommand.isTest } := by
  rw [pend_ok i kind call s h, EStateM.Result.ok.injEq] at hp
  rw [← hp.2]
  simp only [State.setCommands_self, State.loseTest_self _ _ _ h, h]

/-! ### Timers of positions, and the end of an exchange -/

/-- A position's timer that is due, in the state it belongs to: the record is acted on. -/
theorem positionTimer_due (p : Fin 16) (st : PositionState) (timer : Position → Option Time) (act : Position → Op Unit)
    (s : State) (hs : (s.position p).state = st) (hd : timerDue s.time (timer (s.position p)) = true)
    (hc : (s.position p).corrupt = false) : positionTimer p st timer act s = act (s.position p) s := by
  simp [positionTimer, hs, hd, hc]

/-- A position's timer that is not due, or that the state of the position does not have: nothing happens. -/
theorem positionTimer_early (p : Fin 16) (st : PositionState) (timer : Position → Option Time) (act : Position → Op Unit)
    (s : State) (h : (s.position p).state ≠ st ∨ timerDue s.time (timer (s.position p)) = false) :
    positionTimer p st timer act s = .ok () s := by
  rcases h with h | h <;> simp [positionTimer, h]

/-- The end of an exchange on a line side that neither sweeps nor halts moves nothing else. -/
theorem afterExchange_quiet (l : LineId) (s : State) (hs : (s.line l).state ≠ .sweeping) (hh : (s.line l).state ≠ .halting) :
    afterExchange l s = .ok () s := by
  simp [afterExchange, sweepEnds, haltingEnds, hs, hh]

/-- A FAR feed that is OFF has nothing to stop. -/
theorem stopFarFeed_off (g : Fin 8) (s : State) (h : (s.segment g).farFeed = false) : stopFarFeed g s = .ok () s := by
  simp [stopFarFeed, h]

/-! ### The channel map and the connection memory (R151 to R156) -/

theorem setConnection_crosspoint (p : Fin 16) (x : Option Connection) (s : State) (h : s.speech.stuck.get p = none) :
    (s.setConnection p x).speech.crosspoints.get p = x := by
  simp [State.setConnection, State.crosspointReads, h]

/-- A connection changed where the crosspoint follows its setting. -/
theorem changeConnection_ok (p : Fin 16) (x : Option Connection) (s : State) (h : s.speech.stuck.get p = none) :
    changeConnection p x s = .ok () (s.setConnection p x) := by
  simp [changeConnection, setConnection_crosspoint p x s h]

/-- A disconnect request whose position is connected. -/
theorem disconnectRequest_ok (p : Fin 16) (s : State) (hc : (s.speech.connections.get p).isSome = true)
    (h : s.speech.stuck.get p = none) : disconnectRequest p s = .ok () (s.setConnection p none) := by
  have : ¬ s.speech.connections.get p = none := by intro e; simp [e] at hc
  simp [disconnectRequest, this, changeConnection_ok p none s h]

/-- A connect request that all of R155 allows. -/
theorem connectRequest_ok (p : Fin 16) (r : Fin 64) (s : State) (c : Call) (ch : Fin 4) (hr : s.call r = some c)
    (hg : c.corrupt = false) (hch : c.channel = some ch)
    (he : (s.channel (channelIndex (postSegment c.post) ch)).corrupt = false)
    (hst : (s.channel (channelIndex (postSegment c.post) ch)).state ≠ .free)
    (hn : (s.channel (channelIndex (postSegment c.post) ch)).call = some c.number)
    (hp : s.speech.connections.get p = none) (hm : c.parties.contains p = true)
    (ho : s.othersOn p ⟨postSegment c.post, ch⟩ ≤ 1) (hs : s.speech.stuck.get p = none) :
    connectRequest p r s = .ok () (s.setConnection p (some ⟨postSegment c.post, ch⟩)) := by
  have hm' : p ∈ c.parties := by simpa using hm
  unfold connectRequest
  rw [withCall_ok s r c _ hr hg]
  simp [hch, he, hst, hn, hp, hm', ho, changeConnection_ok _ _ _ hs]

/-- A reservation for a call that holds no channel, with one FREE (R151). -/
theorem reserveChannel_ok (g : Fin 8) (r : Fin 64) (s : State) (c : Call) (ch : Fin 4) (hr : s.call r = some c)
    (hg : c.corrupt = false) (hh : s.channelHeldBy c.number = none) (hf : s.freeChannel g = some ch)
    (he : (s.channel (channelIndex g ch)).corrupt = false) :
    reserveChannel g r s = .ok ()
      ((s.setChannel g ch { state := .reserved, call := some c.number, corrupt := false }).setCall r
        { c with channel := some ch }) := by
  unfold reserveChannel
  rw [withCall_ok s r c _ hr hg]
  have : (s.setChannel g ch { state := .reserved, call := some c.number, corrupt := false }).call r = some c := by
    simpa [State.call] using hr
  simp [hh, hf, he, State.modifyCall, this]

/-- The channel of a call becomes IN_USE (R152). -/
theorem channelInUse_ok (r : Fin 64) (s : State) (c : Call) (ch : Fin 4) (hr : s.call r = some c) (hg : c.corrupt = false)
    (hc : s.HoldsChannel c ch .reserved) :
    channelInUse r s = .ok () (s.setChannel (postSegment c.post) ch { state := .inUse, call := some c.number, corrupt := false }) := by
  obtain ⟨h1, h2⟩ := hc
  unfold channelInUse
  rw [withCall_ok s r c _ hr hg]
  simp [h1, h2]

/-- The connection of one position after the connections of some positions to a channel have been removed. -/
def closedConnection (l : List (Fin 16)) (x : Connection) (s : State) (q : Fin 16) : Option Connection :=
  if q ∈ l ∧ s.speech.connections.get q = some x then none else s.speech.connections.get q

/-- The connections of some positions to a channel are removed, one after another (R153). -/
theorem closeConnections_ok (x : Connection) : ∀ (l : List (Fin 16)) (s : State), (∀ q, s.speech.stuck.get q = none) →
    ∃ sp, (l.forM (fun p => do
        let s ← get
        if s.speech.connections.get p = some x then changeConnection p none else pure ()) : Op PUnit) s
        = .ok ⟨⟩ { s with speech := sp } ∧ sp.channels = s.speech.channels ∧ sp.stuck = s.speech.stuck
      ∧ ∀ q, sp.connections.get q = closedConnection l x s q := by
  intro l
  induction l with
  | nil =>
    intro s _
    exact ⟨s.speech, by simp, rfl, rfl, fun q => by simp [closedConnection]⟩
  | cons p l ih =>
    intro s hs
    by_cases hp : s.speech.connections.get p = some x
    · obtain ⟨sp, h1, h2, h3, h4⟩ := ih (s.setConnection p none) hs
      refine ⟨sp, ?_, h2, h3, fun q => ?_⟩
      · simp only [List.forM_eq_forM, List.forM_cons, Op.bind_apply, Op.get_apply, hp, if_true,
          changeConnection_ok p none s (hs p)] at h1 ⊢
        exact h1
      · rw [h4]
        by_cases hq : q = p
        · subst hq
          simp [closedConnection, hp]
        · have : (s.setConnection p none).speech.connections.get q = s.speech.connections.get q := by
            simp [State.setConnection, hq]
          simp [closedConnection, this, hq]
    · obtain ⟨sp, h1, h2, h3, h4⟩ := ih s hs
      refine ⟨sp, ?_, h2, h3, fun q => ?_⟩
      · simp only [List.forM_eq_forM, List.forM_cons, Op.bind_apply, Op.get_apply, if_neg hp, Op.pure_apply] at h1 ⊢
        exact h1
      · rw [h4]
        by_cases hq : q = p
        · subst hq
          simp [closedConnection, hp]
        · simp [closedConnection, hq]

/-- The channel a call holds is freed: its connections go, the entry is FREE, the call holds none (R153). -/
theorem freeCallChannel_ok (r : Fin 64) (s : State) (c : Call) (ch : Fin 4) (st : ChannelState) (hr : s.call r = some c)
    (hg : c.corrupt = false) (hc : s.HoldsChannel c ch st) (hst : st ≠ .free) (hs : ∀ q, s.speech.stuck.get q = none) :
    ∃ sp, freeCallChannel r s = .ok ()
        ((({ s with speech := sp }.setChannel (postSegment c.post) ch .freed).setCall r { c with channel := none }).wantDispatch)
      ∧ sp.channels = s.speech.channels ∧ sp.stuck = s.speech.stuck
      ∧ ∀ q, sp.connections.get q = if s.speech.connections.get q = some ⟨postSegment c.post, ch⟩ then none
          else s.speech.connections.get q := by
  obtain ⟨h1, h2⟩ := hc
  obtain ⟨sp, k1, k2, k3, k4⟩ := closeConnections_ok ⟨postSegment c.post, ch⟩ (List.finRange 16) s hs
  refine ⟨sp, ?_, k2, k3, fun q => by simp [k4, closedConnection]⟩
  unfold freeCallChannel
  rw [withCall_ok s r c _ hr hg]
  have h3 : (({ s with speech := sp } : State).setChannel (postSegment c.post) ch .freed).call r = some c := by
    simpa [State.call] using hr
  simp only [h1, Op.bind_apply, readChannel_ok s _ (by rw [h2]), h2]
  simp only [hst, false_or, ne_eq, not_true_eq_false, if_false, Op.bind_apply, k1]
  simp [State.modifyCall, h3]

end Sys2Proof.Machine
end

