-- ==== Sys2Proof/Tests/Slice0.lean ====
section
/-! SUPPORT. Tests: well-formedness, the worked examples of the data book, and for each statement of the certificates a
state and operands that meet its hypotheses. Expected values stand in the data book or are calculated from it by hand. -/

open Sys2Proof Sys2Proof.Machine

namespace Sys2Proof.Tests

-- One test after another: many kernel evaluations at once need more threads than a compile may have.
set_option Elab.async false

/-! ### Well-formedness and decoding -/

/-- Each check of WellFormed refuses a term that breaks it. -/
theorem test_wellFormed_refuses :
    (∀ i ∈ [Instr.hostRead 0x1000 ⟨false, false⟩, .hostWrite 0x1000 1 ⟨false, false⟩, .hostWrite 0xFFFF01 1 ⟨true, true⟩,
        .hostWrite 0xFFFF1C 1 ⟨true, true⟩, .hostWrite 0xFFFF23 1 ⟨true, true⟩, .hostWrite 0xFFFF67 1 ⟨true, true⟩,
        .runWrite ⟨false, false⟩, .stopWrite 1 ⟨true, true⟩, .stopWrite 0 ⟨false, false⟩,
        .parameterWrite 0xFFFF33 1 ⟨true, true⟩, .parameterWrite 0xFFFF68 1 ⟨true, true⟩,
        .parameterWrite 0xFFFF34 1 ⟨false, false⟩, .commandSlotWrite 0x1000 1 ⟨false, false⟩,
        .commandProducerWrite 1 ⟨false, false⟩, .eventConsumerWrite 1 ⟨false, false⟩,
        .directoryWrite 0x8000 1 ⟨false, false⟩], WellFormed i = false)
    ∧ ∀ l : Fin 8, (let x : LineId := ⟨l, .near⟩; ∀ i ∈ [Instr.ident x 5 [0, 0, 1, 0] 0, .status x 5 [0] 0,
        .done x 5 [0] 0, .request x 5 [1, 0, 0, 1] 0, .wrongResponder x [5, 0x42, 0], .checkFailure x [],
        .strayTelegram x []], WellFormed i = false) := by
  decide +kernel

/-- Terms at the edges of the checks are well formed. -/
theorem test_wellFormed_accepts :
    ∀ i ∈ [Instr.hostWrite 0xFFFF33 1 ⟨true, false⟩, .hostWrite 0xFFFF68 1 ⟨false, true⟩, .stopWrite 0x101 ⟨true, true⟩,
      .parameterWrite 0xFFFF34 1 ⟨true, true⟩, .parameterWrite 0xFFFF67 1 ⟨true, true⟩], WellFormed i = true := by
  decide +kernel

/-- No row of the table gives bits, so no word spells a command and none reaches the queue that way. -/
theorem test_no_word_spells_a_command (nbits w : Nat) (s : State) :
    decodeTableWord nbits w = none ∧ s.withFetchWord nbits w = s := ⟨rfl, rfl⟩

/-! ### Worked examples -/

/-- The check of R22 on the nine bytes whose check value is published for this CRC, 0x29B1. -/
theorem test_crc_published_check_value : crc [0x31, 0x32, 0x33, 0x34, 0x35, 0x36, 0x37, 0x38, 0x39] = 0x29B1#16 := by
  decide +kernel

/-- R65: 12,949 m is 12.9, 12,950 m is 13.0, and a marker past 999.9 stays at 999.9. -/
theorem test_marker_rounds_and_carries :
    markerOf 12949 = ⟨12, 9⟩ ∧ markerOf 12950 = ⟨13, 0⟩ ∧ markerOf 999999 = ⟨999, 9⟩ := by
  decide +kernel

/-- R118: the mean is rounded to the nearest metre, an exact half up. -/
theorem test_estimate_rounds_half_up : estimateOf 21 2 = 11 ∧ estimateOf 22 2 = 11 ∧ estimateOf 10 3 = 3 := by
  decide +kernel

/-- The ranking example of 5.4: effective classes 1, 3, 2 and 2, with a promote interval of 12,000 ticks. -/
theorem test_ranking_example :
    [(1, 522000), (3, 515000), (4, 500000), (2, 523000)].map
      (fun c => effectiveClass c.1 (promotionSteps (524100 - c.2) 12000)) = [1, 3, 2, 2] := by
  decide +kernel

/-- The producer example of chapter 1: with 42 held, 8 entries and 42 consumed, 51 is refused and 50 is taken. -/
theorem test_producer_example :
    let s : State := { State.reset with path := { State.reset.path with
      heldProducer := 42, heldConsumer := 42, windows := some ⟨0, 8, 0, 0, 16, 0, 0⟩ } };
    (s.producerWritten 51).path.heldProducer = 42 ∧ (s.producerWritten 50).path.heldProducer = 50
      ∧ (s.producerWritten 43).path.published = [2] := by
  decide +kernel

/-- R11: a write of a queued address replaces the older entry and stands at the tail, as the consumer entry of 42
replaces that of 41 in the example of chapter 1. -/
theorem test_queue_replaces_older_entry :
    enqueue [⟨0x2000, 1⟩, ⟨0xFFFF1E, 41⟩, ⟨0x2002, 2⟩] ⟨0xFFFF1E, 42⟩ = [⟨0x2000, 1⟩, ⟨0x2002, 2⟩, ⟨0xFFFF1E, 42⟩] := by
  decide +kernel

/-- R96: an earlier sequence precedes a later one across the wrap of the counter. -/
theorem test_sequences_compare_across_the_wrap : earlier 0xFFFFFFFF 0 = true ∧ earlier 0 0xFFFFFFFF = false := by
  decide +kernel

/-! ### Small states -/

/-- The NEAR side of segment 0. -/
def near0 : LineId := { segment := 0, side := .near }

/-- Both byte enables. -/
def both : Enables := ⟨true, true⟩

/-- A layout of eight commands and sixteen events. -/
def layout : WindowSet :=
  { commandBase := 0x1000, commandCount := 8, resultBase := 0x2000, eventBase := 0x3000, eventCount := 16,
    directoryBase := 0x8000, boardBase := 0x4000 }

/-- An anchor shadow with segment 0 used, eight drops, and some parameters. -/
def anchor : Vector Word 128 :=
  ([(0, 1), (18, 0x8008), (26, 50), (27, 10), (30, 50), (31, 3), (32, 2), (42, 40), (43, 20), (48, 20), (49, 2), (50, 30),
    (51, 60)] : List (Fin 128 × Word)).foldl (fun a p => put a p.1 p.2) (Vector.replicate 128 0)

/-- A machine in RUN with segment 0 ACTIVE and its drop 5 PRESENT. -/
def running : State :=
  { State.reset with
    path := { State.reset.path with queue := [], anchor := anchor, windows := some layout }
    engine := { State.reset.engine with state := .run }
    segments := put State.reset.segments 0 { Segment.reset with state := .active }
    posts := put State.reset.posts 4 { Post.reset with state := .present }
    lines := put State.reset.lines 0 { LineSide.reset with state := .serving } }

def withPost (i : Fin 256) (x : Post) (s : State) : State := { s with posts := put s.posts i x }
def withPosition (p : Fin 16) (x : Position) (s : State) : State := { s with positions := put s.positions p x }
def withIncident (x : Incident) (s : State) : State :=
  { s with cluster := { s.cluster with records := put s.cluster.records 1 (some x) } }
def withLine (x : LineSide) (s : State) : State := { s with lines := put s.lines 0 x }
def withSegment (x : Segment) (s : State) : State := { s with segments := put s.segments 0 x }
def withEngine (st : EngineState) (step : EngineStep) (s : State) : State :=
  { s with engine := { s.engine with state := st, step := step } }
def withQueue (q : List QueueEntry) (s : State) : State := { s with path := { s.path with queue := q } }
def entryWords : Vector Word 8 := #v[0x8000, 1, 0, 1000, 0, 0x1234, 0, 0x8000 ^^^ 1 ^^^ 1000 ^^^ 0x1234 ^^^ 0x5A5A]
def withEntry (i : Fin 256) (s : State) : State :=
  { s with directory := put s.directory i { words := entryWords, valid := true } }
def withConnection (p : Fin 16) (s : State) : State :=
  { s with speech := { s.speech with connections := put s.speech.connections p (some ⟨0, 1⟩) } }
/-- The channel-map entry of call 7. -/
def channel7 (st : ChannelState) : Channel :=
  { state := st, call := if st = .free then none else some 7, corrupt := false }
/-- Call 7 in record 2, the live call of post 4, with channel 2 of segment 0 in the state given. -/
def withCall7 (c : Call) (ch : ChannelState) (s : State) : State :=
  { s with
    calls := { s.calls with records := put s.calls.records 2 (some c), nextNumber := 8, nextSequence := 1 }
    posts := put s.posts 4 { Post.reset with state := .present, liveCall := some 7 }
    speech := { s.speech with channels := put s.speech.channels 1 (channel7 ch) } }

/-! Lemmas: the small states are sound. -/

theorem running_sound : running.Sound := by constructor <;> decide +kernel

theorem sound_withPost {s : State} (h : s.Sound) (i : Fin 256) (x : Post) (hx : x.corrupt = false) :
    (withPost i x s).Sound where
  posts j := by
    simp only [Tests.withPost, State.post, put_get]
    split <;> first | exact hx | exact h.posts j
  positions := h.positions
  calls := h.calls
  incidents := h.incidents
  channels := h.channels
  crosspoints := h.crosspoints

theorem sound_withPosition {s : State} (h : s.Sound) (p : Fin 16) (x : Position) (hx : x.corrupt = false) :
    (withPosition p x s).Sound where
  posts := h.posts
  positions q := by
    simp only [Tests.withPosition, State.position, put_get]
    split <;> first | exact hx | exact h.positions q
  calls := h.calls
  incidents := h.incidents
  channels := h.channels
  crosspoints := h.crosspoints

theorem sound_withIncident {s : State} (h : s.Sound) (x : Incident) (hx : x.corrupt = false) :
    (withIncident x s).Sound where
  posts := h.posts
  positions := h.positions
  calls := h.calls
  incidents k := by
    simp only [Tests.withIncident, State.incident, put_get]
    split <;> first | simp [hx] | exact h.incidents k
  channels := h.channels
  crosspoints := h.crosspoints

theorem sound_withCall7 {s : State} (h : s.Sound) (c : Call) (hc : c.corrupt = false) (ch : ChannelState) :
    (withCall7 c ch s).Sound where
  posts j := by
    simp only [Tests.withCall7, State.post, put_get]
    split <;> first | rfl | exact h.posts j
  positions := h.positions
  calls r := by
    simp only [Tests.withCall7, State.call, put_get]
    split <;> first | simp [hc] | exact h.calls r
  incidents := h.incidents
  channels k := by
    simp only [Tests.withCall7, State.channel, put_get]
    split <;> first | rfl | exact h.channels k
  crosspoints := h.crosspoints

/-- Other parts of the state do not bear on soundness. -/
theorem sound_congr {s u : State} (h : s.Sound) (h1 : u.posts = s.posts) (h2 : u.positions = s.positions)
    (h3 : u.calls.records = s.calls.records) (h4 : u.cluster = s.cluster) (h5 : u.speech.channels = s.speech.channels)
    (h6 : u.speech.stuck = s.speech.stuck) : u.Sound where
  posts i := by have := h.posts i; simpa only [State.post, h1] using this
  positions p := by have := h.positions p; simpa only [State.position, h2] using this
  calls r := by have := h.calls r; simpa only [State.call, h3] using this
  incidents k := by have := h.incidents k; simpa only [State.incident, h4] using this
  channels c := by have := h.channels c; simpa only [State.channel, h5] using this
  crosspoints p := by rw [h6]; exact h.crosspoints p

/-! ### The hypotheses of the statements are met

Each theorem gives states and operands that meet the hypotheses of the statement it names, clause by clause. -/

/-- An idle machine steps; a command that is not a power-on reset or a tick is taken from the queue. -/
theorem test_hyps_machine :
    (State.reset.pending = [] ∧ step State.reset = .next State.reset ∧ ∃ t, exec .timeBaseTick State.reset = .next t)
    ∧ QueueWf State.reset.path.queue ∧ ReportsWf State.reset.reports.list ∧ DeferralsWf State.reset.calls.deferrals
    ∧ Memory.wf State.reset.mem = true ∧ writesMemory .timeBaseTick = false
    ∧ ∀ l, Instr.timeBaseTick ≠ .overCurrentAssert l ∧ Instr.timeBaseTick ≠ .overCurrentClear l := by
  refine ⟨⟨rfl, rfl, _, rfl⟩, ⟨by decide +kernel, by decide +kernel⟩, List.nodup_nil, List.nodup_nil, rfl, rfl, ?_⟩
  intro l
  constructor <;> (intro h; cases h)

/-- A QUEUED call waits in the queue, and no position is open. -/
def waiting : State :=
  let s := withCall7 (Call.fresh 7 4 .incoming .queued) .free running;
  { s with calls := { s.calls with queue := [2] } }

/-- A QUEUED call of the type given, for a post. -/
def queuedCall (n : Nat) (i : Fin 256) (type : RequestType) : Call :=
  { Call.fresh n i .incoming .queued with requestType := some type, arrivalTime := some 0, arrivalSeq := some 0 }

/-- Three offerable calls: one of class 4 stands before call 7 of class 2, and one of class 2 after it. -/
def ranking : State :=
  let s := withPost 6 { Post.reset with state := .present } (withPost 5 { Post.reset with state := .present } waiting);
  let records := put (put (put s.calls.records 2 (some (queuedCall 7 4 .emergency))) 6 (some (queuedCall 8 5 .assist))) 9
    (some (queuedCall 9 6 .emergency));
  withPosition 3 { Position.reset with state := .free } { s with calls := { s.calls with records, queue := [6, 2, 9] } }

/-- Call 7 waits alone; positions 3 and 5 have been idle as long as each other, 4 for less, and 9, idle longest, has declined
it. -/
def idling : State :=
  let free (t : Time) : Position := { Position.reset with state := .free, freeSince := t };
  let c := { queuedCall 7 4 .emergency with declinedBy := [9] };
  let s := withPosition 9 (free 100) (withPosition 5 (free 500) (withPosition 4 (free 900) (withPosition 3 (free 500) waiting)));
  { s with time := 1000, calls := { s.calls with records := put s.calls.records 2 (some c) } }

theorem ranking_sound : ranking.Sound := by constructor <;> decide +kernel
theorem idling_sound : idling.Sound := by constructor <;> decide +kernel

/-- A dispatch run with no position eligible ends without a fault and leaves its queue, as does one whose only call has been
declined; a position alone has calls ranked before and after the one it takes; a call alone has positions to choose from. -/
theorem test_hyps_DispatchRunLeavesNoPairUnmade :
    (dispatchRun waiting = .ok () waiting ∧ 2 ∈ waiting.calls.queue
      ∧ waiting.call 2 = some (Call.fresh 7 4 .incoming .queued))
    ∧ ranking.Sound ∧ idling.Sound
    ∧ (ranking.call 2 = some (queuedCall 7 4 .emergency) ∧ ranking.calls.queue = [6] ++ 2 :: [9]
      ∧ (∀ q, (ranking.position q).state = .free ∧ (ranking.position q).held = [] → q = 3)
      ∧ (ranking.position 3).state = .free ∧ (ranking.position 3).held = []
      ∧ (∀ x ∈ [((6 : Fin 64), queuedCall 8 5 .assist), (2, queuedCall 7 4 .emergency), (9, queuedCall 9 6 .emergency)],
        ranking.call x.1 = some x.2 ∧ (ranking.post x.2.post).state = .present
        ∧ (ranking.segment (postSegment x.2.post)).state = .active)
      ∧ (∀ ch, (ranking.channel (channelIndex 0 ch)).state = .free) ∧ ranking.channelHeldBy 7 = none
      ∧ ranking.classOf (queuedCall 7 4 .emergency) < ranking.classOf (queuedCall 8 5 .assist)
      ∧ ranking.classOf (queuedCall 7 4 .emergency) = ranking.classOf (queuedCall 9 6 .emergency))
    ∧ (idling.calls.queue = [2] ∧ idling.call 2 = some { queuedCall 7 4 .emergency with declinedBy := [9] }
      ∧ (idling.post 4).state = .present ∧ (idling.segment 0).state = .active ∧ idling.channelHeldBy 7 = none
      ∧ (idling.position 3).state = .free ∧ (idling.position 3).held = []
      ∧ ∀ q, (idling.position q).state = .free → q ∉ [(9 : Fin 16)] →
          (1000 - (idling.position q).freeSince).toNat < (1000 - (idling.position 3).freeSince).toNat
          ∨ (1000 - (idling.position q).freeSince).toNat = (1000 - (idling.position 3).freeSince).toNat ∧ 3 ≤ q) := by
  have h : waiting.eligiblePositions.isEmpty = true := by decide +kernel
  refine ⟨⟨?_, by decide +kernel⟩, ranking_sound, idling_sound, by decide +kernel, by decide +kernel⟩
  simp only [dispatchRun, Op.bind_apply, Op.get_apply, h, if_true, Op.pure_apply]

/-- R133, R134: the call of lowest class is offered before one that arrived earlier, and a call alone goes to the lower of
the two positions idle longest that it has not been declined by. -/
theorem test_dispatch_takes_rank_and_idle_time :
    let offered (s : State) : List (Nat × List (Fin 16)) := s.calls.records.toList.filterMap (fun o =>
      o.bind (fun c => if c.state = .offered then some (c.number, c.parties) else none));
    offered (ranking.settle dispatchRun) = [(7, [3])] ∧ offered (idling.settle dispatchRun) = [(7, [3])]
    ∧ (ranking.settle dispatchRun).calls.queue = [6, 9] := by
  decide +kernel

/-- A memory path whose turn is the part's, with `words` words of a part read left and a queue. -/
def partsTurn (words : Nat) (q : List QueueEntry) (s : State) : State :=
  { s with path := { s.path with partTurn := true, readWords := words, queue := q } }

/-- A host access waits where the part has its turn with a queue, or with the last word of its read; with more words left,
or in the host's turn, it is served. -/
theorem test_hyps_host_accesses :
    running.ServesHost ∧ State.reset.ServesHost ∧ (partsTurn 2 [] (withEngine .starting .anchorRead running)).ServesHost
    ∧ (partsTurn 0 [⟨0x4000, 9⟩] running).accessWaits = true
    ∧ (partsTurn 1 [] (withEngine .starting .anchorRead running)).accessWaits = true := by
  unfold State.ServesHost
  decide +kernel

/-- Writes of each kind: to plain memory, to a part-owned word, to a layout word in RUN, to the control word, to the
first and the last parameter, into a slot and into the directory, with the first and the last word of each. -/
theorem test_hyps_host_writes :
    both.some = true
    ∧ ([0x6001, 0, 0xFFFEFE] : List (BitVec 24)).all (fun a => !running.trespasses (wordAddress a)
        && (anchorWordAt (wordAddress a)).isNone && (running.directoryAt (wordAddress a)).isNone
        && (running.slotAt (wordAddress a)).isNone) = true
    ∧ Memory.wf running.mem = true
    ∧ ([0x4000, 0x43FF, 0xFFFF03, 0xFFFF04, 0xFFFFF0] : List (BitVec 24)).all
        (fun a => running.trespasses (wordAddress a)) = true
    ∧ running.trespasses Config.anchorBase = false ∧ State.reset.trespasses Config.anchorBase = false
    ∧ (State.reset.engine.state ≠ .run ∧ State.reset.engine.state ≠ .failed ∨ State.reset.mergedControl 0 both = 1)
    ∧ running.mergedControl 1 both = 1
    ∧ running.mergedControl 0x101 both ≠ 1 ∧ running.engine.state = .run
    ∧ (withEngine .failed .idle running).engine.state = .failed
    ∧ (withEngine .failed .idle running).mergedControl 0 both ≠ 1
    ∧ anchorWordAt (wordAddress 0xFFFF35) = some 26 ∧ isParameter 26 = true ∧ isParameter 51 = true
    ∧ anchorWordAt (wordAddress 0xFFFF66) = some 51 ∧ running.trespasses (wordAddress 0xFFFF66) = false
    ∧ running.slotAt (wordAddress 0x1000) = some (0, 0) ∧ running.slotAt (wordAddress 0x107E) = some (7, 7)
    ∧ running.directoryAt (wordAddress 0x107E) = none ∧ running.trespasses (wordAddress 0x107E) = false
    ∧ running.directoryAt (wordAddress 0x8000) = some (0, 0) ∧ running.directoryAt (wordAddress 0x8FFF) = some (255, 7)
    ∧ anchorWordAt (wordAddress 0x8FFF) = none ∧ running.trespasses (wordAddress 0x8FFF) = false
    ∧ running.readingDirectory = false ∧ (running.post 255).corrupt = false := by
  decide +kernel

/-- The producer and consumer words are the host's while a window set is in effect. -/
theorem test_hyps_ring_indices :
    running.path.windows = some layout ∧ running.path.windows.isSome = true
    ∧ running.trespasses (Config.anchorAddress 14) = false ∧ running.trespasses (Config.anchorAddress 17) = false := by
  decide +kernel

/-- A queue with a head; the window set in STANDBY, and outside it. -/
theorem test_hyps_queue_and_windows :
    (let s := withQueue [⟨0x4000, 9⟩, ⟨0x4002, 8⟩] running;
      s.path.queue = ⟨0x4000, 9⟩ :: [⟨0x4002, 8⟩] ∧ s.path.heldAccesses = [] ∧ s.path.engineWaiting = []
      ∧ s.path.taker = .idle ∧ s.reports.steps = [] ∧ s.path.queue ≠ [])
    ∧ (let s := withEngine .standby .idle running;
      s.engine.state = .standby ∧ s.path.queue = [] ∧ s.path.engineWaiting = [] ∧ s.path.windows.isSome = true)
    ∧ running.engine.state ≠ .standby := by
  decide +kernel

/-- A machine with slots 3 and 4 published, slot 3 as given; `refused` have waited out a restart. -/
def published (words : Vector Word 8) (written : Bool) (refused : List (Fin 64) := []) : State :=
  let slot : Slot := { words := words, written := Vector.replicate 16 written };
  { running with path := { running.path with
      published := [3, 4], heldConsumer := 3, heldProducer := 5, refused := refused
      slots := put running.path.slots 3 slot } }

/-- Slots that fail test 1, that fail test 2, and that carry CLOSE_POSITION, one of them waiting since a restart. -/
theorem test_hyps_command_taker :
    (let s := published (Vector.replicate 8 0) false;
      s.takeableSlot = some 3 ∧ (s.path.slots.get 3).framed = false)
    ∧ (let s := published #v[0x1299, 0, 0, 0, 0, 0, 0, 0xED66] true;
      s.takeableSlot = some 3 ∧ (s.path.slots.get 3).framed = true ∧ commandOf (s.path.slots.get 3).words = none)
    ∧ (∀ refused ∈ [[], [(3 : Fin 64), 4]],
      let s := published #v[0x1221, 3, 0, 0, 0, 0, 0, 0xEDDE] true refused;
      s.takeableSlot = some 3 ∧ (s.path.slots.get 3).framed = true
      ∧ commandOf (s.path.slots.get 3).words = some (.closePosition 3)
      ∧ (3 ∈ s.path.refused ↔ refused ≠ [])
      ∧ s.takerPaused = false ∧ s.path.windows = some layout ∧ s.path.queue.length ≤ 30) := by
  decide +kernel

/-- Arguments past their ranges, and an engine that is not in RUN. -/
theorem test_hyps_command_arguments :
    postArg 8 1 = none ∧ postArg 0 0 = none ∧ postArg 0 33 = none ∧ (postArg 7 32).isSome = true
    ∧ 8 ≤ (8 : Word).toNat ∧ 16 ≤ (16 : Word).toNat ∧ 256 ≤ (256 : Word).toNat ∧ State.reset.inRun = false := by
  decide +kernel

/-! #### Engine control -/

/-- A start request with the window set released, and none; the anchor read over a valid layout and over zeros. -/
theorem test_hyps_start_up :
    (let s := { withQueue [] State.reset with engine := { State.reset.engine with startRequest := true } };
      s.engine.startRequest = true ∧ s.engine.state = .standby ∧ s.path.windows = none ∧ s.path.engineWaiting = []
      ∧ queueTakes s.path.queue (Config.anchorAddress 1) = true)
    ∧ State.reset.engine.startRequest = false
    ∧ (let s := withEngine .starting .anchorRead (withQueue [] State.reset);
      s.engine.step = .anchorRead ∧ s.path.queue = [] ∧ s.path.engineWaiting = [] ∧ s.path.heldAccesses = []
      ∧ (∀ n : Fin 128, (Vector.replicate 128 (0 : Word)).get n = Memory.word s.mem (Config.anchorBase + 2 * n.val))
      ∧ validateAnchor (Vector.replicate 128 0) ≠ .ok)
    ∧ (let s : State := { running with lines := State.reset.lines };
      let s := withEngine .starting .directoryRead s;
      s.engine.step = .directoryRead ∧ s.path.queue = [] ∧ s.path.engineWaiting = [] ∧ s.path.heldAccesses = []
      ∧ s.path.windows = some layout
      ∧ s.controlRun = true ∧ ∀ k, (s.lines.get k).state = .off ∧ (s.lines.get k).exchange = none) := by
  decide +kernel

/-- A memory whose anchor block holds a layout that passes every check: 8 commands, 16 events. -/
def laidOut : State :=
  let words : List (Nat × Word) := [(3, 0x1000), (4, 8), (6, 0x2000), (8, 0x3000), (9, 16), (11, 0x8000), (13, 0x4000)];
  let mem := words.foldl (fun m p => Memory.write m (Config.anchorAddress p.1) both p.2) [];
  withEngine .starting .anchorRead { withQueue [] State.reset with mem := mem }

theorem test_hyps_anchor_read_ok :
    laidOut.engine.step = .anchorRead ∧ laidOut.path.queue = [] ∧ laidOut.path.engineWaiting = []
    ∧ laidOut.path.heldAccesses = []
    ∧ ∃ a : Vector Word 128, (∀ n : Fin 128, a.get n = Memory.word laidOut.mem (Config.anchorBase + 2 * n.val))
      ∧ validateAnchor a = .ok := by
  refine ⟨rfl, rfl, rfl, rfl, Vector.ofFn (fun n => Memory.word laidOut.mem (Config.anchorBase + 2 * n.val)), ?_⟩
  decide +kernel

/-- The states in which a class B fault is handed over, with a failure clear under way and without one. -/
theorem test_hyps_ClassBFaultStartsRestart :
    (∀ st ∈ [EngineState.run, .restarting, .standby, .failed], (withEngine st .idle running).engine.state = st)
    ∧ ∀ st ∈ [EngineState.starting, .stopping],
      (withEngine st .idle running).engine.state = st ∧ (withEngine st .idle running).clearing = false
      ∧ (withEngine st .draining running).engine.state = st ∧ (withEngine st .draining running).clearing = true := by
  decide +kernel

/-- The end of the drain, and of the write of the restart area with no access held, a read held and a plain write held. -/
theorem test_hyps_RestartAreaIsWrittenAfterDrain :
    (let s := withEngine .restarting .draining running;
      s.engine.step = .draining ∧ s.path.queue = [] ∧ s.path.engineWaiting = [] ∧ Memory.wf s.mem = true)
    ∧ (∀ held ∈ [[], [HostAccess.read 0x6001 both], [.write 0x6001 9 both]],
      let s := withEngine .restarting .areaWriting running;
      let s := { s with path := { s.path with heldAccesses := held } };
      s.engine.step = .areaWriting ∧ s.path.heldAccesses = held)
    ∧ both.some = true ∧ running.trespasses (wordAddress 0x6001) = false ∧ anchorWordAt (wordAddress 0x6001) = none
    ∧ running.directoryAt (wordAddress 0x6001) = none ∧ running.slotAt (wordAddress 0x6001) = none := by
  decide +kernel

/-- A machine as the directory reload of a restart or of a failure clear ends, with the control word as given. -/
def reloading (st : EngineState) (failed : Bool) (control : Word) : State :=
  { withEngine st .reloading running with
    path := { running.path with anchor := put running.path.anchor 0 control }
    engine := { running.engine with state := st, step := .reloading, outcomeFailed := failed } }

/-- A reload that ends in RUN, in FAILED and in STANDBY, the last two also out of STARTING. -/
theorem test_hyps_ReloadReturnsEngineToRun :
    (∀ st failed control, (reloading st failed control).Sound)
    ∧ ∀ x ∈ [(EngineState.restarting, false, (1 : Word)), (.restarting, true, 1), (.restarting, true, 0),
        (.starting, false, 1), (.stopping, true, 0)],
      let s := reloading x.1 x.2.1 x.2.2;
      s.engine.step = .reloading ∧ s.path.queue = [] ∧ s.path.engineWaiting = [] ∧ s.path.heldAccesses = []
      ∧ s.path.windows = some layout ∧ s.engine.state = x.1 ∧ s.engine.outcomeFailed = x.2.1
      ∧ s.controlRun = (x.2.2 == 1) :=
  ⟨fun _ _ _ => sound_congr running_sound rfl rfl rfl rfl rfl rfl, by decide +kernel⟩

/-! #### Calls -/

/-- An OPEN incident with one live member, its window timer due. -/
def incident5 : Incident :=
  { number := 5, state := .opened, carriageway := .a, lo := 10, hi := 10, sum := 10, count := 1, live := 1, lastCall := 0,
    lead := none, leadAnswered := false, creation := 0, estimate := 10, marker := markerOf 10, windowTimer := some 0,
    quietCause := none, closeCause := none, corrupt := false }

/-- An EMERGENCY call of post 4, in the state given. -/
def callIn (st : CallState) : Call :=
  { Call.fresh 7 4 .incoming st with requestType := some .emergency, arrivalTime := some 0, arrivalSeq := some 0 }

/-- A call with channel 2 and the parties given. -/
def talk (st : CallState) (parties : List (Fin 16)) : Call := { callIn st with channel := some 1, parties := parties }

/-- A FREE position. -/
def freePosition3 : Position := { Position.reset with state := .free }

/-- A position in the state given with call 7, its offer and ring timers due. -/
def seated (st : PositionState) : Position :=
  { Position.reset with state := st, current := some 7, offerTimer := some 0, ringTimer := some 0 }

def free : State := withPosition 3 freePosition3 running
def queued : State := withCall7 (callIn .queued) .free free
def offered : State := withPosition 3 (seated .offered) (withCall7 (talk .offered [3]) .reserved running)
def talking (st : CallState) (ch : ChannelState) : State :=
  withConnection 3 (withPosition 3 (seated .active) (withCall7 (talk st [3]) ch running))
def conference : State :=
  withConnection 5 (withPosition 5 (seated .active) (withConnection 3 (withPosition 3 (seated .active)
    (withCall7 (talk .active [5, 3]) .inUse running))))
def heldCall : Call := { callIn .held with holder := some 3 }
def holding : State := withPosition 3 { freePosition3 with held := [7] } (withCall7 heldCall .free running)
def ringing : State := withPosition 3 (seated .dialling) (withCall7 (talk .ringing [3]) .reserved running)
def reserving : State := withCall7 (callIn .reserved) .free running

theorem free_sound : free.Sound := sound_withPosition running_sound _ _ rfl
theorem queued_sound : queued.Sound := sound_withCall7 free_sound _ rfl _
theorem offered_sound : offered.Sound := sound_withPosition (sound_withCall7 running_sound _ rfl _) _ _ rfl
theorem talking_sound (st : CallState) (ch : ChannelState) : (talking st ch).Sound :=
  sound_congr (sound_withPosition (sound_withCall7 running_sound _ rfl ch) _ (seated .active) rfl) rfl rfl rfl rfl rfl rfl
theorem conference_sound : conference.Sound := by
  have h := sound_withPosition (sound_withCall7 running_sound (talk .active [5, 3]) rfl .inUse) 3 (seated .active) rfl
  have h' : (withConnection 3 (withPosition 3 (seated .active) (withCall7 (talk .active [5, 3]) .inUse running))).Sound :=
    sound_congr h rfl rfl rfl rfl rfl rfl
  exact sound_congr (sound_withPosition h' 5 (seated .active) rfl) rfl rfl rfl rfl rfl rfl
theorem holding_sound : holding.Sound := sound_withPosition (sound_withCall7 running_sound _ rfl _) _ _ rfl
theorem ringing_sound : ringing.Sound := sound_withPosition (sound_withCall7 running_sound _ rfl _) _ _ rfl
theorem reserving_sound : reserving.Sound := sound_withCall7 running_sound _ rfl _

/-- Call 7 is the only call of a running machine, and its channel names it. -/
theorem talking_channelsHeld (st : CallState) (ch : ChannelState) (h : ch ≠ .free) : (talking st ch).ChannelsHeld := by
  have only : ∀ r c, (talking st ch).call r = some c → r = 2 ∧ c = talk st [3] := by
    intro r c e
    have e' : (put running.calls.records 2 (some (talk st [3]))).get r = some c := e
    rw [put_get] at e'
    split at e'
    · rename_i hr; cases e'; exact ⟨hr, rfl⟩
    · have : ∀ q, running.calls.records.get q = none := by decide +kernel
      rw [this] at e'; cases e'
  refine ⟨fun r c n e _ hn => ?_, fun q r c d e f _ _ _ => (only q c e).1.trans (only r d f).1.symm⟩
  obtain ⟨rfl, rfl⟩ := only r c e
  cases hn
  refine ⟨ch, h, rfl, ?_⟩
  have e : channelIndex (postSegment 4) 1 = 1 := by decide +kernel
  show (put running.speech.channels 1 (channel7 ch)).get (channelIndex (postSegment 4) 1) = _
  rw [e, put_get_self]
  simp [channel7, h, talk, callIn, Call.fresh]

/-- A state in STOPPING with its line sides done, nothing to report, and a FINISHING side with nothing left to send. -/
def stopped : State :=
  let s := withLine { LineSide.reset with state := .finishing } (withEngine .stopping .idle queued);
  { s with reports := State.reset.reports }

/-- STOP meets a talking call and an incident of each kind; the end of STOPPING. -/
theorem test_hyps_StopTakesEngineOutOfService :
    (∀ x : Incident, x.corrupt = false → (withIncident x (talking .active .inUse)).Sound)
    ∧ (∀ x, (withIncident x (talking .active .inUse)).ChannelsHeld) ∧ stopped.Sound
    ∧ (∀ st ∈ [IncidentState.opened, .quiet],
      let x := { incident5 with state := st };
      let s := withIncident x (talking .active .inUse);
      s.accessWaits = false ∧ s.path.heldAccesses = [] ∧ s.trespasses Config.anchorBase = false
      ∧ s.mergedControl 0 both ≠ 1 ∧ s.engine.state = .run ∧ s.incident 1 = some x ∧ x.state ≠ .closed)
    ∧ stopped.engine.state = .stopping ∧ stopped.clearing = false ∧ stopped.dispatchDue = false
    ∧ stopped.reports.list = []
    ∧ ∀ k, (stopped.lines.get k).state = .off ∨ (stopped.lines.get k).state = .finishing
        ∧ (stopped.lines.get k).exchange = none ∧ (stopped.lines.get k).service = [] :=
  ⟨fun x => sound_withIncident (talking_sound _ _) x,
    fun _ => ⟨(talking_channelsHeld .active .inUse nofun).holds, (talking_channelsHeld .active .inUse nofun).numbers⟩,
    sound_congr queued_sound rfl rfl rfl rfl rfl rfl, by decide +kernel⟩

theorem test_hyps_IsolatePostBarsPost :
    (running.Sound ∧ queued.Sound ∧ (withPost 4 { Post.reset with state := .isolated } running).Sound)
    ∧ (∀ s ∈ [running, queued, withPost 4 { Post.reset with state := .isolated } running], s.inRun = true)
    ∧ postArg 0 5 = some 4
    ∧ ((withPost 4 { Post.reset with state := .isolated } running).post 4).state = .isolated
    ∧ (running.post 4).state ≠ .isolated ∧ (running.post 4).liveCall = none ∧ (running.post 4).deferred = false
    ∧ (running.post 4).side = .near
    ∧ (queued.post 4).liveCall = some 7 ∧ (queued.post 4).deferred = false ∧ (queued.post 4).side = .near
    ∧ (queued.post 4).state ≠ .isolated
    ∧ queued.liveCall 7 = some (2, callIn .queued) ∧ (callIn .queued).channel = none ∧ (callIn .queued).post = 4 :=
  ⟨⟨running_sound, queued_sound, sound_withPost running_sound _ _ rfl⟩, by decide +kernel⟩

theorem test_hyps_posts :
    running.inRun = true ∧ postArg 0 5 = some 4 ∧ (running.post 4).corrupt = false ∧ (running.post 4).state = .present
    ∧ (running.post 4).liveCall = none ∧ (running.post 4).deferred = false ∧ (running.post 4).commands = []
    ∧ postArg 7 32 = some 255 ∧ (running.post 255).state = .unreachable ∧ (running.post 255).corrupt = false
    ∧ (queued.post 4).state = .present ∧ (queued.post 4).liveCall.isSome = true ∧ (queued.post 4).corrupt = false := by
  decide +kernel

/-- A FED break of segment 0 whose far limit is drop 5. -/
def farBreak : Break := Break.mk .fed 4 (some 2) (some 4) none [] none

/-- A post that is back in service, on a serving segment and on a latched one, and a far limit post beyond its break. -/
theorem test_hyps_RestorePostReturnsPostToService :
    ∀ st ∈ [PostState.isolated, .silent],
      (let s := withPost 4 { Post.reset with state := st } running;
        (s.post 4).state = st ∧ (s.post 4).corrupt = false ∧ (s.post 4).side = .near ∧ s.inRun = true
        ∧ (s.segment (postSegment 4)).serving = true ∧ s.beyondBreak 4 = false)
      ∧ (let s := withSegment { Segment.reset with state := .latched } (withPost 4 { Post.reset with state := st } running);
        (s.post 4).state = st ∧ (s.post 4).side = .near ∧ (s.segment (postSegment 4)).serving = false)
      ∧ (let s := withSegment { Segment.reset with state := .active, broken := some farBreak }
            (withPost 9 { Post.reset with state := .present, side := .far }
              (withPost 4 { Post.reset with state := st, side := .far } running));
        (s.post 4).state = st ∧ (s.post 4).side = .far ∧ s.beyondBreak 4 = true
        ∧ s.broken (postSegment 4) = some farBreak ∧ farBreak.state ≠ .cut ∧ farBreak.farLimit = some (postDrop 4)
        ∧ s.lowestFar (postSegment 4) = some 9) := by
  decide +kernel

theorem test_hyps_ClearedOrRetriedSegmentEntersSweep :
    (∀ x : Segment, (withSegment x (withEntry 4 running)).Sound)
    ∧ segmentArg 0 = some 0 ∧ segmentArg 7 = some 7 ∧ running.inRun = true
    ∧ (running.segment 7).state = .unused
    ∧ (∀ st ∈ [SegmentState.latched, .inhibited],
        let s := withSegment { Segment.reset with state := st, retryTimer := some 0, retryCount := 3 } (withEntry 4 running);
        (s.segment 0).state = st ∧ (s.segment 0).farFeed = false ∧ s.nearSweepList 0 ≠ []
        ∧ timerDue s.time (s.segment 0).retryTimer = true ∧ s.inRun = true
        ∧ (withEngine .stopping .idle s).inRun = false) :=
  ⟨fun _ => sound_congr running_sound rfl rfl rfl rfl rfl rfl, by decide +kernel⟩

/-- A post keeps its place where its calls are QUEUED and no record is RESERVED for it. -/
theorem keepsPlace {s : State} {i : Fin 256}
    (h : (∀ n ∈ (s.post i).liveCall, ∀ r ∈ s.callNumbered n, ∀ c ∈ s.call r, c.state = .queued)
      ∧ ((s.post i).deferred = true → s.reservedFor i = none)) : s.KeepsPlace i :=
  ⟨fun n r c h1 h2 h3 => h.1 n h1 r h2 c h3, h.2⟩

/-- A deferred post with a record RESERVED for it. -/
def invited : State :=
  let s := withPost 4 { Post.reset with state := .present, deferred := true } reserving;
  { s with calls := { s.calls with deferrals := [⟨4, .overflow⟩, ⟨9, .overflow⟩] } }

/-- INHIBIT_SEGMENT meets an UNUSED and a held segment, one whose post has a QUEUED call, and one with a call or a record of
each other kind. -/
theorem test_hyps_InhibitSegmentHoldsSegmentOut :
    ((∀ st ch, (talking st ch).Sound) ∧ queued.Sound ∧ offered.Sound ∧ holding.Sound ∧ ringing.Sound ∧ invited.Sound
      ∧ ∀ x, (withSegment x running).Sound)
    ∧ (∀ d, queued.KeepsPlace (postIndex 0 d))
    ∧ (∀ s ∈ [talking .connecting .reserved, talking .active .inUse, talking .retrieving .reserved, offered,
        holding, ringing, invited],
        ∀ d, postIndex 0 d ≠ 4 → s.KeepsPlace (postIndex 0 d))
    ∧ segmentArg 0 = some 0 ∧ segmentArg 7 = some 7 ∧ postSegment 4 = 0 ∧ (running.segment 7).state = .unused
    ∧ (withSegment { Segment.reset with state := .latched } running).segment 0 = { Segment.reset with state := .latched }
    ∧ (queued.segment 0).serving = true ∧ queued.inRun = true
    ∧ (∀ x ∈ [(CallState.connecting, ChannelState.reserved), (.active, .inUse), (.retrieving, .reserved)],
      let s := talking x.1 x.2;
      s.inRun = true ∧ (s.segment 0).serving = true ∧ (s.post 4).state = .present ∧ (s.post 4).deferred = false
      ∧ (s.post 4).liveCall = some 7 ∧ s.liveCall 7 = some (2, talk x.1 [3]) ∧ x.2 ≠ .free
      ∧ s.channel (channelIndex 0 1) = { state := x.2, call := some 7, corrupt := false } ∧ s.othersOn 3 ⟨0, 1⟩ = 0
      ∧ s.speech.connections.get 3 = some ⟨0, 1⟩)
    ∧ (offered.segment 0).serving = true ∧ (offered.post 4).state = .present ∧ (offered.post 4).deferred = false
    ∧ (offered.post 4).liveCall = some 7 ∧ offered.liveCall 7 = some (2, talk .offered [3])
    ∧ offered.channel (channelIndex 0 1) = { state := .reserved, call := some 7, corrupt := false }
    ∧ offered.othersOn 3 ⟨0, 1⟩ = 0
    ∧ (∀ x ∈ [(holding, heldCall), (ringing, talk .ringing [3])],
      (x.1.segment 0).serving = true ∧ (x.1.post 4).state = .present ∧ (x.1.post 4).deferred = false ∧ x.1.inRun = true
      ∧ (x.1.post 4).liveCall = some 7 ∧ x.1.liveCall 7 = some (2, x.2) ∧ x.2.post = 4)
    ∧ heldCall.holder = some 3 ∧ heldCall.channel = none ∧ ringing.othersOn 3 ⟨0, 1⟩ = 0
    ∧ ringing.channel (channelIndex 0 1) = { state := .reserved, call := some 7, corrupt := false }
    ∧ (invited.segment 0).serving = true ∧ (invited.post 4).state = .present ∧ (invited.post 4).deferred = true
    ∧ (invited.post 4).liveCall = none ∧ invited.reservedFor 4 = some 2 ∧ invited.call 2 = some (callIn .reserved)
    ∧ (callIn .reserved).channel = none :=
  ⟨⟨talking_sound, queued_sound, offered_sound, holding_sound, ringing_sound, sound_congr (sound_withPost reserving_sound _ _ rfl) rfl rfl rfl rfl rfl rfl,
      fun _ => sound_congr running_sound rfl rfl rfl rfl rfl rfl⟩,
    fun d => keepsPlace (by revert d; decide +kernel),
    fun s hs d hd => keepsPlace (by revert s hs d; decide +kernel), by decide +kernel⟩

theorem test_hyps_StableAndRestoreTimersAct :
    (let s := withSegment { Segment.reset with state := .active, stableTimer := some 0, retryCount := 2 } running;
      (s.segment 0).state = .active ∧ timerDue s.time (s.segment 0).stableTimer = true)
    ∧ (let b : Break := Break.mk .fed 6 (some 4) (some 9) none [] (some 0);
      let s := withSegment { Segment.reset with state := .active, broken := some b } running;
      s.broken 0 = some b ∧ timerDue s.time b.restoreTimer = true ∧ b.state ≠ .restorePending ∧ s.inRun = true) := by
  decide +kernel

theorem test_hyps_DropCallEndsWaitingCall :
    (queued.Sound ∧ reserving.Sound ∧ offered.Sound ∧ holding.Sound ∧ (talking .active .inUse).Sound)
    ∧ offered.HoldsChannel (talk .offered [3]) 1 .reserved
    ∧ callArg 0 = none ∧ callArg 7 = some 7 ∧ callArg 0xFFFF = some 65535 ∧ queued.inRun = true
    ∧ queued.liveCall 65535 = none ∧ queued.liveCall 7 = some (2, callIn .queued) ∧ (callIn .queued).channel = none
    ∧ (talking .active .inUse).liveCall 7 = some (2, talk .active [3])
    ∧ reserving.liveCall 7 = some (2, callIn .reserved)
    ∧ holding.liveCall 7 = some (2, heldCall) ∧ heldCall.state = .held ∧ heldCall.channel = none
    ∧ offered.liveCall 7 = some (2, talk .offered [3])
    ∧ offered.othersOn 3 ⟨postSegment (talk .offered [3]).post, 1⟩ = 0 :=
  ⟨⟨queued_sound, reserving_sound, offered_sound, holding_sound, talking_sound _ _⟩, ⟨rfl, by decide +kernel⟩,
    by decide +kernel⟩

theorem test_hyps_OpenIncidentBecomesQuietOrCloses :
    (∀ live st, (withIncident { incident5 with live := live, state := st } running).Sound)
    ∧ incidentArg 0 = none ∧ incidentArg 256 = none ∧ incidentArg 5 = some 5 ∧ incidentArg 255 = some 255
    ∧ (withIncident incident5 running).inRun = true ∧ (withIncident incident5 running).incidentNumbered 255 = none
    ∧ (∀ live ∈ [0, 1], ∀ st ∈ [IncidentState.opened, .quiet, .closed],
        let x := { incident5 with live := live, state := st };
        (withIncident x running).incidentNumbered 5 = some 1 ∧ (withIncident x running).incident 1 = some x
        ∧ timerDue (withIncident x running).time x.windowTimer = true) :=
  ⟨fun _ _ => sound_withIncident running_sound _ rfl, by decide +kernel⟩

theorem test_hyps_ReannouncementPlaysStillWaiting :
    let s := { queued with calls := { queued.calls with queue := [2], reannounce := some 0 } }
    s.Sound ∧ timerDue s.time s.calls.reannounce = true ∧ (∀ r ∈ s.calls.queue, (s.call r).isSome = true)
    ∧ (s.calls.queue.map (fun r => (s.call r).map Call.post)).Nodup :=
  ⟨sound_congr queued_sound rfl rfl rfl rfl rfl rfl, by decide +kernel⟩

/-! #### Positions and the speech switch -/

theorem test_hyps_positions :
    positionArg 3 = some 3 ∧ positionArg 15 = some 15 ∧ free.inRun = true ∧ (free.position 3).corrupt = false
    ∧ (free.position 15).corrupt = false ∧ (free.position 15).state = .closed ∧ (free.position 3).state = .free
    ∧ (free.position 3).held = [] ∧ (holding.position 3).held ≠ []
    ∧ (let s := withPosition 3 { Position.reset with state := .wrapup, wrapTimer := some 0 } running;
      (s.position 3).corrupt = false ∧ (s.position 3).state = .wrapup ∧ (s.position 3).held = []
      ∧ timerDue s.time (s.position 3).wrapTimer = true ∧ s.inRun = true) := by
  decide +kernel

theorem test_hyps_offers :
    offered.Sound ∧ offered.HoldsChannel (talk .offered [3]) 1 .reserved
    ∧ offered.inRun = true ∧ positionArg 3 = some 3 ∧ callArg 7 = some 7 ∧ callArg 8 = some 8
    ∧ ¬ ((offered.position 3).state = .offered ∧ (offered.position 3).current = some 8)
    ∧ (offered.position 3).state = .offered ∧ (offered.position 3).current = some 7
    ∧ offered.liveCall 7 = some (2, talk .offered [3]) ∧ (talk .offered [3]).parties = [3]
    ∧ offered.speech.connections.get 3 = none
    ∧ offered.othersOn 3 ⟨postSegment (talk .offered [3]).post, 1⟩ = 0
    ∧ timerDue offered.time (offered.position 3).offerTimer = true :=
  ⟨offered_sound, ⟨rfl, by decide +kernel⟩, by decide +kernel⟩

theorem test_hyps_ReleaseByOnlyPartyEndsCall :
    (∀ st ch, (talking st ch).Sound) ∧ free.Sound
    ∧ (∀ x ∈ [(CallState.connecting, ChannelState.reserved), (.active, .inUse), (.retrieving, .reserved)],
      let s := talking x.1 x.2;
      s.inRun = true ∧ (s.position 3).state = .active ∧ (s.position 3).current = some 7
      ∧ s.liveCall 7 = some (2, talk x.1 [3]) ∧ x.2 ≠ .free
      ∧ s.channel (channelIndex 0 1) = { state := x.2, call := some 7, corrupt := false }
      ∧ s.othersOn 3 ⟨0, 1⟩ = 0 ∧ s.speech.connections.get 3 = some ⟨0, 1⟩
      ∧ (s.post 4).side = .near ∧ (s.post 4).liveCall = some 7)
    ∧ positionArg 3 = some 3 ∧ (free.position 3).state ≠ .active ∧ (free.position 3).state ≠ .dialling :=
  ⟨talking_sound, free_sound, by decide +kernel⟩

theorem test_hyps_RingingCallbackEndsByTimerOrRelease :
    ringing.Sound ∧ ringing.HoldsChannel (talk .ringing [3]) 1 .reserved
    ∧ ringing.inRun = true ∧ (ringing.position 3).state = .dialling
    ∧ (ringing.position 3).current = some 7 ∧ ringing.liveCall 7 = some (2, talk .ringing [3])
    ∧ ringing.othersOn 3 ⟨0, 1⟩ = 0
    ∧ ringing.speech.connections.get 3 = none ∧ (ringing.post 4).liveCall = some 7
    ∧ timerDue ringing.time (ringing.position 3).ringTimer = true :=
  ⟨ringing_sound, ⟨rfl, by decide +kernel⟩, by decide +kernel⟩

theorem test_hyps_OneOfTwoPartiesLeaves :
    conference.Sound ∧ free.Sound ∧ (talking .active .inUse).Sound
    ∧ conference.inRun = true ∧ (free.position 3).state ≠ .active
    ∧ (∀ p ∈ [(3 : Fin 16), 5], (conference.position p).state = .active ∧ (conference.position p).current = some 7
      ∧ (conference.speech.connections.get p).isSome = true)
    ∧ conference.liveCall 7 = some (2, talk .active [5, 3]) ∧ (talk .active [5, 3]).channel = some 1
    ∧ (talking .active .inUse).liveCall 7 = some (2, talk .active [3]) ∧ (talk .active [3]).parties.length ≠ 2
    ∧ (ringing.position 3).state = .dialling ∧ (free.position 3).state ≠ .dialling ∧ (ringing.post 4).side = .near :=
  ⟨conference_sound, free_sound, talking_sound _ _, by decide +kernel⟩

/-- Every channel of segment 0 taken by other calls. -/
def fullSegment (s : State) : State :=
  { s with speech := { s.speech with channels := Vector.replicate 32 { state := .inUse, call := some 9, corrupt := false } } }

theorem test_hyps_PickTakesQueuedCall :
    queued.Sound ∧ (withCall7 (talk .active [5]) .inUse free).Sound
    ∧ queued.inRun = true ∧ callArg 7 = some 7 ∧ positionArg 3 = some 3 ∧ positionArg 15 = some 15
    ∧ queued.liveCall 8 = none ∧ queued.liveCall 7 = some (2, callIn .queued)
    ∧ (queued.position 15).eligible = false ∧ (queued.position 3).eligible = true
    ∧ (queued.post 4).state = .present ∧ (queued.segment 0).state = .active
    ∧ (withCall7 (talk .active [5]) .inUse free).liveCall 7 = some (2, talk .active [5])
    ∧ (fullSegment queued).freeChannel 0 = none ∧ queued.freeChannel 0 = some 0 ∧ queued.channelHeldBy 7 = none
    ∧ queued.speech.connections.get 3 = none ∧ queued.othersOn 3 ⟨0, 0⟩ = 0 :=
  ⟨queued_sound, sound_withCall7 free_sound _ rfl _, by decide +kernel⟩

theorem test_hyps_CallbackRingsPost :
    free.Sound
    ∧ free.inRun = true ∧ positionArg 3 = some 3 ∧ postArg 0 5 = some 4
    ∧ (free.position 15).eligible = false ∧ (free.position 3).eligible = true
    ∧ (free.post 4).state = .present ∧ (free.segment 0).state = .active ∧ (free.post 4).liveCall = none
    ∧ (free.post 4).deferred = false ∧ (free.post 5).state ≠ .present
    ∧ (fullSegment free).freeChannel 0 = none ∧ free.freeChannel 0 = some 0 ∧ free.freeCall = some 0
    ∧ free.nextCallNumber.1 = 1 ∧ free.channelHeldBy 1 = none
    ∧ (let s := { free with calls := { free.calls with records := Vector.replicate 64 (some (callIn .ended)) } };
      s.freeCall = none ∧ (s.freeChannel 0).isSome = true) :=
  ⟨free_sound, by decide +kernel⟩

theorem test_hyps_HoldFreesChannelAndPosition :
    (∀ st ch, (talking st ch).Sound) ∧ conference.Sound
    ∧ (withPosition 3 { seated .active with held := [1, 2] } (talking .active .inUse)).Sound
    ∧ (∀ x ∈ [(CallState.active, ChannelState.inUse), (.connecting, .reserved)],
      let s := talking x.1 x.2;
      s.inRun = true ∧ (s.position 3).state = .active ∧ (s.position 3).current = some 7
      ∧ s.liveCall 7 = some (2, talk x.1 [3]) ∧ (s.position 3).held.length ≠ 2
      ∧ s.channel (channelIndex 0 1) = { state := x.2, call := some 7, corrupt := false } ∧ s.othersOn 3 ⟨0, 1⟩ = 0
      ∧ s.speech.connections.get 3 = some ⟨0, 1⟩ ∧ (s.post 4).side = .near)
    ∧ (talk .active [5, 3]).parties.length = 2
    ∧ ((withPosition 3 { seated .active with held := [1, 2] } (talking .active .inUse)).position 3).held.length = 2 :=
  ⟨talking_sound, conference_sound, sound_withPosition (talking_sound _ _) _ _ rfl, by decide +kernel⟩

theorem test_hyps_RetrieveReconnectsHeldCall :
    holding.Sound ∧ queued.Sound
    ∧ holding.inRun = true ∧ holding.liveCall 8 = none ∧ holding.liveCall 7 = some (2, heldCall)
    ∧ heldCall.state = .held ∧ heldCall.holder = some 3 ∧ (holding.position 3).state = .free
    ∧ queued.liveCall 7 = some (2, callIn .queued) ∧ (callIn .queued).state ≠ .held
    ∧ ((withPosition 3 { seated .active with held := [7] } holding).position 3).state ≠ .free
    ∧ (fullSegment holding).freeChannel 0 = none ∧ holding.freeChannel 0 = some 0 ∧ holding.channelHeldBy 7 = none
    ∧ holding.speech.connections.get 3 = none ∧ holding.othersOn 3 ⟨0, 0⟩ = 0 :=
  ⟨holding_sound, queued_sound, by decide +kernel⟩

theorem test_hyps_JoinAddsSecondParty :
    let s := withPosition 5 freePosition3 (talking .active .inUse)
    s.Sound ∧ s.HoldsChannel (talk .active [3]) 1 .inUse
    ∧ s.inRun = true ∧ positionArg 5 = some 5 ∧ s.liveCall 8 = none ∧ s.liveCall 7 = some (2, talk .active [3])
    ∧ (s.position 5).eligible = true ∧ (s.position 15).eligible = false ∧ s.speech.connections.get 5 = none
    ∧ s.othersOn 5 ⟨0, 1⟩ ≤ 1 ∧ (talk .active [5, 3]).parties.length = 2 :=
  ⟨sound_withPosition (talking_sound _ _) _ _ rfl, ⟨rfl, by decide +kernel⟩, by decide +kernel⟩

/-! #### Line sides -/

/-- The NEAR side of segment 0 SERVING with an exchange to drop 5 in flight. -/
def exchanging (e : Exchange) (s : State) : State := withLine { LineSide.reset with state := .serving, exchange := some e } s

/-- An exchange with drop 5. -/
def toDrop5 (purpose : Purpose) (t : PartTelegram) (phase : Phase) : Exchange :=
  { purpose := purpose, drop := 4, telegram := t, retry := false, phase := phase }

/-- The check of a telegram from drop 5. -/
def checkOf (kind : Byte) (payload : List Byte) : Word :=
  Frame.expectedCheck { drop := 5, kind := kind, payload := payload, check := 0 }

/-- The NEAR side of segment 0 as given, with TEST pending for post 4. -/
def sideWithTest (x : LineSide) : State :=
  withPost 4 { Post.reset with state := .present, commands := [⟨.test, none⟩] } (withLine x running)

/-- Nothing to send; a window after a telegram; a command in SERVING, SWEEPING and FINISHING. -/
theorem test_hyps_LineSideChoosesNextExchange :
    (running.line near0).exchange = none ∧ (running.line near0).state = .serving
    ∧ running.probeAsked near0 = none ∧ (running.line near0).service = []
    ∧ (∀ k, running.lateness near0 k = none)
    ∧ (running.line ⟨7, .far⟩).state = .off ∧ (running.line ⟨7, .far⟩).exchange = none
    ∧ (∀ x ∈ [(LineState.serving, false, false), (.serving, true, false), (.sweeping, false, true), (.finishing, false, false)],
      let s := sideWithTest { LineSide.reset with state := x.1, afterTelegram := x.2.1, afterSweep := x.2.2, service := [4, 7] };
      (s.line near0).exchange = none ∧ (s.line near0).state = x.1 ∧ (s.line near0).afterTelegram = x.2.1
      ∧ (s.line near0).afterSweep = x.2.2
      ∧ s.probeAsked near0 = none ∧ (s.line near0).service = 4 :: [7]
      ∧ (s.post (postIndex 0 4)).commands = ⟨.test, none⟩ :: [] ∧ (s.post (postIndex 0 4)).corrupt = false) := by
  decide +kernel

/-- A restore probe asked for; the poll of two drops equally late; a sweep with drops left and with none. -/
theorem test_hyps_LineSideChoosesProbePollOrSweep :
    (let s := sideWithTest { LineSide.reset with state := .serving, probe := some 9, service := [4] };
      (s.line near0).exchange = none ∧ (s.line near0).afterTelegram = false ∧ s.probeAsked near0 = some 9)
    ∧ (let times := put (put LineSide.reset.lastExchange 4 (some 1000)) 6 (some 1000);
      let s := withEntry 6 (withEntry 4 (withPost 6 { Post.reset with state := .unknown } running));
      let s := { withLine { LineSide.reset with state := .serving, lastExchange := times } s with time := 5000 };
      s.probeAsked near0 = none ∧ (s.line near0).service = [] ∧ s.lateness near0 4 = some 4000
      ∧ ∀ k, ∀ m ∈ s.lateness near0 k, m < 4000 ∨ m = 4000 ∧ (4 : Fin 32).val ≤ k.val)
    ∧ (∀ list ∈ [[], [(4 : Fin 32), 9]],
      let s := sideWithTest { LineSide.reset with state := .sweeping, sweepList := list };
      (s.line near0).exchange = none ∧ (s.line near0).state = .sweeping ∧ (s.line near0).sweepList = list
      ∧ (s.line near0).afterSweep = false)
    ∧ (∀ st ∈ [LineState.off, .halting, .finishing],
      let s := sideWithTest { LineSide.reset with state := st };
      (s.line near0).exchange = none ∧ (s.line near0).state = st ∧ (s.line near0).service = []) := by
  decide +kernel

theorem test_hyps_SentTelegramAndArbitrationStartReplyTime :
    (∀ e ∈ [toDrop5 .poll .poll .sending, toDrop5 .window .deferred .answering, toDrop5 .window .deferred .arbitrating],
      ((exchanging e running).line near0).exchange = some e ∧ ((exchanging e running).line near0).state = .serving
      ∧ ((exchanging e running).line near0).errors + 1 < (exchanging e running).errorLimit)
    ∧ (1 : BitVec 6).toNat = (0 : Fin 32).val + 1 ∧ (32 : BitVec 6).toNat = (31 : Fin 32).val + 1
    ∧ (0 : BitVec 6).toNat = 0 ∧ (33 ≤ (33 : BitVec 6).toNat ∧ (33 : BitVec 6).toNat ≤ 62)
    ∧ (33 ≤ (62 : BitVec 6).toNat ∧ (62 : BitVec 6).toNat ≤ 62) := by
  decide +kernel

/-- A STATUS within its reply time from a post of each state. -/
theorem test_hyps_StatusUpdatesPolledPost :
    Frame.decode { drop := 5, kind := 0x42, payload := [0xBC], check := checkOf 0x42 [0xBC] }
      = some (4, .status .off false .fail true true)
    ∧ (∀ st ∈ [PostState.present, .isolated, .silent, .unknown, .unreachable],
      let s := withPost 4 { Post.reset with state := st } (exchanging (toDrop5 .poll .poll (.awaiting 3)) running);
      (s.line near0).exchange = some (toDrop5 .poll .poll (.awaiting 3)) ∧ (s.line near0).state = .serving
      ∧ reached s.time 3 = false ∧ (s.post (postIndex 0 4)).state = st ∧ (s.post (postIndex 0 4)).liveCall = none
      ∧ (s.post (postIndex 0 4)).deferred = false ∧ (s.post (postIndex 0 4)).corrupt = false
      ∧ (s.post (postIndex 0 4)).selfTest ≠ .fail)
    ∧ (let s := exchanging (toDrop5 .poll .poll (.awaiting 3)) ringing;
      (s.post 4).liveCall = some 7 ∧ s.liveCall 7 = some (2, talk .ringing [3])) := by
  decide +kernel

/-- A machine whose post 4 is being polled. -/
def polled (s : State) : State := exchanging (toDrop5 .poll .poll (.awaiting 3)) s

theorem polled_sound {s : State} (h : s.Sound) : (polled s).Sound := sound_congr h rfl rfl rfl rfl rfl rfl

/-- An on-hook STATUS from a post with a live call in each state. -/
theorem test_hyps_HangUpEndsCall :
    ((polled queued).Sound ∧ (polled holding).Sound ∧ (polled offered).Sound
      ∧ ∀ st ch, (polled (talking st ch)).Sound)
    ∧ Frame.decode { drop := 5, kind := 0x42, payload := [0x3C], check := checkOf 0x42 [0x3C] }
      = some (4, .status .on false .fail true true)
    ∧ (∀ x ∈ [(queued, callIn .queued), (holding, heldCall), (offered, talk .offered [3])],
      (polled x.1).liveCall 7 = some (2, x.2) ∧ x.2.post = 4 ∧ ((polled x.1).post 4).side = .near
      ∧ ((polled x.1).post 4).liveCall = some 7)
    ∧ (callIn .queued).channel = none ∧ heldCall.channel = none
    ∧ (polled offered).othersOn 3 ⟨0, 1⟩ = 0
    ∧ (polled offered).channel (channelIndex 0 1) = { state := .reserved, call := some 7, corrupt := false }
    ∧ (∀ x ∈ [(CallState.connecting, ChannelState.reserved), (.active, .inUse), (.retrieving, .reserved)],
      let s := polled (talking x.1 x.2);
      s.liveCall 7 = some (2, talk x.1 [3]) ∧ s.othersOn 3 ⟨0, 1⟩ = 0 ∧ s.speech.connections.get 3 = some ⟨0, 1⟩
      ∧ s.channel (channelIndex 0 1) = { state := x.2, call := some 7, corrupt := false }
      ∧ (s.post 4).side = .near ∧ (s.post 4).liveCall = some 7) :=
  ⟨⟨polled_sound queued_sound, polled_sound holding_sound, polled_sound offered_sound,
    fun _ _ => polled_sound (talking_sound _ _)⟩, by decide +kernel⟩

/-- A drop heard on the FAR side below the far limit, and one at the far limit. -/
theorem test_hyps_FarLimitFollows :
    ∀ far ∈ [(4 : Fin 32), 9],
      let b : Break := { farBreak with farLimit := some far };
      let s := withPost 4 { Post.reset with state := .present, side := .far }
        (withSegment { Segment.reset with state := .active, broken := some b, farFeed := true } running);
      s.broken 0 = some b ∧ b.state ≠ .cut ∧ b.farLimit = some far ∧ (s.post (postIndex 0 4)).side = .far
      ∧ (s.post (postIndex 0 4)).state = .present ∧ (far.val ≤ (4 : Fin 32).val ∨ (4 : Fin 32).val < far.val) := by
  decide +kernel

theorem test_hyps_IdentIdentifiesPolledPost :
    Frame.decode { drop := 5, kind := 0x41, payload := [0, 0x12, 0x34, 0], check := checkOf 0x41 [0, 0x12, 0x34, 0] }
      = some (4, .ident 0x1234 .idle false)
    ∧ (∀ st ∈ [PostState.present, .unknown],
      let s := withPost 4 { Post.reset with state := st } (exchanging (toDrop5 .poll .identify (.awaiting 3)) running);
      (s.line near0).exchange = some (toDrop5 .poll .identify (.awaiting 3)) ∧ (s.line near0).state = .serving
      ∧ reached s.time 3 = false ∧ (s.post (postIndex 0 4)).state = st ∧ (s.post (postIndex 0 4)).liveCall = none
      ∧ (s.post (postIndex 0 4)).deferred = false ∧ (s.post (postIndex 0 4)).corrupt = false) := by
  decide +kernel

/-- CONNECT for call 7, as it is sent to drop 5. -/
def connect7 : Exchange :=
  toDrop5 (.command { kind := .connect 1, call := some 7 }) (.command (.connect 1)) (.awaiting 3)

theorem test_hyps_DoneToConnectMakesCallActive :
    (∀ st, (exchanging connect7 (talking st .reserved)).Sound)
    ∧ Frame.decode { drop := 5, kind := 0x43, payload := [0x80], check := checkOf 0x43 [0x80] } = some (4, .done .off none)
    ∧ (∀ st ∈ [CallState.connecting, .retrieving],
      let s := exchanging connect7 (talking st .reserved);
      (s.line near0).exchange = some connect7 ∧ (s.line near0).state = .serving ∧ (s.post 4).state = .present
      ∧ reached s.time 3 = false ∧ (s.post 4).liveCall = some 7 ∧ s.liveCall 7 = some (2, talk st [3])
      ∧ s.channel (channelIndex 0 1) = { state := .reserved, call := some 7, corrupt := false })
    ∧ (talk .connecting [3]).post = postIndex 0 connect7.drop :=
  ⟨fun st => sound_congr (talking_sound st .reserved) rfl rfl rfl rfl rfl rfl, by decide +kernel⟩

/-- A window that drop 5 has won, its post configured at 1,000 m with the first entry word given. -/
def requesting (first : Word) (s : State) : State :=
  let w := #v[first, 1, 0, 1000, 0, 0x1234, 0, 0];
  let s := { s with directory := put s.directory 4 { words := w, valid := true } };
  exchanging (toDrop5 .window .deferred (.awaiting 3)) s

/-- A drop that is not configured asks within its reply time. -/
theorem test_hyps_RequestRegistersCall :
    let s := exchanging (toDrop5 .window .deferred (.awaiting 3)) running
    s.Sound
    ∧ Frame.decode { drop := 5, kind := 0x44, payload := [1, 0, 0x12, 0x34], check := checkOf 0x44 [1, 0, 0x12, 0x34] }
      = some (4, .request .emergency 0x1234)
    ∧ s.inRun = true ∧ (s.line near0).exchange = some (toDrop5 .window .deferred (.awaiting 3))
    ∧ (s.line near0).state = .serving ∧ reached s.time 3 = false ∧ near0.side = (s.post 4).side
    ∧ (s.post 4).state = .present
    ∧ (s.post 4).liveCall = none ∧ (s.post 4).deferred = false ∧ s.configured 4 = false ∧ s.reservedFor 4 = none
    ∧ s.calls.overflow = false ∧ s.freeCall = some 0 ∧ s.nextCallNumber.1 = 1 :=
  ⟨sound_congr running_sound rfl rfl rfl rfl rfl rfl, by decide +kernel⟩

/-- Incidents 5 and 6, created in this order, in records 1 and 2, so that a call at 1,000 m matches both. -/
def twoIncidents (s : State) : State :=
  let near (n : Nat) (at_ : Nat) (c : Sequence) (l : Lead) : Incident :=
    { incident5 with number := n, lo := at_, hi := at_, sum := at_, creation := c, lead := some l };
  { s with cluster := { s.cluster with
      records := put (put s.cluster.records 1 (some (near 5 1000 0 ⟨3, 0⟩))) 2 (some (near 6 1000 1 ⟨4, 1⟩)) } }

/-- A configured drop asks: on no carriageway, with no incident and a record free or none free, with one that matches, and
with two. -/
theorem test_hyps_RequestJoinsIncident :
    (requesting 0x8000 running).Sound ∧ (requesting 0x8000 (withIncident { incident5 with lo := 1000, hi := 1000 } running)).Sound
    ∧ (requesting 0x8000 (twoIncidents running)).Sound
    ∧ (∀ x ∈ [((0x8000 : Word), Carriageway.a), (0x8400, .b), (0x8800, .x)],
      let s := requesting x.1 running;
      s.configured 4 = true ∧ entryCarriageway (s.entry 4).words = some x.2 ∧ entryChainage (s.entry 4).words = 1000
      ∧ s.freeIncident = some 0 ∧ s.freeCall = some 0
      ∧ ∀ j, ∀ z ∈ s.incident j, s.incidentMatches x.2 1000 z = false)
    ∧ (let s := requesting 0x8400 { running with cluster := { running.cluster with records := Vector.replicate 16 (some incident5) } };
      s.configured 4 = true ∧ s.freeIncident = none
      ∧ ∀ j, ∀ z ∈ s.incident j, s.incidentMatches .b 1000 z = false)
    ∧ (let y : Incident := { incident5 with lo := 1000, hi := 1000 };
      let s := requesting 0x8000 (withIncident y running);
      s.incident 1 = some y ∧ s.incidentMatches .a 1000 y = true
      ∧ ∀ j, ∀ z ∈ s.incident j, j ≠ 1 → s.incidentMatches .a 1000 z = false)
    ∧ (let s := requesting 0x8000 (twoIncidents running);
      ∃ y z, s.incident 1 = some y ∧ s.incident 2 = some z ∧ y.number ≠ z.number
      ∧ s.incidentMatches .a 1000 y = true ∧ s.incidentMatches .a 1000 z = true
      ∧ (∀ m, m ≠ 1 → m ≠ 2 → s.incident m = none)
      ∧ earlier y.creation z.creation = true ∧ earlier z.creation y.creation = false
      ∧ y.lead = some ⟨3, 0⟩ ∧ z.lead = some ⟨4, 1⟩) := by
  have posts (first : Word) {s : State} (h : s.Sound) : (requesting first s).Sound := sound_congr h rfl rfl rfl rfl rfl rfl
  refine ⟨posts 0x8000 running_sound, posts 0x8000 (sound_withIncident running_sound _ rfl), posts 0x8000 ?_, by decide +kernel,
    by decide +kernel, by decide +kernel, _, _, rfl, rfl, by decide +kernel⟩
  exact ⟨running_sound.posts, running_sound.positions, running_sound.calls, by decide +kernel, running_sound.channels,
    running_sound.crosspoints⟩

/-- Replies within the reply time that fail their check, that drop 7 gives, and that are of each wrong kind; silence. -/
theorem test_hyps_UnusableReplyIsCountedAndTelegramRepeated :
    (∀ e ∈ [toDrop5 .poll .poll (.awaiting 0), toDrop5 .poll .poll (.awaiting 3)],
      let s := exchanging e running;
      (s.line near0).exchange = some e ∧ (s.line near0).state = .serving ∧ (s.line near0).errors + 1 < s.errorLimit
      ∧ e.purpose ≠ .window ∧ e.retry = false ∧ e.drop = 4)
    ∧ reached running.time 0 = true ∧ reached running.time 3 = false
    ∧ (running.line near0).exchange = none
    ∧ decodeBytes [5, 0x42, 0] = none
    ∧ decodeBytes [5, 0x42, 0xBC, highByte (checkOf 0x42 [0xBC]), lowByte (checkOf 0x42 [0xBC])]
      = some (4, .status .off false .fail true true)
    ∧ (let b : List Byte := [7, 0x42, 0];
      let f : Frame := { drop := 7, kind := 0x42, payload := [0], check := 0 };
      decodeBytes (b ++ [highByte f.expectedCheck, lowByte f.expectedCheck])
        = some (6, .status .on false .untested false false))
    ∧ Frame.decode ⟨5, 0x41, [0, 0x12, 0x34, 0], checkOf 0x41 [0, 0x12, 0x34, 0]⟩ = some (4, .ident 0x1234 .idle false)
    ∧ Frame.decode ⟨5, 0x42, [0xBC], checkOf 0x42 [0xBC]⟩ = some (4, .status .off false .fail true true)
    ∧ Frame.decode ⟨5, 0x43, [0x80], checkOf 0x43 [0x80]⟩ = some (4, .done .off none)
    ∧ Frame.decode ⟨5, 0x44, [1, 0, 0x12, 0x34], checkOf 0x44 [1, 0, 0x12, 0x34]⟩ = some (4, .request .emergency 0x1234) := by
  decide +kernel

/-- RELEASE for call 7, its reply time run out a second time. -/
def release7 : PendingCommand := { kind := .release, call := some 7 }

/-- A second silence below the miss limit and at it, of a poll and of a RELEASE. -/
theorem test_hyps_SecondSilenceIsMiss :
    ∀ misses ∈ [0, 1], ∀ purpose ∈ [Purpose.poll, .command release7],
      let e : Exchange := { toDrop5 purpose .poll (.awaiting 0) with retry := true };
      let s := withPost 4 { Post.reset with state := .present, misses := misses } (exchanging e
        { running with path := { running.path with anchor := put (put anchor 31 2) 35 2 } });
      (s.line near0).exchange = some e ∧ reached s.time 0 = true ∧ (s.post (postIndex 0 4)).corrupt = false
      ∧ (s.post (postIndex 0 4)).state = .present ∧ (s.post (postIndex 0 4)).liveCall = none
      ∧ (s.post (postIndex 0 4)).deferred = false
      ∧ (misses + 1 < s.postMissLimit ↔ misses = 0) ∧ (misses + 1 = s.postMissLimit ↔ misses = 1) ∧ s.postMissLimit ≤ 15
      ∧ s.silentMode = .probe ∧ s.breakMode = .off ∧ s.broken near0.segment = none ∧ release7.kind = .release := by
  decide +kernel

/-- An end whose over-current has lasted its deglitch time, with each mode of LINE_SHORT and a retry limit of 3. -/
def shorted (mode retries : Nat) : State :=
  withSegment { Segment.reset with state := .active, retryCount := retries }
    { running with
      ends := put running.ends 0 ⟨.awaiting, some 0, true⟩
      path := { running.path with anchor := put (put anchor 32 (BitVec.ofNat 16 mode)) 38 3 } }

theorem test_hyps_OverCurrentIsDeglitchedThenReported :
    (∀ mode retries, (shorted mode retries).Sound)
    ∧ (∀ x ∈ [(0, 0), (1, 2), (1, 3), (1, 255), (2, 0), (3, 0)], ∀ d, (shorted x.1 x.2).KeepsPlace (postIndex 0 d))
    ∧ running.feedOn near0 = true ∧ (running.segmentEnd near0).state = .clear ∧ running.feedOn ⟨0, .far⟩ = false
    ∧ (∀ x ∈ [(0, 0), (1, 2), (1, 3), (1, 255), (2, 0), (3, 0)],
      let s := shorted x.1 x.2;
      (s.segmentEnd near0).state = .awaiting ∧ timerDue s.time (s.segmentEnd near0).deglitch = true
      ∧ (s.segment near0.segment).serving = true ∧ s.inRun = true ∧ (withEngine .stopping .idle s).inRun = false
      ∧ s.parameter 32 = x.1 ∧ (s.segment 0).retryCount = x.2 ∧ s.parameter 38 = 3) :=
  ⟨fun _ _ => sound_congr running_sound rfl rfl rfl rfl rfl rfl,
    fun x hx d => keepsPlace (by revert x hx d; decide +kernel), by decide +kernel⟩

/-! #### Reports -/

/-- A machine whose report list holds the entry given and the engine behind it. -/
def reporting (e : ReportEntry) (s : State) : State :=
  { s with reports := { s.reports with list := [e, ⟨.engine, true, true, false, 1, 0⟩] } }

/-- Call 7 ENDED, and incident 5 CLOSED: two records to be freed. -/
def finished : State := withIncident { incident5 with state := .closed } (withCall7 (callIn .ended) .free running)

/-- Entries of records of each kind, with room for all that they queue. -/
theorem test_hyps_ServedEntryQueuesBoardThenEvent :
    finished.Sound
    ∧ (∀ o ∈ [Obj.post 4, .position 3, .segment 0, .call 2, .incident 1], ∀ event ∈ [true, false],
      let e : ReportEntry := { object := o, board := true, event := event, fault := false, coalesced := 1, time := 0 };
      let s := reporting e finished;
      s.writerWorks = true ∧ s.reports.steps = [] ∧ s.path.windows = some layout ∧ s.startFault = none
      ∧ s.reports.list = e :: [⟨.engine, true, true, false, 1, 0⟩] ∧ (s.reports.list.map (fun e => e.object)).Nodup
      ∧ s.ringSpace = true ∧ s.path.queue.length + 25 ≤ 32 ∧ s.calls.deferrals = []
      ∧ (s.boardWords layout.boardBase o).length ≤ 16
      ∧ s.freedByServing o = (o == .call 2 || o == .incident 1)) := by
  refine ⟨sound_withIncident (sound_withCall7 running_sound _ rfl _) _ rfl, by decide +kernel⟩

/-- An entry with a fault mark, whose slot holds a record, of a segment and of the engine. -/
theorem test_hyps_ServedEntryQueuesFaultRecord :
    ∀ x ∈ [(Obj.segment 0, (0 : Fin 9), true, true), (.segment 0, 0, true, false), (.segment 0, 0, false, false),
        (.engine, 8, false, true), (.engine, 8, true, false)],
      let f := FaultRecord.next none .lineShort 0 0 0;
      let e : ReportEntry :=
        { object := x.1, board := x.2.2.1, event := x.2.2.2, fault := true, coalesced := 1, time := 0 };
      let s := { running with reports := { running.reports with
        list := [e, ⟨.post 4, true, true, false, 1, 0⟩], slots := put running.reports.slots x.2.1 (some f) } };
      s.writerWorks = true ∧ s.reports.steps = [] ∧ s.startFault = none ∧ (s.reports.list.map (fun e => e.object)).Nodup
      ∧ e.object.slot = some x.2.1 ∧ s.reports.slots.get x.2.1 = some f ∧ s.ringSpace = true
      ∧ (s.reports.producer + 1 - s.reports.consumer).toNat < layout.eventCount
      ∧ s.path.queue.length + (if e.board then (s.boardWords layout.boardBase x.1).length else 0)
          + (if e.event then 9 else 0) + 9 ≤ 32 := by
  decide +kernel

/-! ### Reports and lost posts -/

/-- The state an operation leaves, whether or not a class B fault cuts it short. -/
def after (x : Op Unit) (s : State) : State :=
  match x s with
  | .ok _ t | .error _ t => t

/-- Post 4 on segment 0 as a test wants it, in RUN. -/
def post4 (x : Post) : State := withPost 4 x running

/-- R60: a second TEST lost while test cancelled is still set reports the post again, with its miss and by a command. -/
theorem test_each_lost_test_is_reported :
    let p : Post := { Post.reset with state := .present, testCancelled := true }
    let test : PendingCommand := { kind := .test, call := none }
    ∀ x ∈ [after (pend 4 .invite none) (post4 { p with commands := [test] }), after (commandMissed 4 test) (post4 p)],
      x.reports.list.map (fun e => (e.object, e.coalesced)) = [(.post 4, 1)] := by
  decide +kernel

/-- R56: an ISOLATED post that kept its QUEUED call and is heard off-hook in a sweep is counted as a barred attempt. -/
theorem test_isolated_post_with_call_is_counted :
    let t := after (identRequest near0 4 true (.ident 0x123456 .idle true))
      (post4 { Post.reset with state := .isolated, liveCall := some 7 })
    (t.post 4).barred = 1 ∧ t.reports.list.map (fun e => e.object) = [.post 4] := by
  decide +kernel

/-- R194: as a feed loses its last PRESENT post, a SILENT post with a RELEASE on the FAR service list is UNREACHABLE on side
NEAR with nothing pending, and an ISOLATED one keeps its state and its RELEASE. -/
theorem test_lost_feed_makes_silent_posts_unreachable :
    let release : PendingCommand := { kind := .release, call := none }
    let p : Post := { Post.reset with side := .far, commands := [release] }
    let busy : Exchange := { purpose := .poll, drop := 4, telegram := .poll, retry := false, phase := .sending }
    let s := withPost 5 { p with state := .isolated } (post4 { p with state := .silent })
    let s := withSegment { Segment.reset with state := .active, farFeed := true, broken := some farBreak } s
    let s := s.updateLine (farOf 0) (fun x => { x with state := .serving, exchange := some busy, service := [4, 5] })
    let t := after (farLost 0 farBreak) s
    (t.post 4).state = .unreachable ∧ (t.post 4).side = .near ∧ (t.post 4).commands = []
      ∧ (t.post 5).state = .isolated ∧ (t.post 5).side = .near ∧ (t.line (nearOf 0)).service = [5]
      ∧ (t.broken 0).map Break.state = some .cut := by
  decide +kernel

/-- R41: a probe answered while the FAR side halts leaves its post PRESENT, and as the side goes OFF the post takes side NEAR
with its drop on the NEAR service list. -/
theorem test_far_side_off_leaves_posts_near :
    let release : PendingCommand := { kind := .release, call := none }
    let probe : Exchange := { purpose := .probe false, drop := 4, telegram := .identify, retry := false, phase := .awaiting 3 }
    let s := withSegment { Segment.reset with state := .active, farFeed := true, broken := some { farBreak with state := .cut } }
      (post4 { Post.reset with state := .unreachable, commands := [release] })
    let s := s.updateLine near0 (fun x => { x with service := [4] })
    let s := s.updateLine (farOf 0) (fun x => { x with state := .halting, exchange := some probe })
    let t := after (goodReply (farOf 0) probe (.ident 0x123456 .idle false)) s
    (t.post 4).state = .present ∧ (t.post 4).side = .near ∧ (t.line near0).service = [4] ∧ (t.line (farOf 0)).service = []
      ∧ (t.line (farOf 0)).state = .off ∧ (t.segment 0).farFeed = false := by
  decide +kernel

/-- R182: a position left with a failing code is not read in STARTING; in RUN its due timer is a class B fault. -/
theorem test_failing_position_is_not_read_in_starting :
    let x : Position := { Position.reset with state := .wrapup, wrapTimer := some 0, corrupt := true }
    let starting := withEngine .starting .anchorRead (withPosition 3 x running)
    after (wrapExpires 3) starting = starting
      ∧ ((withPosition 3 x running).settle (wrapExpires 3)).engine.state = .restarting := by
  decide +kernel

/-- R186 with R135, R137 and R140: where the offered or ringing call's record fails its check, ACCEPT, DECLINE and RELEASE in
DIALLING are answered DONE, since the position alone decides them, the offer timer is gone and the engine restarts; RELEASE
in ACTIVE, which looks at the parties, is answered NOT_RUNNING. -/
theorem test_result_decided_before_call_is_read :
    let bad (s : State) : State := { s with calls := { s.calls with
      records := s.calls.records.map (fun o => o.map (fun c => { c with corrupt := true })) } }
    let run (x : Option (Fin 16 × Nat)) (act : Fin 16 × Nat → Op Unit) (s : State) : State := (bad s).settle (command x act)
    let a := run (some (3, 7)) acceptCall offered
    let d := run (some (3, 7)) declineCall offered
    let r := run (some (3, 7)) (fun x => releasePosition x.1) ringing
    let t := run (some (3, 7)) (fun x => releasePosition x.1) (talking .active .inUse)
    (∀ u ∈ [a, d], u.commandResult = some .done ∧ (u.position 3).offerTimer = none ∧ (u.position 3).state = .offered
        ∧ u.engine.state = .restarting)
      ∧ r.commandResult = some .done ∧ r.engine.state = .restarting
      ∧ t.commandResult = some .notRunning ∧ t.engine.state = .restarting := by
  decide +kernel

/-- R67, R170: a used segment that is INHIBITED already enters INHIBITED without a report; one in SWEEP is listed once. -/
theorem test_unchanged_segment_is_not_listed :
    let listed (st : SegmentState) : List Nat :=
      (((withSegment { Segment.reset with state := st, retryCount := 2 } running).inhibitSegmentNow 0).reports.list.filter
        (fun e => e.object == .segment 0)).map (fun e => e.coalesced)
    listed .inhibited = [] ∧ listed .sweep = [1] := by
  decide +kernel

end Sys2Proof.Tests
end

