-- ==== Sys2Proof/Proofs/PostFrames.lean ====
section
/-! SUPPORT. What stays on the report list, and what a change of one post's record touches: the post, the line sides of its
segment and the report list. -/

namespace Sys2Proof.Machine

/-! ### The report list (R163) -/

/-- What stands on the report list with both marks still does. -/
def State.KeepsReports (s u : State) : Prop := ∀ o, s.Reported o → u.Reported o

theorem State.KeepsReports.refl (s : State) : s.KeepsReports s := fun _ h => h

theorem State.KeepsReports.trans {s t u : State} (h : s.KeepsReports t) (k : t.KeepsReports u) : s.KeepsReports u :=
  fun o ho => k o (h o ho)

/-- Setting marks of one object takes no mark from another's entry. -/
theorem markObject_keeps {l : List ReportEntry} {x : Obj} (o : Obj) (b e f : Bool) (now : Time)
    (h : ∃ y ∈ l, y.object = x ∧ y.board = true ∧ y.event = true) :
    ∃ y ∈ markObject l o b e f now, y.object = x ∧ y.board = true ∧ y.event = true := by
  obtain ⟨y, hy, hx, hb, he⟩ := h
  unfold markObject
  split
  · refine ⟨_, List.mem_map_of_mem hy, ?_⟩
    split <;> simp [ReportEntry.mark, hx, hb, he]
  · exact ⟨y, List.mem_append_left _ hy, hx, hb, he⟩

theorem keepsReports_report (o : Obj) (b e f : Bool) (s : State) : s.KeepsReports (s.report o b e f) :=
  fun _ h => markObject_keeps o b e f s.time h

/-- A change reported with both marks stands on the list with both. -/
theorem reportBoth_reported (o : Obj) (s : State) : (s.reportBoth o).Reported o := by
  simp only [State.Reported, State.reportBoth, State.report_list, markObject]
  split
  case isTrue h =>
    obtain ⟨y, hy, ho⟩ := List.any_eq_true.mp h
    exact ⟨_, List.mem_map_of_mem hy, by simp_all [ReportEntry.mark]⟩
  case isFalse => exact ⟨_, List.mem_append_right _ (List.mem_singleton_self _), by simp [ReportEntry.mark]⟩

/-! ### What a change of one post's record touches -/

/-- The frame of a change of one post: its record, the line sides of its segment and the report list, from which nothing
goes. -/
structure State.TouchesPost (s u : State) (i : Fin 256) : Prop where
  frame : ∃ ps ls l, u = { s with posts := ps, lines := ls, reports := { s.reports with list := l } }
  posts : ∀ j, j ≠ i → u.post j = s.post j
  lines : ∀ l, l.segment ≠ postSegment i → u.line l = s.line l
  reports : s.KeepsReports u

theorem State.TouchesPost.refl (s : State) (i : Fin 256) : s.TouchesPost s i :=
  ⟨⟨_, _, _, rfl⟩, fun _ _ => rfl, fun _ _ => rfl, .refl s⟩

theorem State.TouchesPost.trans {s t u : State} {i : Fin 256} (h : s.TouchesPost t i) (k : t.TouchesPost u i) :
    s.TouchesPost u i where
  frame := by
    obtain ⟨_, _, _, rfl⟩ := h.frame
    obtain ⟨_, _, _, rfl⟩ := k.frame
    exact ⟨_, _, _, rfl⟩
  posts j hj := (k.posts j hj).trans (h.posts j hj)
  lines l hl := (k.lines l hl).trans (h.lines l hl)
  reports := h.reports.trans k.reports

/-- A line side changed leaves those of the other segments. -/
theorem updateLine_otherSegment (k l : LineId) (f : LineSide → LineSide) (s : State) (h : l.segment ≠ k.segment) :
    (s.updateLine k f).line l = s.line l := by
  have hi : lineIndex l ≠ lineIndex k := by
    intro e
    have := congrArg Fin.val e
    simp only [lineIndex] at this
    exact h (Fin.ext (by split at this <;> split at this <;> omega))
  simp [State.line, State.updateLine, hi]

theorem touchesPost_updateLine (i : Fin 256) (k : LineId) (f : LineSide → LineSide) (s : State)
    (h : k.segment = postSegment i) : s.TouchesPost (s.updateLine k f) i :=
  ⟨⟨_, _, _, rfl⟩, fun _ _ => rfl, fun l hl => updateLine_otherSegment k l f s (h ▸ hl), .refl s⟩

theorem touchesPost_reportBoth (i : Fin 256) (o : Obj) (s : State) : s.TouchesPost (s.reportBoth o) i :=
  ⟨⟨_, _, _, rfl⟩, fun _ _ => rfl, fun _ _ => rfl, keepsReports_report o true true false s⟩

theorem touchesPost_syncPolledSide (i : Fin 256) (side : Side) (s : State) : s.TouchesPost (s.syncPolledSide i side) i := by
  unfold State.syncPolledSide
  extract_lets l t t'
  split
  · exact .refl s i
  · exact touchesPost_updateLine i l _ s rfl

theorem touchesPost_syncPolled (i : Fin 256) (s : State) : s.TouchesPost (s.syncPolled i) i :=
  (touchesPost_syncPolledSide i .near s).trans (touchesPost_syncPolledSide i .far _)

theorem touchesPost_setPost (i : Fin 256) (p : Post) (s : State) : s.TouchesPost (s.setPost i p) i := by
  have hw : s.TouchesPost { s with posts := put s.posts i { p with corrupt := false } } i :=
    ⟨⟨_, _, _, rfl⟩, fun j hj => by simp [State.post, hj], fun _ _ => rfl, .refl s⟩
  simp only [State.setPost]
  split
  · exact (hw.trans (touchesPost_reportBoth i _ _)).trans (touchesPost_syncPolled i _)
  · exact hw.trans (touchesPost_syncPolled i _)

theorem touchesPost_loseTest (i : Fin 256) (lost : Bool) (s : State) : s.TouchesPost (s.loseTest i lost) i := by
  simp only [State.loseTest]
  split
  · split
    · exact touchesPost_reportBoth i _ s
    · exact touchesPost_setPost i _ s
  · exact .refl s i

theorem touchesPost_setCommands (i : Fin 256) (l : List PendingCommand) (s : State) : s.TouchesPost (s.setCommands i l) i := by
  unfold State.setCommands State.syncService
  exact (touchesPost_setPost i _ s).trans (touchesPost_updateLine i (State.lineOf _ i) _ _ rfl)

/-- A command pended touches its post alone, and leaves it as the table of R36 says. -/
theorem pend_touchesPost (i : Fin 256) (kind : CommandKind) (call : Option Nat) (s : State)
    (h : (s.post i).corrupt = false) :
    ∃ t, pend i kind call s = .ok () t ∧ s.TouchesPost t i ∧ t.post i = s.postPended i kind call :=
  ⟨_, pend_ok i kind call s h, (touchesPost_loseTest i _ s).trans (touchesPost_setCommands i _ _),
    pend_post i kind call s _ h (pend_ok i kind call s h)⟩

end Sys2Proof.Machine
end

