-- ==== Sys2Proof/Proofs/EndingStep.lean ====
section
/-! SUPPORT. The ending step of a call (R99) for the calls that are not in conversation: its parts, one lemma for each, and
the end of a QUEUED, HELD, RESERVED or OFFERED call by DROPPED put together from them. -/

namespace Sys2Proof.Machine

/-! ### Records of a sound state -/

theorem State.Sound.call_checked {s : State} (h : s.Sound) {r : Fin 64} {c : Call} (hr : s.call r = some c) :
    c.corrupt = false := by
  simpa [hr] using h.calls r

theorem State.Sound.incident_checked {s : State} (h : s.Sound) {k : Fin 16} {x : Incident} (hk : s.incident k = some x) :
    x.corrupt = false := by
  simpa [hk] using h.incidents k

theorem State.Sound.withResult {s : State} (h : s.Sound) (r : Option ResultCode) :
    State.Sound { s with commandResult := r } :=
  ⟨h.posts, h.positions, h.calls, h.incidents, h.channels, h.crosspoints⟩

/-- The record and the call that a number names: it is in use, it is live and it holds the number. -/
theorem liveCall_eq_some {s : State} {n : Nat} {r : Fin 64} {c : Call} (h : s.liveCall n = some (r, c)) :
    s.call r = some c ∧ c.state ≠ .ended ∧ c.number = n := by
  simp only [State.liveCall, Option.bind_eq_some_iff] at h
  obtain ⟨q, hq, d, hd, h⟩ := h
  split at h
  · cases h
  · obtain ⟨rfl, rfl⟩ := Prod.mk.inj (Option.some.inj h)
    have hn := List.find?_some hq
    rw [hd] at hn
    exact ⟨hd, ‹_›, by simpa using hn⟩

/-- Where no check code fails, a call number names its live record. -/
theorem liveRecord_sound {s : State} (h : s.Sound) (n : Nat) : liveRecord n s = .ok (s.liveCall n) s := by
  cases hn : s.callNumbered n with
  | none => simp [liveRecord, State.liveCall, hn]
  | some r =>
    cases hr : s.call r with
    | none => simp [liveRecord, State.liveCall, hn, hr]
    | some c =>
      have := readCall_ok s r c hr (h.call_checked hr)
      by_cases he : c.state = .ended <;> simp [liveRecord, State.liveCall, hn, hr, this, he]

/-! ### Overflow judged (R104) -/

/-- Judging overflow gives the flag the value that the QUEUED count asks for; nothing changes where it has that value. -/
theorem judgeOverflow_eq (s : State) : s.judgeOverflow =
    if s.overflowAt s.calls.queue.length = s.calls.overflow then s else s.setOverflow (s.overflowAt s.calls.queue.length) := by
  unfold State.judgeOverflow State.overflowAt State.queuedCount
  cases s.calls.overflow
  · by_cases h : s.highMark ≤ s.calls.queue.length <;> simp [h]
  · by_cases h : s.calls.queue.length ≤ s.lowMark <;> simp [h]

/-- Judging overflow where a QUEUED call has left: the flag, its timer, the state word and the report list. -/
theorem judgedIf_frame (p : Prop) [Decidable p] (s : State) :
    ∃ t pa en l, (if p then s.judgeOverflow else s) = { s with
      path := pa, engine := en, reports := { s.reports with list := l }
      calls := { s.calls with
        overflow := if p then s.overflowAt s.calls.queue.length else s.calls.overflow, reannounce := t } } := by
  by_cases hp : p
  · simp only [if_pos hp, judgeOverflow_eq]
    split
    case isTrue h => exact ⟨s.calls.reannounce, s.path, s.engine, s.reports.list, by rw [h]⟩
    case isFalse => exact ⟨_, _, _, _, rfl⟩
  · exact ⟨s.calls.reannounce, s.path, s.engine, s.reports.list, by simp only [if_neg hp]⟩

/-! ### The parts of the ending step (R99) -/

/-- The post of an ended call no longer names it, and a RELEASE is pended to it. -/
theorem release_post (c : Call) (s : State) (h : (s.post c.post).corrupt = false) :
    ∃ t, pend c.post .release (some c.number)
        (if (s.post c.post).liveCall = some c.number then s.setPost c.post { s.post c.post with liveCall := none } else s)
        = .ok () t
      ∧ s.TouchesPost t c.post ∧ t.post c.post = s.postReleased c := by
  split
  case isTrue hl =>
    obtain ⟨t, hp, ht, he⟩ := pend_touchesPost c.post .release (some c.number)
      (s.setPost c.post { s.post c.post with liveCall := none }) (by simp)
    exact ⟨t, hp, (touchesPost_setPost _ _ s).trans ht, by simp [he, State.postPended, State.postReleased, hl, h]⟩
  case isFalse hl =>
    obtain ⟨t, hp, ht, he⟩ := pend_touchesPost c.post .release (some c.number) s h
    exact ⟨t, hp, ht, by simp [he, State.postReleased, State.postPended, hl]⟩

/-- The frame of a change of the incidents: they and the report list, from which nothing goes. -/
def State.TouchesIncidents (s u : State) : Prop :=
  (∃ k l, u = { s with cluster := k, reports := { s.reports with list := l } }) ∧ s.KeepsReports u

/-- Where no check code fails, the incident of an ended member is brought up to date (R122). -/
theorem memberEnded_sound (c : Call) (s : State) (h : ∀ k x, s.incident k = some x → x.corrupt = false) :
    ∃ t, memberEnded c s = .ok () t ∧ s.TouchesIncidents t := by
  have same : s.TouchesIncidents s := ⟨⟨_, _, rfl⟩, .refl s⟩
  cases hk : c.incident.bind s.liveIncident with
  | none => exact ⟨s, by simp [memberEnded, hk], same⟩
  | some k =>
    cases hx : s.incident k with
    | none => exact ⟨s, by simp [memberEnded, hk, hx], same⟩
    | some x =>
      have hr := readIncident_ok s k x hx (h k x hx)
      refine ⟨_, by simp only [memberEnded, Op.bind_apply, Op.get_apply, hk, hr, Op.set_apply]; rfl, ⟨_, _, rfl⟩, ?_⟩
      exact keepsReports_report (.incident k) true true false (s.setIncident k _)

/-- The record as the ending step first writes it; a QUEUED call leaves the queue. -/
def State.recordEnded (r : Fin 64) (c : Call) (cause : EndCause) (s : State) : State :=
  let s := s.setCall r { c with state := .ended, endCause := some cause }
  if c.state = .queued then s.leaveQueue r else s

/-- What an ended call that was not in conversation leaves of its record, its post and its incident, once its channel is
freed and its positions have been seen to. -/
structure State.EndsRecord (v w : State) (r : Fin 64) (c : Call) : Prop where
  frame : ∃ ps ls k l, w = { v with
    posts := ps, lines := ls, cluster := k, reports := { v.reports with list := l }
    calls := { v.calls with records := put v.calls.records r (some (c.endedBy .dropped)) } }
  post : w.post c.post = v.postReleased c
  posts : ∀ j, j ≠ c.post → w.post j = v.post j
  lines : ∀ l, l.segment ≠ postSegment c.post → w.line l = v.line l
  reports : v.KeepsReports w

/-- DROPPED ends a call that is not in conversation: what the channel map and the positions do, then its record, its post
and its incident, and last the judgement of overflow and the report (R99, R100). -/
theorem endCall_dropped {s t v : State} {r : Fin 64} {c d : Call} (hr : s.call r = some c) (hc : c.corrupt = false)
    (he : c.state ≠ .ended) (ht : ¬ (c.state = .connecting ∨ c.state = .active ∨ c.state = .retrieving))
    (hfree : (if c.channel.isSome = true then freeCallChannel r else pure ()) (s.recordEnded r c .dropped) = .ok () t)
    (hpos : endPositions c .dropped t = .ok () v)
    (hd : v.call r = some d) (hdc : { d with parties := [], holder := none, corrupt := false } = c.endedBy .dropped)
    (hp : (v.post c.post).corrupt = false) (hi : ∀ k x, v.incident k = some x → x.corrupt = false) :
    ∃ w, endCall r .dropped s = .ok () ((if c.state = .queued then w.judgeOverflow else w).reportCall r)
      ∧ v.EndsRecord w r c := by
  obtain ⟨v', hv'⟩ : ∃ v', v' = v.setCall r { d with parties := [], holder := none } := ⟨_, rfl⟩
  have hmod : v.modifyCall r (fun c => { c with parties := [], holder := none }) = v' := by
    simp only [State.modifyCall, hd, hv']
  have hrec : v' = { v with calls := { v.calls with records := put v.calls.records r (some (c.endedBy .dropped)) } } := by
    rw [← hdc]; exact hv'
  have hp' : (v'.post c.post).corrupt = false := by rw [hrec]; exact hp
  obtain ⟨x, hpend, ⟨⟨ps, ls, l, hxf⟩, hxposts, hxlines, hxrep⟩, hxp⟩ := release_post c v' hp'
  obtain ⟨w, hmem, ⟨k, l', hwf⟩, hwrep⟩ := memberEnded_sound c x (by rw [hxf, hrec]; exact hi)
  have hfar : ¬ ((c.state = .connecting ∨ c.state = .active ∨ c.state = .retrieving) ∧ (v'.post c.post).side = .far) :=
    fun h => ht h.1
  refine ⟨w, ?ends, ⟨⟨ps, ls, k, l', ?frame⟩, ?post, ?posts, ?lines, ?reports⟩⟩
  case ends =>
    unfold endCall
    rw [withCall_ok s r c _ hr hc, if_neg he]
    simp only [State.recordEnded] at hfree
    have hrel : EndCause.releases .dropped c.state (v'.post c.post).state = true := rfl
    cases hch : c.channel.isSome
    case' false =>
      simp only [hch, Bool.false_eq_true, if_false, Op.pure_apply, EStateM.Result.ok.injEq, true_and] at hfree
    case' true => simp only [hch, if_true] at hfree
    all_goals simp only [Bool.false_eq_true, if_true, if_false, Op.bind_apply, Op.modify_apply, hfree, hpos, hmod,
      readPost_ok v' c.post hp', hrel, hpend, hmem, if_neg hfar]
  case frame => rw [hwf, hxf, hrec]
  case post => rw [hwf]; exact hxp.trans (by rw [hrec]; rfl)
  case posts => intro j hj; rw [hwf]; exact (hxposts j hj).trans (by rw [hrec]; rfl)
  case lines => intro j hj; rw [hwf]; exact (hxlines j hj).trans (by rw [hrec]; rfl)
  case reports =>
    have hkeeps : v.KeepsReports v' := by rw [hrec]; exact .refl v
    exact hkeeps.trans (hxrep.trans hwrep)

theorem recordEnded_frame (r : Fin 64) (c : Call) (cause : EndCause) (s : State) : ∃ l, s.recordEnded r c cause = { s with
    reports := { s.reports with list := l }
    calls := { s.calls with
      records := put s.calls.records r (some { c with state := .ended, endCause := some cause, corrupt := false })
      queue := if c.state = .queued then s.calls.queue.erase r else s.calls.queue } } := by
  unfold State.recordEnded
  split
  · exact ⟨_, rfl⟩
  · exact ⟨s.reports.list, rfl⟩

/-! ### The positions of an ended call (R138, R139) -/

theorem placePosition_frame (p : Fin 16) (x : Position) (s : State) :
    ∃ ps l d, s.placePosition p x = { s with positions := ps, reports := { s.reports with list := l }, dispatchDue := d } := by
  unfold State.placePosition
  split <;> exact ⟨_, _, _, rfl⟩

theorem placePosition_reported (p : Fin 16) (x : Position) (s : State) : (s.placePosition p x).Reported (.position p) := by
  have h := reportBoth_reported (.position p) (s.setPositionTimers p x)
  unfold State.placePosition
  split <;> exact h

theorem endOffer_ok (p : Fin 16) (n : Nat) (outcome : OfferOutcome) (s : State) (h : (s.position p).corrupt = false) :
    endOffer p n outcome s = .ok ()
      (s.placePosition p { (s.position p).toFree s.time with lastOffer := some { call := n, outcome } }) := by
  simp [endOffer, readPosition_ok s p h]

theorem dropHeld_ok (p : Fin 16) (n : Nat) (s : State) (h : (s.position p).corrupt = false) :
    dropHeld p n s = .ok () (s.placePosition p { s.position p with held := (s.position p).held.erase n }) := by
  simp [dropHeld, readPosition_ok s p h]

/-- A position after a call has left its holder's list. -/
def State.heldDropped (s : State) (c : Call) (q : Fin 16) : Position :=
  if c.state = .held ∧ c.holder = some q then { s.position q with held := (s.position q).held.erase c.number }
  else s.position q

/-- What the end of a call that waits leaves of the positions: it has left its holder's list (R139). -/
structure State.LeavesHolder (s v : State) (c : Call) : Prop where
  frame : ∃ ps l d, v = { s with positions := ps, reports := { s.reports with list := l }, dispatchDue := d }
  positions : ∀ q, v.position q = s.heldDropped c q

theorem leavesHolder_unheld {s : State} {c : Call} (h : ∀ q, ¬ (c.state = .held ∧ c.holder = some q)) :
    s.LeavesHolder s c :=
  ⟨⟨_, _, _, rfl⟩, fun q => by rw [State.heldDropped, if_neg (h q)]⟩

theorem endPositions_waiting (c : Call) (cause : EndCause) (s : State)
    (hst : c.state = .queued ∨ c.state = .held ∨ c.state = .reserved) (h : ∀ p, (s.position p).corrupt = false) :
    ∃ v, endPositions c cause s = .ok () v ∧ s.LeavesHolder v c := by
  rcases hst with hq | hh | hv
  · exact ⟨s, by simp [endPositions, hq], leavesHolder_unheld (by simp [hq])⟩
  · cases hp : c.holder with
    | none => exact ⟨s, by simp [endPositions, hh, hp], leavesHolder_unheld (by simp [hp])⟩
    | some p =>
      have he : endPositions c cause s = dropHeld p c.number s := by simp only [endPositions, hh, hp]
      refine ⟨_, he.trans (dropHeld_ok p c.number s (h p)), placePosition_frame p _ s, fun q => ?_⟩
      by_cases hqp : q = p
      · subst hqp; simp [State.heldDropped, hh, hp, h q]
      · simp [State.heldDropped, hp, hqp, Ne.symm hqp]
  · exact ⟨s, by simp [endPositions, hv], leavesHolder_unheld (by simp [hv])⟩

/-! ### The end of a call that waits without a channel -/

/-- What DROPPED leaves of a QUEUED, HELD or RESERVED call that holds no channel: all but the deferral list, which the
ending step does not know of (R99). -/
structure State.EndsWaiting (s u : State) (r : Fin 64) (c : Call) : Prop where
  result : u.commandResult = s.commandResult
  call : u.call r = some (c.endedBy .dropped)
  post : u.post c.post = s.postReleased c
  reported : u.Reported (.call r)
  queue : u.calls.queue = if c.state = .queued then s.calls.queue.erase r else s.calls.queue
  overflow : u.calls.overflow =
    if c.state = .queued then s.overflowAt (s.calls.queue.erase r).length else s.calls.overflow
  positions : ∀ q, u.position q = s.heldDropped c q
  deferrals : u.calls.deferrals = s.calls.deferrals
  calls : ∀ q, q ≠ r → u.call q = s.call q
  posts : ∀ j, j ≠ c.post → u.post j = s.post j
  others : u.mem = s.mem ∧ u.time = s.time ∧ u.speech = s.speech ∧ u.segments = s.segments

theorem endCall_waiting {s : State} {r : Fin 64} {c : Call} (h : s.Sound) (hr : s.call r = some c)
    (hst : c.state = .queued ∨ c.state = .held ∨ c.state = .reserved) (hch : c.channel = none) :
    ∃ u, endCall r .dropped s = .ok () u ∧ s.EndsWaiting u r c := by
  obtain ⟨l, hm⟩ := recordEnded_frame r c .dropped s
  obtain ⟨v, hpos, ⟨ps, l', d, hv⟩, hvp⟩ := endPositions_waiting c .dropped (s.recordEnded r c .dropped) hst
    (by rw [hm]; exact h.positions)
  rw [hm] at hv hvp
  have hc := h.call_checked hr
  obtain ⟨w, hend, ⟨ps', ls, k, l'', hw⟩, hpost, hposts, -, -⟩ := endCall_dropped (s := s) (v := v)
    (d := { c with state := .ended, endCause := some .dropped, corrupt := false }) hr hc
    (by rcases hst with e | e | e <;> simp [e]) (by rcases hst with e | e | e <;> simp [e])
    (by rw [hch]; rfl) hpos (by rw [hv]; exact put_get_self _ _ _)
    (by simp [Call.endedBy, hch, hc]) (by rw [hv]; exact h.posts _) (by rw [hv]; exact fun _ _ => h.incident_checked)
  obtain ⟨t, pa, en, l₃, hx⟩ := judgedIf_frame (c.state = .queued) w
  refine ⟨_, hend, ?_⟩
  rw [hx]
  have hvs : v.postReleased c = s.postReleased c := by rw [hv]; rfl
  constructor
  case result => rw [hw, hv]; rfl
  case call => rw [hw, hv]; exact put_get_self _ _ _
  case post => exact hpost.trans hvs
  case reported => exact reportBoth_reported _ _
  case queue => rw [hw, hv]; rfl
  case overflow =>
    rw [hw, hv]
    by_cases hq : c.state = .queued
    · simp only [if_pos hq]; rfl
    · simp only [if_neg hq]; rfl
  case positions => intro q; refine Eq.trans ?_ (hvp q); rw [hw]; rfl
  case deferrals => rw [hw, hv]; rfl
  case calls => intro q hq; rw [hw, hv]; simp [State.call, hq]
  case posts => intro j hj; exact (hposts j hj).trans (by rw [hv]; rfl)
  case others => rw [hw, hv]; exact ⟨rfl, rfl, rfl, rfl⟩

/-! ### The channel of an ended call (R153) -/

/-- Each position's connection and crosspoint are as they were, or the position was connected and is not any more. -/
def State.Disconnects (s u : State) : Prop :=
  ∀ q, (u.speech.connections.get q = s.speech.connections.get q ∧ u.speech.crosspoints.get q = s.speech.crosspoints.get q)
    ∨ (u.speech.connections.get q = none ∧ s.speech.connections.get q ≠ none)

theorem State.Disconnects.of_speech {s u : State} (h : u.speech.connections = s.speech.connections)
    (k : u.speech.crosspoints = s.speech.crosspoints) : s.Disconnects u := fun q => .inl (by rw [h, k]; exact ⟨rfl, rfl⟩)

theorem State.Disconnects.refl (s : State) : s.Disconnects s := .of_speech rfl rfl

theorem State.Disconnects.trans (s t u : State) (h : s.Disconnects t) (k : t.Disconnects u) : s.Disconnects u := by
  intro q
  rcases h q with ⟨h1, h2⟩ | ⟨h1, h2⟩ <;> rcases k q with ⟨k1, k2⟩ | ⟨k1, k2⟩
  · exact .inl ⟨k1.trans h1, k2.trans h2⟩
  · exact .inr ⟨k1, h1 ▸ k2⟩
  · exact .inr ⟨k1.trans h1, h2⟩
  · exact absurd h1 k2

theorem setConnection_none_disconnects (p : Fin 16) (s : State) (h : s.speech.connections.get p ≠ none) :
    s.Disconnects (s.setConnection p none) := by
  intro q
  by_cases hq : q = p
  · subst hq; exact .inr ⟨by simp [State.setConnection], h⟩
  · exact .inl (by simp [State.setConnection, hq])

theorem changeConnection_leaves (p : Fin 16) (x : Option Connection) (s : State) :
    (changeConnection p x).leaves s = s.setConnection p x := by
  simp only [Op.leaves, changeConnection, Op.bind_apply, Op.modify_apply, Op.get_apply, Op.ite_apply]
  by_cases h : (s.setConnection p x).speech.crosspoints.get p = x <;> simp [h]

/-- Closing the connections to a channel connects no position anew. -/
theorem closeConnections_disconnects (x : Connection) (l : List (Fin 16)) :
    (l.forM (fun p => do
      let s ← get
      if s.speech.connections.get p = some x then changeConnection p none else pure ()) : Op PUnit).Keeps
      State.Disconnects := by
  refine Op.keeps_forM State.Disconnects.refl State.Disconnects.trans _ (fun p => Op.keeps_get_bind _ fun s => ?_) l
  split
  case isTrue h =>
    rw [changeConnection_leaves]
    exact setConnection_none_disconnects p s (by rw [h]; exact Option.some_ne_none x)
  case isFalse => exact .refl s

theorem readCall_leaves (r : Fin 64) (s : State) : (readCall r).leaves s = s := by
  simp only [Op.leaves, readCall, Op.bind_apply, Op.get_apply]
  cases s.call r with
  | none => rfl
  | some c => cases h : c.corrupt <;> simp [h]

theorem readChannel_leaves (k : Fin 32) (s : State) : (readChannel k).leaves s = s := by
  simp only [Op.leaves, readChannel, Op.bind_apply, Op.get_apply]
  cases (s.channel k).corrupt <;> simp

theorem freeCallChannel_disconnects (r : Fin 64) : (freeCallChannel r).Keeps State.Disconnects := by
  unfold freeCallChannel withCall
  refine Op.keeps_bind State.Disconnects.trans _ _ (fun s => by rw [readCall_leaves]; exact .refl s) fun o => ?_
  cases o with
  | none => exact Op.keeps_pure State.Disconnects.refl _
  | some c =>
    cases hch : c.channel with
    | none => simp only [hch]; exact Op.keeps_pure State.Disconnects.refl _
    | some ch =>
      simp only [hch]
      refine Op.keeps_bind State.Disconnects.trans _ _ (fun s => by rw [readChannel_leaves]; exact .refl s) fun e => ?_
      refine Op.keeps_ite _ _ _ (Op.keeps_throw State.Disconnects.refl _) ?_
      refine Op.keeps_bind State.Disconnects.trans _ _ (closeConnections_disconnects _ _) fun _ => ?_
      exact Op.keeps_modify _ fun s => .of_speech (by simp; rfl) (by simp; rfl)

/-- No other position is connected to a channel. -/
theorem connections_ne_of_othersOn {s : State} {p q : Fin 16} {x : Connection} (h : s.othersOn p x = 0) (hq : q ≠ p) :
    s.speech.connections.get q ≠ some x := by
  simp only [State.othersOn, List.length_eq_zero_iff, List.filter_eq_nil_iff] at h
  simpa [hq] using h q (List.mem_finRange q)

/-- What the freeing of a call's channel leaves where one position at most is connected to it: no other position's connection
or crosspoint changes, and no other entry of the map. -/
structure State.FreesChannel (s t : State) (r : Fin 64) (c : Call) (p : Fin 16) (k : Fin 32) : Prop where
  frame : ∃ sp l, t = { s with
    speech := sp, reports := { s.reports with list := l }, dispatchDue := true
    calls := { s.calls with records := put s.calls.records r (some { c with channel := none, corrupt := false }) } }
  channel : t.channel k = Channel.freed
  channels : ∀ j, j ≠ k → t.channel j = s.channel j
  stuck : t.speech.stuck = s.speech.stuck
  connections : ∀ q, q ≠ p → t.speech.connections.get q = s.speech.connections.get q
  crosspoints : ∀ q, q ≠ p → t.speech.crosspoints.get q = s.speech.crosspoints.get q

theorem freeCallChannel_of_othersOn {s : State} {r : Fin 64} {c : Call} {ch : Fin 4} {st : ChannelState} {p : Fin 16}
    (hr : s.call r = some c) (hg : c.corrupt = false) (hc : s.HoldsChannel c ch st) (hst : st ≠ .free)
    (hs : ∀ q, s.speech.stuck.get q = none) (ho : s.othersOn p ⟨postSegment c.post, ch⟩ = 0) :
    ∃ t, freeCallChannel r s = .ok () t ∧ s.FreesChannel t r c p (channelIndex (postSegment c.post) ch) := by
  obtain ⟨sp, hok, hch, hstuck, hconn⟩ := freeCallChannel_ok r s c ch st hr hg hc hst hs
  have hsame (q : Fin 16) (hq : q ≠ p) : sp.connections.get q = s.speech.connections.get q := by
    rw [hconn, if_neg (connections_ne_of_othersOn ho hq)]
  refine ⟨_, hok, ⟨⟨_, _, rfl⟩, State.setChannel_self _ _ _ _, fun j hj => ?_, hstuck, hsame, fun q hq => ?_⟩⟩
  · exact (State.setChannel_ne _ _ _ _ _ hj).trans (congrArg (Vector.get · j) hch)
  · have hd := freeCallChannel_disconnects r s
    simp only [Op.leaves, hok] at hd
    rcases hd q with ⟨-, h⟩ | ⟨h, hne⟩
    · exact h
    · exact absurd ((hsame q hq).symm.trans h) hne

/-! ### The end of an OFFERED call -/

/-- The position that an offer ended as WITHDRAWN leaves (R138). -/
def State.offerWithdrawn (s : State) (p : Fin 16) (n : Nat) : Position :=
  { (s.position p).idle .free with freeSince := s.time, lastOffer := some { call := n, outcome := .withdrawn } }

/-- The end of an OFFERED call gives its position back as FREE, and reports it (R138). -/
theorem endPositions_offered {c : Call} {p : Fin 16} (s : State) (hst : c.state = .offered) (hps : c.parties = [p])
    (h : (s.position p).corrupt = false) :
    ∃ v, endPositions c .dropped s = .ok () v
      ∧ (∃ ps l d, v = { s with positions := ps, reports := { s.reports with list := l }, dispatchDue := d })
      ∧ v.position p = s.offerWithdrawn p c.number ∧ (∀ q, q ≠ p → v.position q = s.position q)
      ∧ v.Reported (.position p) := by
  have hoffer := endOffer_ok p c.number .withdrawn s h
  have he : endPositions c .dropped s = endOffer p c.number .withdrawn s := by
    simp [endPositions, hst, hps, EndCause.offerOutcome, hoffer]
  refine ⟨_, he.trans hoffer, placePosition_frame p _ s, ?_,
    fun q hq => State.placePosition_ne p q _ s hq, placePosition_reported p _ s⟩
  rw [State.placePosition_self]
  simp [State.offerWithdrawn, Position.idle, Position.toFree, Position.cleared, h]

/-- What DROPPED leaves of an OFFERED call, of the position it is offered to and of its channel (R99, R138, R153). -/
structure State.EndsOffered (s u : State) (r : Fin 64) (c : Call) (p : Fin 16) (k : Fin 32) : Prop where
  result : u.commandResult = s.commandResult
  call : u.call r = some (c.endedBy .dropped)
  position : u.position p = s.offerWithdrawn p c.number
  channel : u.channel k = Channel.freed
  post : u.post c.post = s.postReleased c
  reportedCall : u.Reported (.call r)
  reportedPosition : u.Reported (.position p)
  queue : u.calls.queue = s.calls.queue
  overflow : u.calls.overflow = s.calls.overflow
  touches : s.TouchesOnly u r p c.post k

theorem endCall_offered {s : State} {r : Fin 64} {c : Call} {p : Fin 16} {ch : Fin 4} (h : s.Sound)
    (hr : s.call r = some c) (hst : c.state = .offered) (hps : c.parties = [p]) (hch : s.HoldsChannel c ch .reserved)
    (ho : s.othersOn p ⟨postSegment c.post, ch⟩ = 0) :
    ∃ u, endCall r .dropped s = .ok () u ∧ s.EndsOffered u r c p (channelIndex (postSegment c.post) ch) := by
  have hc := h.call_checked hr
  have hm : s.recordEnded r c .dropped = s.setCall r { c with state := .ended, endCause := some .dropped } := by
    simp [State.recordEnded, hst]
  obtain ⟨t, hfree, ⟨sp, l, ht⟩, hchan, hchans, hstuck, hconn, hcross⟩ := freeCallChannel_of_othersOn
    (p := p) (ch := ch) (st := .reserved)
    (State.setCall_self r { c with state := .ended, endCause := some .dropped } s) rfl hch (by decide) h.crosspoints ho
  obtain ⟨v, hpos, ⟨ps, l', d, hv⟩, hvp, hvps, hvrep⟩ := endPositions_offered t hst hps (by rw [ht]; exact h.positions p)
  obtain ⟨w, hend, ⟨ps', ls, k, l'', hw⟩, hpost, hposts, hlines, hrep⟩ := endCall_dropped
    (d := { c with state := .ended, endCause := some .dropped, channel := none, corrupt := false }) hr hc
    (by simp [hst]) (by simp [hst]) (by rw [hch.1, hm]; exact hfree) hpos (by rw [hv, ht]; exact put_get_self _ _ _)
    (by simp [Call.endedBy, hc]) (by rw [hv, ht]; exact h.posts _) (by rw [hv, ht]; exact fun _ _ => h.incident_checked)
  rw [if_neg (by simp [hst])] at hend
  refine ⟨_, hend, ?_⟩
  have hkeeps := keepsReports_report (.call r) true true false w
  have hvs : v.postReleased c = s.postReleased c := by rw [hv, ht]; rfl
  constructor
  case result => rw [hw, hv, ht]; rfl
  case call => rw [hw, hv, ht]; exact put_get_self _ _ _
  case position => rw [hw]; exact hvp.trans (by rw [ht]; rfl)
  case channel => rw [hw, hv]; exact hchan
  case post => exact hpost.trans hvs
  case reportedCall => exact reportBoth_reported _ w
  case reportedPosition => exact hkeeps _ (hrep _ hvrep)
  case queue => rw [hw, hv, ht]; rfl
  case overflow => rw [hw, hv, ht]; rfl
  case touches =>
    constructor
    case calls => intro q hq; rw [hw, hv, ht]; simp [State.call, State.setCall, hq]
    case positions => intro q hq; rw [hw]; exact (hvps q hq).trans (by rw [ht]; rfl)
    case posts => intro j hj; exact (hposts j hj).trans (by rw [hv, ht]; rfl)
    case channels => intro j hj; rw [hw, hv]; exact hchans j hj
    case lines => intro j hj; exact (hlines j hj).trans (by rw [hv, ht]; rfl)
    case connections => intro q hq; rw [hw, hv]; exact hconn q hq
    case crosspoints => rw [hw, hv]; exact ⟨hstuck, hcross⟩
    case port => rw [hw, hv, ht]; exact ⟨rfl, rfl, rfl, rfl⟩
    case tables => rw [hw, hv, ht]; exact ⟨rfl, rfl, rfl, rfl⟩
    case path => rw [hw, hv, ht]; exact ⟨rfl, rfl, rfl⟩
    case engine => rw [hw, hv, ht]; exact ⟨rfl, rfl⟩

end Sys2Proof.Machine
end

