-- ==== Sys2Proof/Proofs/DropCall.lean ====
section
/-! SUPPORT. DROP_CALL in each state of the call (R110), and the obligation about it. -/

namespace Sys2Proof.Machine

/-! ### DROP_CALL (R110) -/

theorem exec_dropCall (w : Word) (s : State) :
    exec (.dropCall w) s = .next (s.runEvent (command (callArg w) dropCall)) := rfl

/-- DROP_CALL with no call number in range is refused. -/
theorem exec_dropCall_badArg {s : State} {w : Word} (hw : callArg w = none) :
    exec (.dropCall w) s = .next (State.followUp { s with commandResult := some .badArg }) := by
  rw [exec_dropCall, hw, runEvent_ok s _ _ (command_badArg dropCall s)]

/-- DROP_CALL in RUN with a call number in range: what the call table does, and what follows it. -/
theorem exec_dropCall_run {s u : State} {w : Word} {n : Nat} (hrun : s.inRun = true) (hw : callArg w = some n)
    (h : dropCall n { s with commandResult := some .notRunning } = .ok () u) : exec (.dropCall w) s = .next u.followUp := by
  rw [exec_dropCall, hw, runEvent_ok s u _ ((command_run n dropCall s hrun).trans h)]

section Answers

variable {s : State} {n : Nat} {r : Fin 64} {c : Call} (h : s.Sound)
include h

theorem dropCall_gone (hl : s.liveCall n = none) : dropCall n s = .ok () { s with commandResult := some .gone } := by
  simp [dropCall, liveRecord_sound h, hl]

theorem dropCall_badState (hl : s.liveCall n = some (r, c))
    (hst : c.state = .connecting ∨ c.state = .active ∨ c.state = .retrieving ∨ c.state = .ringing) :
    dropCall n s = .ok () { s with commandResult := some .badState } := by
  rcases hst with e | e | e | e <;> simp [dropCall, liveRecord_sound h, hl, e]

theorem dropCall_ends (hl : s.liveCall n = some (r, c)) (hst : c.state = .queued ∨ c.state = .offered ∨ c.state = .held) :
    dropCall n s = endCall r .dropped { s with commandResult := some .done } := by
  rcases hst with e | e | e <;> simp [dropCall, liveRecord_sound h, hl, e]

theorem dropCall_reserved {u : State} (hl : s.liveCall n = some (r, c)) (hst : c.state = .reserved)
    (hu : endCall r .dropped { s with commandResult := some .done } = .ok () u) :
    dropCall n s = .ok () (u.removeDeferral c.post) := by
  simp [dropCall, liveRecord_sound h, hl, hst, hu]

end Answers

/-- What is left once a post has left the deferral list: its entry is gone and its deferred flag cleared (R109). -/
structure State.LeavesDeferrals (s u : State) (i : Fin 256) : Prop where
  frame : ∃ ps ls l, u = { s with
    posts := ps, lines := ls, reports := { s.reports with list := l }
    calls := { s.calls with deferrals := s.calls.deferrals.filter (fun d => d.post != i) } }
  post : u.post i = { s.post i with deferred := false, corrupt := false }
  posts : ∀ j, j ≠ i → u.post j = s.post j
  reports : s.KeepsReports u

theorem setDeferrals_frame (ds : List Deferral) (s : State) : s.KeepsReports (s.setDeferrals ds)
    ∧ ∃ l, s.setDeferrals ds = { s with
        reports := { s.reports with list := l }, calls := { s.calls with deferrals := ds } } := by
  simp only [State.setDeferrals]
  split
  · exact ⟨.refl s, _, rfl⟩
  · exact ⟨keepsReports_report .engine true false false s, _, rfl⟩

theorem removeDeferral_leaves (i : Fin 256) (s : State) : s.LeavesDeferrals (s.removeDeferral i) i := by
  obtain ⟨hkeeps, l, hd⟩ := setDeferrals_frame (s.calls.deferrals.filter (fun d => d.post != i)) s
  obtain ⟨⟨ps, ls, l', hf⟩, hposts, -, hreports⟩ := touchesPost_setPost i
    { (s.setDeferrals (s.calls.deferrals.filter (fun d => d.post != i))).post i with deferred := false }
    (s.setDeferrals (s.calls.deferrals.filter (fun d => d.post != i)))
  constructor
  case frame => exact ⟨ps, ls, l', hf.trans (by rw [hd])⟩
  case post => exact (State.setPost_self _ _ _).trans (by rw [hd]; rfl)
  case posts => intro j hj; exact (hposts j hj).trans (by rw [hd]; rfl)
  case reports => exact hkeeps.trans hreports

/-- The frame of a change of one call does not depend on the result given before. -/
theorem touchesOnly_withResult {s u : State} {x : Option ResultCode} {r : Fin 64} {p : Fin 16} {i : Fin 256} {k : Fin 32}
    (h : State.TouchesOnly { s with commandResult := x } u r p i k) : s.TouchesOnly u r p i k :=
  ⟨h.calls, h.positions, h.posts, h.channels, h.lines, h.connections, h.crosspoints, h.port, h.tables, h.path, h.engine⟩

/-- Settles O37: each clause is what the call table does in one state of the call; the clauses that end it are the ending
step, and for a RESERVED record its post then leaves the deferral list. -/
theorem dropCallEndsWaitingCall : Obligations.DropCallEndsWaitingCall := by
  intro s w h
  have hdone := h.withResult (some .done)
  have hasked := h.withResult (some .notRunning)
  refine ⟨fun hw => ?badArg, fun n hrun hw => ⟨fun hl => ?gone, fun r c hl => ⟨fun hst => ?badState,
    fun hst hch => ?waiting, fun p ch hst hps hch ho => ?offered⟩⟩⟩
  case badArg => exact exec_dropCall_badArg hw
  case gone => exact exec_dropCall_run hrun hw (dropCall_gone hasked hl)
  case badState => exact exec_dropCall_run hrun hw (dropCall_badState hasked hl hst)
  case waiting =>
    obtain ⟨hr, -, rfl⟩ := liveCall_eq_some hl
    obtain ⟨u, hu, hends⟩ := endCall_waiting hdone hr hst hch
    by_cases hres : c.state = .reserved
    · obtain ⟨⟨ps, ls, l, hf⟩, hpost, hposts, hreports⟩ := removeDeferral_leaves c.post u
      refine ⟨_, exec_dropCall_run hrun hw (dropCall_reserved hasked hl hres hu), ?_, ?_, ?_, hreports _ hends.reported,
        ?_, ?_, ?_, ?_, ?_, fun j hj => (hposts j hj).trans (hends.posts j hj), ?_⟩
      · rw [hf]; exact hends.result
      · rw [hf]; exact hends.call
      · have hpr : State.postReleased { s with commandResult := some .done } c = s.postReleased c := rfl
        have hcode : (s.postReleased c).corrupt = false := h.posts c.post
        simp [hpost, hends.post, hpr, hcode, hres]
      · rw [hf]; exact hends.queue
      · rw [hf]; exact hends.overflow
      · rw [hf]; exact hends.positions
      · rw [hf, if_pos hres, ← hends.deferrals]
      · rw [hf]; exact hends.calls
      · rw [hf]; exact hends.others
    · have hdrop := (dropCall_ends hasked hl (by tauto)).trans hu
      refine ⟨u, exec_dropCall_run hrun hw hdrop, hends.result, hends.call, ?_, hends.reported, hends.queue, hends.overflow,
        hends.positions, ?_, hends.calls, hends.posts, hends.others⟩
      · rw [if_neg hres]; exact hends.post
      · rw [if_neg hres]; exact hends.deferrals
  case offered =>
    obtain ⟨hr, -, rfl⟩ := liveCall_eq_some hl
    obtain ⟨u, hu, hends⟩ := endCall_offered hdone hr hst hps hch ho
    have hdrop := (dropCall_ends hasked hl (.inr (.inl hst))).trans hu
    exact ⟨u, exec_dropCall_run hrun hw hdrop, hends.result, hends.call, hends.position, hends.channel, hends.post,
      hends.reportedCall, hends.reportedPosition, hends.queue, hends.overflow, touchesOnly_withResult hends.touches⟩

end Sys2Proof.Machine
end

section
/-! SUPPORT. What one update of the state leaves outside one call, one position, one post and one channel-map entry: a rule
for each update, which TouchesOnly.trans puts together. -/

namespace Sys2Proof.Machine

/-! ### What a change of one call touches -/

section Frame

variable (r : Fin 64) (p : Fin 16) (i : Fin 256) (k : Fin 32)

theorem State.TouchesOnly.refl (s : State) : s.TouchesOnly s r p i k :=
  ⟨fun _ _ => rfl, fun _ _ => rfl, fun _ _ => rfl, fun _ _ => rfl, fun _ _ => rfl, fun _ _ => rfl, ⟨rfl, fun _ _ => rfl⟩,
    ⟨rfl, rfl, rfl, rfl⟩, ⟨rfl, rfl, rfl, rfl⟩, ⟨rfl, rfl, rfl⟩, ⟨rfl, rfl⟩⟩

variable {r p i k} in
theorem State.TouchesOnly.trans {s t u : State} (h : s.TouchesOnly t r p i k) (h' : t.TouchesOnly u r p i k) :
    s.TouchesOnly u r p i k where
  calls q hq := (h'.calls q hq).trans (h.calls q hq)
  positions q hq := (h'.positions q hq).trans (h.positions q hq)
  posts j hj := (h'.posts j hj).trans (h.posts j hj)
  channels c hc := (h'.channels c hc).trans (h.channels c hc)
  lines l hl := (h'.lines l hl).trans (h.lines l hl)
  connections q hq := (h'.connections q hq).trans (h.connections q hq)
  crosspoints := ⟨h'.crosspoints.1.trans h.crosspoints.1,
    fun q hq => (h'.crosspoints.2 q hq).trans (h.crosspoints.2 q hq)⟩
  port := by simp only [h'.port, h.port, and_self]
  tables := by simp only [h'.tables, h.tables, and_self]
  path := by simp only [h'.path, h.path, and_self]
  engine := by simp only [h'.engine, h.engine, and_self]

theorem touchesOnly_setCall (c : Call) (s : State) : s.TouchesOnly (s.setCall r c) r p i k :=
  { State.TouchesOnly.refl r p i k s with calls := fun q hq => State.setCall_ne r q c s hq }

theorem touchesOnly_report (o : Obj) (b e f : Bool) (s : State) : s.TouchesOnly (s.report o b e f) r p i k :=
  { State.TouchesOnly.refl r p i k s with }

theorem touchesOnly_setPositionTimers (x : Position) (s : State) : s.TouchesOnly (s.setPositionTimers p x) r p i k :=
  { State.TouchesOnly.refl r p i k s with
    positions := fun q hq => by simp [State.position, State.setPositionTimers, hq] }

theorem touchesOnly_setPosition (x : Position) (s : State) : s.TouchesOnly (s.setPosition p x) r p i k :=
  (touchesOnly_setPositionTimers r p i k x s).trans (touchesOnly_report r p i k (.position p) true true false _)

theorem touchesOnly_setConnection (x : Option Connection) (s : State) : s.TouchesOnly (s.setConnection p x) r p i k :=
  { State.TouchesOnly.refl r p i k s with
    connections := fun q hq => by simp [State.setConnection, hq]
    crosspoints := ⟨rfl, fun q hq => by simp [State.setConnection, hq]⟩ }

theorem touchesOnly_setChannel (g : Fin 8) (ch : Fin 4) (x : Channel) (s : State) :
    s.TouchesOnly (s.setChannel g ch x) r p i (channelIndex g ch) :=
  { State.TouchesOnly.refl r p i (channelIndex g ch) s with channels := fun c hc => State.setChannel_ne g ch c x s hc }

theorem touchesOnly_leaveQueue (q : Fin 64) (s : State) : s.TouchesOnly (s.leaveQueue q) r p i k :=
  { State.TouchesOnly.refl r p i k s with }

theorem touchesOnly_setOverflow (b : Bool) (s : State) : s.TouchesOnly (s.setOverflow b) r p i k :=
  { State.TouchesOnly.refl r p i k s with }

theorem touchesOnly_judgeOverflow (s : State) : s.TouchesOnly s.judgeOverflow r p i k := by
  rw [judgeOverflow_eq]
  split
  case isTrue => exact .refl r p i k s
  case isFalse => exact touchesOnly_setOverflow r p i k _ s

variable {i} in
theorem State.TouchesPost.touchesOnly {s u : State} (h : s.TouchesPost u i) : s.TouchesOnly u r p i k := by
  obtain ⟨ps, ls, l, rfl⟩ := h.frame
  exact { State.TouchesOnly.refl r p i k s with posts := h.posts, lines := h.lines }

end Frame

/-! ### Calls that leave the queue (R96, R104) -/

theorem keepsReports_judgeOverflow (s : State) : s.KeepsReports s.judgeOverflow := by
  rw [judgeOverflow_eq]
  split
  case isTrue => exact .refl s
  case isFalse => exact keepsReports_report .engine true true false s

/-- What a QUEUED call that leaves the queue for a position leaves: the call's record, the queue and overflow as judged
without it (R134 step 2, R145). -/
structure State.TakesCall (s t : State) (r : Fin 64) (d : Call) (p : Fin 16) (i : Fin 256) (k : Fin 32) : Prop where
  frame : ∃ ra pa en l, t = { s with
    path := pa, engine := en, reports := { s.reports with list := l }
    calls := { s.calls with
      records := put s.calls.records r (some { d with corrupt := false })
      queue := s.calls.queue.erase r, overflow := s.overflowAt (s.calls.queue.erase r).length, reannounce := ra } }
  reported : t.Reported (.call r)
  touches : s.TouchesOnly t r p i k

theorem takeFromQueue_takes {s : State} {r : Fin 64} {c : Call} (p : Fin 16) (st : CallState) (i : Fin 256) (k : Fin 32)
    (hr : s.call r = some c) : s.TakesCall (s.takeFromQueue r p st) r { c with state := st, parties := [p] } p i k := by
  obtain ⟨d, hd⟩ : ∃ d : Call, d = { c with state := st, parties := [p] } := ⟨_, rfl⟩
  have htake : s.takeFromQueue r p st = (((s.setCall r d).reportCall r).leaveQueue r).judgeOverflow := by
    rw [State.takeFromQueue, State.modifyCall, hr, hd]
  obtain ⟨ra, pa, en, l, hj⟩ := judgedIf_frame True (((s.setCall r d).reportCall r).leaveQueue r)
  rw [htake, ← hd]
  constructor
  case frame => exact ⟨ra, pa, en, l, hj⟩
  case reported =>
    exact keepsReports_judgeOverflow _ _ (keepsReports_report .engine true false false _ _ (reportBoth_reported (.call r) _))
  case touches =>
    exact (((touchesOnly_setCall r p i k d s).trans (touchesOnly_report r p i k (.call r) true true false _)).trans
      (touchesOnly_leaveQueue r p i k r _)).trans (touchesOnly_judgeOverflow r p i k _)

/-! ### Positions written (R128) -/

/-- A record whose check code holds is as it is once the code is made anew. -/
theorem position_checked {x : Position} (h : x.corrupt = false) : { x with corrupt := false } = x := by
  rw [← h]

theorem setPosition_eq (p : Fin 16) {x : Position} (h : x.corrupt = false) (s : State) : s.setPosition p x = { s with
    positions := put s.positions p x
    reports := { s.reports with list := markObject s.reports.list (.position p) true true false s.time } } := by
  rw [State.setPosition, State.setPositionTimers, position_checked h]
  rfl

/-- A position written where it is eligible makes dispatch due (R132). -/
theorem placePosition_eq (p : Fin 16) {x : Position} (h : x.corrupt = false) (s : State) : s.placePosition p x = { s with
    positions := put s.positions p x
    reports := { s.reports with list := markObject s.reports.list (.position p) true true false s.time }
    dispatchDue := s.dispatchDue || x.eligible } := by
  rw [State.placePosition, setPosition_eq p h]
  cases x.eligible
  case true => simp only [Bool.or_true]; rfl
  case false => simp only [Bool.or_false]; rfl

/-! ### Records of a sound state -/

/-- Where no check code fails, a call number's live record is what is acted on. -/
theorem withLive_sound {s : State} (h : s.Sound) {n : Nat} {r : Fin 64} {c : Call} (hl : s.liveCall n = some (r, c))
    (f : Fin 64 → Call → Op Unit) : withLive n f s = f r c s := by
  simp [withLive, liveRecord_sound h, hl]

/-- A position's timers may change in a state where no check code fails. -/
theorem State.Sound.setPositionTimers {s : State} (h : s.Sound) (p : Fin 16) (x : Position) :
    (s.setPositionTimers p x).Sound := by
  refine ⟨h.posts, fun q => ?_, h.calls, h.incidents, h.channels, h.crosspoints⟩
  by_cases hq : q = p
  · rw [hq, State.setPositionTimers_self]
  · simpa [State.position, State.setPositionTimers, hq] using h.positions q

/-! ### Calls that a position answers (R135, R145, R155) -/

/-- An ACTIVE position with a call it has accepted (R135 step 3). -/
def Position.accepted (x : Position) (n : Nat) : Position :=
  { x.idle .active with current := some n, misses := 0, lastOffer := some { call := n, outcome := .accepted } }

theorem accepting_eq_accepted (x : Position) (n : Nat) : x.accepting n = x.accepted n := rfl

/-- What a call answered by a position leaves: the position, its connection to the call's channel, and the CONNECT pended to
the call's post (R135 steps 3 to 5). -/
structure State.AnswersCall (t u : State) (r : Fin 64) (c : Call) (p : Fin 16) (x : Position) (ch : Fin 4) : Prop where
  result : u.commandResult = t.commandResult
  calls : u.calls = t.calls
  cluster : u.cluster = t.cluster
  channels : u.speech.channels = t.speech.channels
  position : u.position p = x.accepted c.number
  connected : u.Connected p (some ⟨postSegment c.post, ch⟩)
  post : u.post c.post = t.postPended c.post (.connect ch) (some c.number)
  reported : u.Reported (.position p)
  reports : t.KeepsReports u
  touches : t.TouchesOnly u r p c.post (channelIndex (postSegment c.post) ch)

/-- A connect request of a call's only party, with the channel RESERVED for the call and no other position on it. -/
theorem connectRequest_onlyParty {t : State} {r : Fin 64} {c : Call} {p : Fin 16} {ch : Fin 4} (hr : t.call r = some c)
    (hc : c.corrupt = false) (hps : c.parties = [p]) (hch : t.HoldsChannel c ch .reserved)
    (hnone : t.speech.connections.get p = none) (ho : t.othersOn p ⟨postSegment c.post, ch⟩ = 0)
    (hstuck : t.speech.stuck.get p = none) :
    connectRequest p r t = .ok () (t.setConnection p (some ⟨postSegment c.post, ch⟩)) := by
  obtain ⟨hcall, hentry⟩ := hch
  exact connectRequest_ok p r t c ch hr hc hcall (by rw [hentry]) (by simp [hentry]) (by rw [hentry]) hnone (by simp [hps])
    (by omega) hstuck

theorem connectCall_answers {t : State} {r : Fin 64} {c : Call} {p : Fin 16} {x : Position} {ch : Fin 4}
    (hr : t.call r = some c) (hc : c.corrupt = false) (hx : x.corrupt = false) (hps : c.parties = [p])
    (hch : t.HoldsChannel c ch .reserved) (hnone : t.speech.connections.get p = none)
    (ho : t.othersOn p ⟨postSegment c.post, ch⟩ = 0) (hstuck : t.speech.stuck.get p = none)
    (hpost : (t.post c.post).corrupt = false) :
    ∃ u, connectCall p r (t.setPosition p (x.accepting c.number)) = .ok () u ∧ t.AnswersCall u r c p x ch := by
  obtain ⟨v, hv⟩ : ∃ v, v = t.setPosition p (x.accepting c.number) := ⟨_, rfl⟩
  obtain ⟨w, hw⟩ : ∃ w, w = v.setConnection p (some ⟨postSegment c.post, ch⟩) := ⟨_, rfl⟩
  have hreq : connectRequest p r v = .ok () w := by
    rw [hw, hv]
    exact connectRequest_onlyParty (t := t.setPosition p (x.accepting c.number)) hr hc hps hch hnone ho hstuck
  have hwr : w.call r = some c := by rw [hw, hv]; exact hr
  obtain ⟨u, hpend, htouch, hup⟩ := pend_touchesPost c.post (.connect ch) (some c.number) w (by rw [hw, hv]; exact hpost)
  obtain ⟨ps, ls, l, hu⟩ := htouch.frame
  have hvkeeps : t.KeepsReports v := by rw [hv]; exact keepsReports_report (.position p) true true false _
  have hwkeeps : v.KeepsReports w := by rw [hw]; exact .refl v
  refine ⟨u, ?runs, ?answers⟩
  case runs =>
    rw [← hv, connectCall]
    simp only [Op.bind_apply, hreq, withCall_ok w r c _ hwr hc, hch.1, hpend]
  case answers =>
    constructor
    case result => rw [hu, hw, hv]; rfl
    case calls => rw [hu, hw, hv]; rfl
    case cluster => rw [hu, hw, hv]; rfl
    case channels => rw [hu, hw, hv]; rfl
    case position =>
      have hset : v.position p = { x.accepted c.number with corrupt := false } := by
        rw [hv, accepting_eq_accepted, State.setPosition_self]
      have hchecked : (x.accepted c.number).corrupt = false := hx
      rw [hu, hw]
      exact hset.trans (position_checked hchecked)
    case connected =>
      rw [hu, hw]
      exact ⟨State.setConnection_self .., setConnection_crosspoint p _ v (by rw [hv]; exact hstuck)⟩
    case post => rw [hup, hw, hv]; rfl
    case reported =>
      refine htouch.reports _ (hwkeeps _ ?_)
      rw [hv]
      exact reportBoth_reported (.position p) _
    case reports => exact (hvkeeps.trans hwkeeps).trans htouch.reports
    case touches =>
      have htv := touchesOnly_setPosition r p c.post (channelIndex (postSegment c.post) ch) (x.accepting c.number) t
      have hvw := touchesOnly_setConnection r p c.post (channelIndex (postSegment c.post) ch)
        (some ⟨postSegment c.post, ch⟩) v
      rw [← hv] at htv
      rw [← hw] at hvw
      exact (htv.trans hvw).trans (htouch.touchesOnly r p _)

end Sys2Proof.Machine
end

section
/-! SUPPORT. OPEN_POSITION, CLOSE_POSITION, ACCEPT and PICK in each state of the position and the call (R135, R143 to R145),
and the obligations about them. -/

namespace Sys2Proof.Machine

/-! ### The commands in RUN with their arguments in range (R18) -/

theorem runEvent_command {α : Type} {s u : State} {act : α → Op Unit} {a : α} (hrun : s.inRun = true)
    (h : act a { s with commandResult := some .notRunning } = .ok () u) :
    s.runEvent (command (some a) act) = u.followUp :=
  runEvent_ok s u _ ((command_run a act s hrun).trans h)

section Commands

variable {s u : State} {w v : Word} {p : Fin 16} {n : Nat} (hrun : s.inRun = true) (hw : positionArg w = some p)
include hrun hw

theorem exec_openPosition_run (h : openPosition p { s with commandResult := some .notRunning } = .ok () u) :
    exec (.openPosition w) s = .next u.followUp := by
  rw [← runEvent_command hrun h, ← hw]; rfl

theorem exec_closePosition_run (h : closePosition p { s with commandResult := some .notRunning } = .ok () u) :
    exec (.closePosition w) s = .next u.followUp := by
  rw [← runEvent_command hrun h, ← hw]; rfl

variable (hv : callArg v = some n)
include hv

theorem exec_accept_run (h : acceptCall (p, n) { s with commandResult := some .notRunning } = .ok () u) :
    exec (.accept w v) s = .next u.followUp := by
  have ha : bothArgs (positionArg w) (callArg v) = some (p, n) := by rw [hw, hv]; rfl
  rw [← runEvent_command hrun h, ← ha]; rfl

theorem exec_pick_run (h : pickCall (p, n) { s with commandResult := some .notRunning } = .ok () u) :
    exec (.pick w v) s = .next u.followUp := by
  have ha : bothArgs (positionArg w) (callArg v) = some (p, n) := by rw [hw, hv]; rfl
  rw [← runEvent_command hrun h, ← ha]; rfl

end Commands

/-! ### OPEN_POSITION and CLOSE_POSITION (R143, R144) -/

section Positions

variable {s : State} {p : Fin 16} (h : (s.position p).corrupt = false)
include h

theorem openPosition_badState (hst : (s.position p).state ≠ .closed) :
    openPosition p s = .ok () { s with commandResult := some .badState } := by
  simp [openPosition, readPosition_ok s p h, hst]

theorem openPosition_opens (hst : (s.position p).state = .closed) : openPosition p s = .ok ()
    (State.placePosition p { (s.position p).toFree s.time with misses := 0 } { s with commandResult := some .done }) := by
  simp [openPosition, readPosition_ok s p h, hst]

theorem closePosition_busy
    (hst : ((s.position p).state ≠ .free ∧ (s.position p).state ≠ .wrapup) ∨ (s.position p).held ≠ []) :
    closePosition p s = .ok () { s with commandResult := some .busy } := by
  have hno : ¬ (((s.position p).state = .free ∨ (s.position p).state = .wrapup) ∧ (s.position p).held = []) := by tauto
  simp only [closePosition, Op.bind_apply, readPosition_ok s p h, if_neg hno, answer_apply]

theorem closePosition_closes (hst : (s.position p).state = .free ∨ (s.position p).state = .wrapup)
    (hheld : (s.position p).held = []) : closePosition p s = .ok ()
    (State.setPosition p { (s.position p).cleared with state := .closed } { s with commandResult := some .done }) := by
  simp only [closePosition, Op.bind_apply, readPosition_ok s p h, if_pos (And.intro hst hheld), answer_apply,
    Op.modify_apply]

end Positions

/-- Settles O40: each clause is what the dispatcher does in one state of the position, and the record it writes is the one
read with its timers and current call removed. -/
theorem positionsOpenAndClose : Obligations.PositionsOpenAndClose := by
  intro s w p hrun hw h
  refine ⟨fun hst => ?refusesOpen, fun hst => ?opens, fun hst => ?refusesClose, fun hst hheld => ?closes⟩
  case refusesOpen => exact exec_openPosition_run hrun hw (openPosition_badState h hst)
  case opens =>
    have hchecked : { (s.position p).toFree s.time with misses := 0 }.corrupt = false := h
    exact (exec_openPosition_run hrun hw (openPosition_opens h hst)).trans
      (congrArg (fun t : State => Host.Outcome.next t.followUp) (placePosition_eq p hchecked _))
  case refusesClose => exact exec_closePosition_run hrun hw (closePosition_busy h hst)
  case closes =>
    have hchecked : { (s.position p).cleared with state := .closed }.corrupt = false := h
    exact (exec_closePosition_run hrun hw (closePosition_closes h hst hheld)).trans
      (congrArg (fun t : State => Host.Outcome.next t.followUp) (setPosition_eq p hchecked _))

/-! ### ACCEPT (R135) -/

/-- The result of an ACCEPT of a call that is not on offer to the position: by its last offer, where that names the call, and
otherwise by whether the call is live (R135 rows 2 to 6). -/
def State.acceptRefusal (s : State) (p : Fin 16) (n : Nat) : ResultCode :=
  match (s.position p).offered n with
  | some .timedOut => .late
  | some .withdrawn => .withdrawn
  | some .callerGone => .gone
  | some .accepted | none => if s.liveCall n = none then .gone else .badState

theorem offered_of_lastOffer {x : Position} {o : LastOffer} (h : x.lastOffer = some o) :
    x.offered o.call = some o.outcome := by
  simp [Position.offered, h]

theorem offered_eq_none {x : Position} {n : Nat} (h : ∀ o, x.lastOffer = some o → o.call ≠ n) : x.offered n = none := by
  unfold Position.offered
  cases hx : x.lastOffer with
  | none => rfl
  | some o => exact if_neg (h o hx)

theorem refuseCall_ok {s : State} (h : s.Sound) (n : Nat) : refuseCall n s =
    .ok () { s with commandResult := some (if s.liveCall n = none then .gone else .badState) } := by
  simp [refuseCall, liveRecord_sound h]

theorem acceptCall_refused {s : State} (h : s.Sound) {p : Fin 16} {n : Nat}
    (hst : ¬ ((s.position p).state = .offered ∧ (s.position p).current = some n)) :
    acceptCall (p, n) s = .ok () { s with commandResult := some (s.acceptRefusal p n) } := by
  have hnow : (s.position p).offeredNow n = false := by simpa [Position.offeredNow] using hst
  simp only [acceptCall, Op.bind_apply, readPosition_ok s p (h.positions p), hnow, Bool.false_eq_true, if_false,
    State.acceptRefusal]
  cases (s.position p).offered n with
  | none => exact refuseCall_ok h n
  | some o =>
    cases o with
    | accepted => exact refuseCall_ok h n
    | timedOut | withdrawn | callerGone => rfl

/-- The state once an offer has been accepted, but for the position: the offer timer is gone, and the call is CONNECTING and
reported (R135 steps 1 and 2). -/
def State.offerAccepted (s : State) (p : Fin 16) (r : Fin 64) (c : Call) : State :=
  ((s.setPositionTimers p { s.position p with offerTimer := none }).setCall r { c with state := .connecting }).reportCall r

theorem offerAccepted_touches (s : State) (p : Fin 16) (r : Fin 64) (c : Call) (i : Fin 256) (k : Fin 32) :
    s.TouchesOnly (s.offerAccepted p r c) r p i k :=
  ((touchesOnly_setPositionTimers r p i k _ s).trans (touchesOnly_setCall r p i k _ _)).trans
    (touchesOnly_report r p i k (.call r) true true false _)

/-- An ACCEPT of the call on offer to the position ends as a connection of the position to the call. -/
theorem acceptCall_connects {s : State} (h : s.Sound) {p : Fin 16} {n : Nat} {r : Fin 64} {c : Call}
    (hst : (s.position p).state = .offered) (hcur : (s.position p).current = some n) (hl : s.liveCall n = some (r, c)) :
    acceptCall (p, n) s = connectCall p r
      ((State.offerAccepted { s with commandResult := some .done } p r c).setPosition p ((s.position p).accepting n)) := by
  have hnow : (s.position p).offeredNow n = true := by simp [Position.offeredNow, hst, hcur]
  have hdone := h.withResult (some .done)
  have htimer := removeOfferTimer_ok p _ (hdone.positions p)
  have hlive := withLive_sound (hdone.setPositionTimers p { s.position p with offerTimer := none }) hl
  simp only [acceptCall, Op.bind_apply, readPosition_ok s p (h.positions p), hnow, if_true, acceptOffer, answer_apply]
  rw [htimer]
  exact (hlive _).trans rfl

/-- Settles O42: a call that is not on offer is refused by the position's last offer; the one on offer is CONNECTING, and the
position answers it. -/
theorem acceptConnectsOfferedCall : Obligations.AcceptConnectsOfferedCall := by
  intro s w v p n hrun h hw hv
  have hasked := h.withResult (some .notRunning)
  refine ⟨fun hst => ⟨s.acceptRefusal p n, exec_accept_run hrun hw hv (acceptCall_refused hasked hst),
    fun o ho hn => ?last, fun hno => ?other⟩, fun r c ch hst hcur hl hps hch hnone hoth => ?accepts⟩
  case last =>
    subst hn
    refine ⟨fun e => ?_, fun e => ?_, fun e => ?_, fun e => ?_⟩ <;>
      simp only [State.acceptRefusal, offered_of_lastOffer ho, e]
  case other => simp only [State.acceptRefusal, offered_eq_none hno]
  case accepts =>
    obtain ⟨hr, -, rfl⟩ := liveCall_eq_some hl
    obtain ⟨t, ht⟩ : ∃ t, t = State.offerAccepted { s with commandResult := some .done } p r c := ⟨_, rfl⟩
    have hc := h.call_checked hr
    have htr : t.call r = some { c with state := .connecting } := by
      rw [ht]; exact (State.setCall_self r _ _).trans (by rw [hc])
    have htouch : s.TouchesOnly t r p c.post (channelIndex (postSegment c.post) ch) := by
      rw [ht]; exact touchesOnly_withResult (offerAccepted_touches _ p r c _ _)
    have hreported : t.Reported (.call r) := by rw [ht]; exact reportBoth_reported (.call r) _
    obtain ⟨u, hu, hans⟩ := connectCall_answers (x := s.position p) (ch := ch) htr hc (h.positions p) hps
      (by rw [ht]; exact hch) (by rw [ht]; exact hnone) (by rw [ht]; exact hoth) (by rw [ht]; exact h.crosspoints p)
      (by rw [ht]; exact h.posts c.post)
    rw [ht] at hu
    refine ⟨u, exec_accept_run hrun hw hv ((acceptCall_connects hasked hst hcur hl).trans hu), ?_, ?_, hans.position,
      hans.connected, ?_, hans.reports _ hreported, hans.reported, ?_, ?_, ?_, ?_, htouch.trans hans.touches⟩
    · rw [hans.result, ht]; rfl
    · rw [State.call, hans.calls]; exact htr
    · rw [hans.post, ht]; rfl
    · rw [hans.calls, ht]; rfl
    · rw [hans.calls, ht]; rfl
    · rw [hans.cluster, ht]; rfl
    · rw [State.channel, hans.channels, ht]; rfl

/-! ### PICK (R145) -/

section Answers

variable {s : State} {p : Fin 16} {n : Nat} {r : Fin 64} {c : Call} (h : s.Sound)
include h

theorem pickCall_gone (hl : s.liveCall n = none) : pickCall (p, n) s = .ok () { s with commandResult := some .gone } := by
  simp [pickCall, liveRecord_sound h, hl]

variable (hl : s.liveCall n = some (r, c))
include hl

theorem pickCall_busy (he : (s.position p).eligible = false) :
    pickCall (p, n) s = .ok () { s with commandResult := some .busy } := by
  simp [pickCall, liveRecord_sound h, hl, h.positions p, he]

variable (he : (s.position p).eligible = true)
include he

theorem pickCall_badState (hst : c.state ≠ .queued ∨ (s.post c.post).state ≠ .present
    ∨ (s.segment (postSegment c.post)).state ≠ .active) :
    pickCall (p, n) s = .ok () { s with commandResult := some .badState } := by
  by_cases hq : c.state = .queued
  · have hno : (s.post c.post).state ≠ .present ∨ (s.segment (postSegment c.post)).state ≠ .active :=
      hst.resolve_left (not_not_intro hq)
    simp [pickCall, liveRecord_sound h, hl, h.positions p, he, h.posts c.post, hq, hno]
  · simp [pickCall, liveRecord_sound h, hl, h.positions p, he, hq]

variable (hq : c.state = .queued) (hpost : (s.post c.post).state = .present)
  (hseg : (s.segment (postSegment c.post)).state = .active)
include hq hpost hseg

theorem pickCall_noChannel (hf : s.freeChannel (postSegment c.post) = none) :
    pickCall (p, n) s = .ok () { s with commandResult := some .noChannel } := by
  simp [pickCall, liveRecord_sound h, hl, h.positions p, he, h.posts c.post, hq, hpost, hseg, hf]

theorem pickCall_picks {ch : Fin 4} (hf : s.freeChannel (postSegment c.post) = some ch) :
    pickCall (p, n) s = pickQueued p (s.position p) r c s := by
  simp [pickCall, liveRecord_sound h, hl, h.positions p, he, h.posts c.post, hq, hpost, hseg, hf]

end Answers

/-- The state once a channel has been reserved for a call (R151). -/
def State.channelReserved (s : State) (r : Fin 64) (c : Call) (ch : Fin 4) : State :=
  (s.setChannel (postSegment c.post) ch { state := .reserved, call := some c.number, corrupt := false }).setCall r
    { c with channel := some ch }

theorem channelReserved_touches (s : State) (p : Fin 16) (r : Fin 64) (c : Call) (ch : Fin 4) :
    s.TouchesOnly (s.channelReserved r c ch) r p c.post (channelIndex (postSegment c.post) ch) :=
  (touchesOnly_setChannel r p c.post _ ch _ s).trans (touchesOnly_setCall r p c.post _ _ _)

/-- The pick of a call ends as a connection of the position to the call, once the call has its channel and has left the
queue. -/
theorem pickQueued_connects {s : State} (h : s.Sound) {p : Fin 16} {r : Fin 64} {c : Call} {ch : Fin 4} (x : Position)
    (hr : s.call r = some c) (hf : s.freeChannel (postSegment c.post) = some ch) (hheld : s.channelHeldBy c.number = none) :
    pickQueued p x r c s = connectCall p r
      (((State.channelReserved { s with commandResult := some .done } r c ch).takeFromQueue r p .connecting).setPosition p
        (x.accepting c.number)) := by
  have hdone := h.withResult (some .done)
  have hreserve := reserveChannel_ok (postSegment c.post) r { s with commandResult := some .done } c ch hr
    (h.call_checked hr) hheld hf (hdone.channels _)
  simp only [pickQueued, Op.bind_apply, answer_apply, hreserve, Op.modify_apply]
  rfl

/-- Settles O47: the first row of the table that applies refuses the call; where none does it has a channel reserved, leaves
the queue, and the position answers it. -/
theorem pickTakesQueuedCall : Obligations.PickTakesQueuedCall := by
  intro s w v p n hrun h hw hv
  have hasked := h.withResult (some .notRunning)
  refine ⟨fun hl => ?gone, fun r c hl => ⟨fun he => ?busy, fun he hno => ?badState,
    fun he hq hpost hseg => ⟨fun hf => ?noChannel, fun ch hf hheld hnone hoth => ?picks⟩⟩⟩
  case gone => exact exec_pick_run hrun hw hv (pickCall_gone hasked hl)
  case busy => exact exec_pick_run hrun hw hv (pickCall_busy hasked hl he)
  case badState => exact exec_pick_run hrun hw hv (pickCall_badState hasked hl he hno)
  case noChannel => exact exec_pick_run hrun hw hv (pickCall_noChannel hasked hl he hq hpost hseg hf)
  case picks =>
    obtain ⟨hr, -, rfl⟩ := liveCall_eq_some hl
    have hc := h.call_checked hr
    obtain ⟨y, hy⟩ : ∃ y, y = State.channelReserved { s with commandResult := some .done } r c ch := ⟨_, rfl⟩
    have hyr : y.call r = some { c with channel := some ch } := by
      rw [hy]; exact (State.setCall_self r _ _).trans (by rw [hc])
    have hych : y.channel (channelIndex (postSegment c.post) ch) =
        { state := .reserved, call := some c.number, corrupt := false } := by
      rw [hy]; exact State.setChannel_self _ _ _ _
    have hytouch : s.TouchesOnly y r p c.post (channelIndex (postSegment c.post) ch) := by
      rw [hy]; exact touchesOnly_withResult (channelReserved_touches _ p r c ch)
    obtain ⟨⟨ra, pa, en, l, ht⟩, hreported, httouch⟩ :=
      takeFromQueue_takes p .connecting c.post (channelIndex (postSegment c.post) ch) hyr
    obtain ⟨t, htdef⟩ : ∃ t, t = y.takeFromQueue r p .connecting := ⟨_, rfl⟩
    rw [← htdef] at ht hreported httouch
    have htr : t.call r = some { c with state := .connecting, channel := some ch, parties := [p] } := by
      rw [ht]; exact (put_get_self _ _ _).trans (by rw [hc])
    obtain ⟨u, hu, hans⟩ := connectCall_answers (x := s.position p) (ch := ch) htr hc (h.positions p) rfl
      ⟨rfl, by rw [ht]; exact hych⟩ (by rw [ht, hy]; exact hnone) (by rw [ht, hy]; exact hoth)
      (by rw [ht, hy]; exact h.crosspoints p) (by rw [ht, hy]; exact h.posts c.post)
    rw [htdef, hy] at hu
    have hruns := (pickCall_picks hasked hl he hq hpost hseg hf).trans
      ((pickQueued_connects hasked (s.position p) hr hf hheld).trans hu)
    refine ⟨u, exec_pick_run hrun hw hv hruns, ?_, ?_, ?_, ?_, hans.reports _ hreported, hans.reported, hans.position,
      ?_, hans.connected, ?_, ?_, (hytouch.trans httouch).trans hans.touches⟩
    · rw [hans.result, ht, hy]; rfl
    · rw [State.call, hans.calls]; exact htr
    · rw [hans.calls, ht, hy]; rfl
    · rw [hans.calls, ht, hy]; rfl
    · rw [State.channel, hans.channels, ht]; exact hych
    · rw [hans.post, ht, hy]; rfl
    · rw [hans.cluster, ht, hy]; rfl

end Sys2Proof.Machine
end

section
/-! SUPPORT. RELEASE, LEAVE and JOIN in each state of the position and the call (R140, R160, R161), the end of a call by its
only party (R99, R139, R153), and the obligations about them. -/

namespace Sys2Proof.Machine

/-! ### The commands in RUN with their arguments in range (R18) -/

section Commands

variable {s u : State} {w v : Word} {p : Fin 16} {n : Nat} (hrun : s.inRun = true) (hw : positionArg w = some p)
include hrun hw

theorem exec_release_run (h : releasePosition p { s with commandResult := some .notRunning } = .ok () u) :
    exec (.release w) s = .next u.followUp := by
  rw [← runEvent_command hrun h, ← hw]; rfl

theorem exec_leave_run (h : leaveCall p { s with commandResult := some .notRunning } = .ok () u) :
    exec (.leave w) s = .next u.followUp := by
  rw [← runEvent_command hrun h, ← hw]; rfl

theorem exec_join_run (hv : callArg v = some n)
    (h : joinCall (p, n) { s with commandResult := some .notRunning } = .ok () u) :
    exec (.join w v) s = .next u.followUp := by
  have ha : bothArgs (positionArg w) (callArg v) = some (p, n) := by rw [hw, hv]; rfl
  rw [← runEvent_command hrun h, ← ha]; rfl

end Commands

/-! ### What the updates touch -/

section Frame

variable (r : Fin 64) (p : Fin 16) (i : Fin 256) (k : Fin 32)

theorem touchesOnly_wantDispatch (s : State) : s.TouchesOnly s.wantDispatch r p i k :=
  { State.TouchesOnly.refl r p i k s with }

theorem touchesOnly_placePosition (x : Position) (s : State) : s.TouchesOnly (s.placePosition p x) r p i k := by
  have hset := touchesOnly_setPosition r p i k x s
  unfold State.placePosition
  split
  · exact hset.trans (touchesOnly_wantDispatch r p i k _)
  · exact hset

variable {i} in
theorem State.TouchesIncidents.touchesOnly {s u : State} (h : s.TouchesIncidents u) : s.TouchesOnly u r p i k := by
  obtain ⟨⟨c, l, rfl⟩, -⟩ := h
  exact { State.TouchesOnly.refl r p i k s with }

end Frame

theorem placePosition_keepsReports (p : Fin 16) (x : Position) (s : State) : s.KeepsReports (s.placePosition p x) := by
  have hset : s.KeepsReports (s.setPosition p x) := keepsReports_report (.position p) true true false _
  unfold State.placePosition
  split <;> exact hset

/-! ### A channel freed with one position on it at most (R153) -/

/-- The state once a position's connection is removed, where it is to the channel given. -/
def State.closedTo (s : State) (p : Fin 16) (x : Connection) : State :=
  if s.speech.connections.get p = some x then s.setConnection p none else s

theorem closedTo_of_ne {s : State} {p : Fin 16} {x : Connection} (h : s.speech.connections.get p ≠ some x) :
    s.closedTo p x = s := if_neg h

theorem closedTo_of_eq {s : State} {p : Fin 16} {x : Connection} (h : s.speech.connections.get p = some x) :
    s.closedTo p x = s.setConnection p none := if_pos h

theorem closedTo_frame (s : State) (p : Fin 16) (x : Connection) : ∃ sp, s.closedTo p x = { s with speech := sp } := by
  unfold State.closedTo
  split
  · exact ⟨_, rfl⟩
  · exact ⟨s.speech, rfl⟩

theorem closedTo_touches (r : Fin 64) (i : Fin 256) (k : Fin 32) (s : State) (p : Fin 16) (x : Connection) :
    s.TouchesOnly (s.closedTo p x) r p i k := by
  unfold State.closedTo
  split
  · exact touchesOnly_setConnection r p i k none s
  · exact .refl r p i k s

/-- Where no position but one can be connected to a channel, closing the connections to it closes that one. -/
theorem closeConnections_closedTo {p : Fin 16} {x : Connection} : ∀ (l : List (Fin 16)) (s : State),
    s.speech.stuck.get p = none → (∀ q, q ≠ p → s.speech.connections.get q ≠ some x) →
    (l.forM (fun p => do
      let s ← get
      if s.speech.connections.get p = some x then changeConnection p none else pure ()) : Op PUnit) s
      = .ok ⟨⟩ (if p ∈ l then s.closedTo p x else s) := by
  intro l
  induction l with
  | nil => intro s _ _; simp
  | cons q l ih =>
    intro s hs ho
    by_cases hq : s.speech.connections.get q = some x
    · obtain rfl : q = p := by_contra fun hne => ho q hne hq
      have hrest := ih (s.setConnection q none) hs fun j hj => by simpa [State.setConnection, hj] using ho j hj
      rw [closedTo_of_ne (s := s.setConnection q none) (by simp), ite_self] at hrest
      simp only [List.forM_eq_forM, List.forM_cons, Op.bind_apply, Op.get_apply, if_pos hq,
        changeConnection_ok q none s hs] at hrest ⊢
      rw [hrest, if_pos List.mem_cons_self, closedTo_of_eq hq]
    · have hrest := ih s hs ho
      simp only [List.forM_eq_forM, List.forM_cons, Op.bind_apply, Op.get_apply, if_neg hq, Op.pure_apply] at hrest ⊢
      rw [hrest]
      by_cases hp : q = p
      · subst hp; simp [closedTo_of_ne hq]
      · simp [Ne.symm hp]

/-- The state once a call's channel is freed, with one position on it at most (R153). -/
def State.channelFreed (s : State) (r : Fin 64) (c : Call) (p : Fin 16) (ch : Fin 4) : State :=
  (((s.closedTo p ⟨postSegment c.post, ch⟩).setChannel (postSegment c.post) ch .freed).setCall r
    { c with channel := none }).wantDispatch

theorem freeCallChannel_channelFreed {s : State} {r : Fin 64} {c : Call} {ch : Fin 4} {st : ChannelState} {p : Fin 16}
    (hr : s.call r = some c) (hg : c.corrupt = false) (hc : s.HoldsChannel c ch st) (hst : st ≠ .free)
    (hs : s.speech.stuck.get p = none) (ho : s.othersOn p ⟨postSegment c.post, ch⟩ = 0) :
    freeCallChannel r s = .ok () (s.channelFreed r c p ch) := by
  obtain ⟨hch, hentry⟩ := hc
  have hclose := closeConnections_closedTo (List.finRange 16) s hs fun q hq => connections_ne_of_othersOn ho hq
  rw [if_pos (List.mem_finRange p)] at hclose
  obtain ⟨sp, hsp⟩ := closedTo_frame s p ⟨postSegment c.post, ch⟩
  have hr' : ((s.closedTo p ⟨postSegment c.post, ch⟩).setChannel (postSegment c.post) ch .freed).call r = some c := by
    rw [hsp]; exact hr
  have hheld : ¬ (st = .free ∨ some c.number ≠ some c.number) := by simp [hst]
  unfold freeCallChannel
  rw [withCall_ok s r c _ hr hg]
  simp only [hch, Op.bind_apply, readChannel_ok s _ (by rw [hentry]), hentry, if_neg hheld, hclose, Op.modify_apply,
    State.modifyCall, hr', State.channelFreed]

theorem channelFreed_frame (s : State) (r : Fin 64) (c : Call) (p : Fin 16) (ch : Fin 4) :
    ∃ sp l, s.channelFreed r c p ch = { s with
      speech := sp, reports := { s.reports with list := l }, dispatchDue := true
      calls := { s.calls with records := put s.calls.records r (some { c with channel := none, corrupt := false }) } } := by
  obtain ⟨sp, hsp⟩ := closedTo_frame s p ⟨postSegment c.post, ch⟩
  rw [State.channelFreed, hsp]
  exact ⟨_, _, rfl⟩

theorem channelFreed_channel (s : State) (r : Fin 64) (c : Call) (p : Fin 16) (ch : Fin 4) :
    (s.channelFreed r c p ch).channel (channelIndex (postSegment c.post) ch) = Channel.freed :=
  State.setChannel_self _ _ _ _

theorem channelFreed_touches (s : State) (r : Fin 64) (c : Call) (p : Fin 16) (ch : Fin 4) :
    s.TouchesOnly (s.channelFreed r c p ch) r p c.post (channelIndex (postSegment c.post) ch) :=
  (((closedTo_touches r _ _ s p _).trans (touchesOnly_setChannel r p _ _ ch _ _)).trans
    (touchesOnly_setCall r p _ _ _ _)).trans (touchesOnly_wantDispatch r p _ _ _)

theorem channelFreed_disconnected {s : State} {r : Fin 64} {c : Call} {p : Fin 16} {ch : Fin 4}
    (h : s.speech.connections.get p = some ⟨postSegment c.post, ch⟩) (hs : s.speech.stuck.get p = none) :
    (s.channelFreed r c p ch).Connected p none := by
  rw [State.channelFreed, closedTo_of_eq h]
  exact ⟨State.setConnection_self .., setConnection_crosspoint p none s hs⟩

/-! ### The only party of an ended call (R139, R141, R148) -/

/-- The position that the end of its call leaves: FREE where it was ringing, wrapped up where it was in speech. -/
def State.partyFreed (s : State) (c : Call) (p : Fin 16) : Position :=
  if c.state = .ringing then { (s.position p).idle .free with freeSince := s.time } else s.wrappedUp (s.position p)

theorem toWrapup_eq_wrappedUp (s : State) (x : Position) : x.toWrapup s.time s.wrapTicks = s.wrappedUp x := rfl

theorem wrappedUp_corrupt (s : State) (x : Position) : (s.wrappedUp x).corrupt = x.corrupt := by
  unfold State.wrappedUp
  split <;> rfl

theorem partyFreed_corrupt (s : State) (c : Call) (p : Fin 16) : (s.partyFreed c p).corrupt = (s.position p).corrupt := by
  unfold State.partyFreed
  split
  · rfl
  · exact wrappedUp_corrupt s _

theorem wrapupPosition_ok (p : Fin 16) (s : State) (h : (s.position p).corrupt = false) :
    wrapupPosition p s = .ok () (s.placePosition p (s.wrappedUp (s.position p))) := by
  simp [wrapupPosition, readPosition_ok s p h, toWrapup_eq_wrappedUp]

theorem freePosition_ok (p : Fin 16) (s : State) (h : (s.position p).corrupt = false) :
    freePosition p s = .ok () (s.placePosition p { (s.position p).idle .free with freeSince := s.time }) := by
  simp only [freePosition, Op.bind_apply, readPosition_ok s p h, Op.modify_apply]
  rfl

/-- A call that a position is in speech with, or is calling back. -/
def CallState.hasParty (st : CallState) : Prop :=
  st = .connecting ∨ st = .active ∨ st = .retrieving ∨ st = .ringing

theorem endPositions_onlyParty {c : Call} {p : Fin 16} (cause : EndCause) (s : State) (hst : c.state.hasParty)
    (hps : c.parties = [p]) (h : (s.position p).corrupt = false) :
    endPositions c cause s = .ok () (s.placePosition p (s.partyFreed c p)) := by
  have hwrap := wrapupPosition_ok p s h
  have hfree := freePosition_ok p s h
  rcases hst with e | e | e | e <;> simp [endPositions, e, hps, State.partyFreed, hwrap, hfree]

/-! ### The end of a call by its only party (R99, R100) -/

/-- What the end of a call with a RELEASE leaves of its record, its post and its incident, once its channel is freed and its
positions have been seen to. -/
structure State.ClosesRecord (v w : State) (r : Fin 64) (c : Call) (cause : EndCause) : Prop where
  frame : ∃ ps ls k l, w = { v with
    posts := ps, lines := ls, cluster := k, reports := { v.reports with list := l }
    calls := { v.calls with records := put v.calls.records r (some (c.endedBy cause)) } }
  post : w.post c.post = v.postReleased c
  reports : v.KeepsReports w
  touches : ∀ p k, v.TouchesOnly w r p c.post k

/-- The record as the ending step first writes it. -/
def Call.ending (c : Call) (cause : EndCause) : Call := { c with state := .ended, endCause := some cause, corrupt := false }

theorem ending_endedBy {c : Call} (cause : EndCause) (h : c.corrupt = false) :
    { c.ending cause with channel := none, parties := [], holder := none, corrupt := false } = c.endedBy cause := by
  simp [Call.ending, Call.endedBy, h]

/-- The ending step of a call that is not QUEUED, at a post of side NEAR and with a cause that pends a RELEASE: what the
channel map and the positions do, then its record, its post and its incident, and last the report (R99, R100). -/
theorem endCall_closes {s t v : State} {r : Fin 64} {c d : Call} {cause : EndCause} (hr : s.call r = some c)
    (hc : c.corrupt = false) (hended : c.state ≠ .ended) (hqueued : c.state ≠ .queued) (hch : c.channel.isSome = true)
    (hrel : ∀ x, cause.releases c.state x = true)
    (hfree : freeCallChannel r (s.setCall r (c.ending cause)) = .ok () t)
    (hpos : endPositions c cause t = .ok () v) (hd : v.call r = some d)
    (hdc : { d with parties := [], holder := none, corrupt := false } = c.endedBy cause)
    (hp : (v.post c.post).corrupt = false) (hnear : (v.post c.post).side = .near)
    (hi : ∀ k x, v.incident k = some x → x.corrupt = false) :
    ∃ w, endCall r cause s = .ok () (w.reportCall r) ∧ v.ClosesRecord w r c cause := by
  obtain ⟨v', hv'⟩ : ∃ v', v' = v.setCall r { d with parties := [], holder := none } := ⟨_, rfl⟩
  have hmod : v.modifyCall r (fun c => { c with parties := [], holder := none }) = v' := by
    simp only [State.modifyCall, hd, hv']
  have hrec : v' = { v with calls := { v.calls with records := put v.calls.records r (some (c.endedBy cause)) } } := by
    rw [← hdc]; exact hv'
  have hread := readPost_ok v' c.post (by rw [hrec]; exact hp)
  have hfar : ¬ ((c.state = .connecting ∨ c.state = .active ∨ c.state = .retrieving) ∧ (v'.post c.post).side = .far) := by
    have hside : (v'.post c.post).side = .near := by rw [hrec]; exact hnear
    simp [hside]
  obtain ⟨x, hpend, hx, hxp⟩ := release_post c v' (by rw [hrec]; exact hp)
  obtain ⟨ps, ls, l, hxf⟩ := hx.frame
  obtain ⟨w, hmem, hw⟩ := memberEnded_sound c x (by rw [hxf, hrec]; exact hi)
  obtain ⟨k, l', hwf⟩ := hw.1
  refine ⟨w, ?ends, ⟨ps, ls, k, l', by rw [hwf, hxf, hrec]⟩, ?post, ?reports, fun p k => ?touches⟩
  case ends =>
    have hset : s.setCall r { c with state := .ended, endCause := some cause } = s.setCall r (c.ending cause) := rfl
    unfold endCall
    rw [withCall_ok s r c _ hr hc, if_neg hended]
    simp only [hch, if_true, Op.bind_apply, Op.modify_apply, if_neg hqueued, hset, hfree, hpos, hmod, hread, hrel, hpend,
      hmem, if_neg hfar]
  case post => rw [hwf]; exact hxp.trans (by rw [hrec]; rfl)
  case reports =>
    have hkeeps : v.KeepsReports v' := by rw [hrec]; exact .refl v
    exact hkeeps.trans (hx.reports.trans hw.2)
  case touches =>
    have hset := touchesOnly_setCall r p c.post k { d with parties := [], holder := none } v
    rw [← hv'] at hset
    exact (hset.trans (hx.touchesOnly r p k)).trans (hw.touchesOnly r p k)

/-- The state once an ended call has its cause and its channel is freed, with one position on it at most. -/
def State.endingFreed (s : State) (r : Fin 64) (c : Call) (cause : EndCause) (p : Fin 16) (ch : Fin 4) : State :=
  (s.setCall r (c.ending cause)).channelFreed r (c.ending cause) p ch

theorem endingFreed_frame (s : State) (r : Fin 64) (c : Call) (cause : EndCause) (p : Fin 16) (ch : Fin 4) :
    ∃ sp l, s.endingFreed r c cause p ch = { s with
      speech := sp, reports := { s.reports with list := l }, dispatchDue := true
      calls := { s.calls with records := put s.calls.records r (some { c.ending cause with channel := none }) } } := by
  obtain ⟨sp, l, hf⟩ := channelFreed_frame (s.setCall r (c.ending cause)) r (c.ending cause) p ch
  refine ⟨sp, l, hf.trans ?_⟩
  simp [State.setCall, Call.ending]

/-- The state once the channel and the only party of an ended call have been seen to. -/
def State.partyEnded (s : State) (r : Fin 64) (c : Call) (cause : EndCause) (p : Fin 16) (ch : Fin 4) : State :=
  (s.endingFreed r c cause p ch).placePosition p (s.partyFreed c p)

theorem partyEnded_frame (s : State) (r : Fin 64) (c : Call) (cause : EndCause) (p : Fin 16) (ch : Fin 4) :
    ∃ ps sp l d, s.partyEnded r c cause p ch = { s with
      positions := ps, speech := sp, reports := { s.reports with list := l }, dispatchDue := d
      calls := { s.calls with records := put s.calls.records r (some { c.ending cause with channel := none }) } } := by
  obtain ⟨sp, l, hf⟩ := endingFreed_frame s r c cause p ch
  obtain ⟨ps, l', d, hp⟩ := placePosition_frame p (s.partyFreed c p) (s.endingFreed r c cause p ch)
  exact ⟨ps, sp, l', d, hp.trans (by rw [hf])⟩

theorem partyEnded_position {s : State} (r : Fin 64) (c : Call) (cause : EndCause) {p : Fin 16} (ch : Fin 4)
    (h : (s.position p).corrupt = false) : (s.partyEnded r c cause p ch).position p = s.partyFreed c p := by
  rw [State.partyEnded, State.placePosition_self]
  exact position_checked ((partyFreed_corrupt s c p).trans h)

theorem partyEnded_channel (s : State) (r : Fin 64) (c : Call) (cause : EndCause) (p : Fin 16) (ch : Fin 4) :
    (s.partyEnded r c cause p ch).channel (channelIndex (postSegment c.post) ch) = Channel.freed := by
  rw [State.partyEnded, State.channel, State.placePosition_speech]
  exact channelFreed_channel _ r (c.ending cause) p ch

theorem partyEnded_disconnected {s : State} (r : Fin 64) {c : Call} (cause : EndCause) {p : Fin 16} {ch : Fin 4}
    (h : s.speech.connections.get p = some ⟨postSegment c.post, ch⟩) (hs : s.speech.stuck.get p = none) :
    (s.partyEnded r c cause p ch).Connected p none := by
  rw [State.partyEnded, State.Connected, State.placePosition_speech]
  exact channelFreed_disconnected (s := s.setCall r (c.ending cause)) (c := c.ending cause) h hs

theorem partyEnded_touches (s : State) (r : Fin 64) (c : Call) (cause : EndCause) (p : Fin 16) (ch : Fin 4) :
    s.TouchesOnly (s.partyEnded r c cause p ch) r p c.post (channelIndex (postSegment c.post) ch) :=
  ((touchesOnly_setCall r p _ _ _ s).trans (channelFreed_touches _ r (c.ending cause) p ch)).trans
    (touchesOnly_placePosition r p _ _ _ _)

/-- What the end of a call by its only party leaves: the record, the position, the channel and the post (R99, R139, R153). -/
structure State.EndsParty (s u : State) (r : Fin 64) (c : Call) (p : Fin 16) (ch : Fin 4) (cause : EndCause) : Prop where
  result : u.commandResult = s.commandResult
  call : u.call r = some (c.endedBy cause)
  position : u.position p = s.partyFreed c p
  connected : s.speech.connections.get p = some ⟨postSegment c.post, ch⟩ → u.Connected p none
  channel : u.channel (channelIndex (postSegment c.post) ch) = Channel.freed
  post : u.post c.post = s.postReleased c
  reportedCall : u.Reported (.call r)
  reportedPosition : u.Reported (.position p)
  queue : u.calls.queue = s.calls.queue
  overflow : u.calls.overflow = s.calls.overflow
  touches : s.TouchesOnly u r p c.post (channelIndex (postSegment c.post) ch)

theorem endCall_onlyParty {s : State} {r : Fin 64} {c : Call} {p : Fin 16} {ch : Fin 4} {st : ChannelState}
    {cause : EndCause} (h : s.Sound) (hr : s.call r = some c) (hst : c.state.hasParty) (hps : c.parties = [p])
    (hch : s.HoldsChannel c ch st) (hfree : st ≠ .free) (ho : s.othersOn p ⟨postSegment c.post, ch⟩ = 0)
    (hnear : (s.post c.post).side = .near) (hrel : ∀ x, cause.releases c.state x = true) :
    ∃ u, endCall r cause s = .ok () u ∧ s.EndsParty u r c p ch cause := by
  have hc := h.call_checked hr
  have hended : c.state ≠ .ended ∧ c.state ≠ .queued := by rcases hst with e | e | e | e <;> simp [e]
  have hfreed : freeCallChannel r (s.setCall r (c.ending cause)) = .ok () (s.endingFreed r c cause p ch) :=
    freeCallChannel_channelFreed (State.setCall_self r _ s) rfl hch hfree (h.crosspoints p) ho
  have hpos : endPositions c cause (s.endingFreed r c cause p ch) = .ok () (s.partyEnded r c cause p ch) := by
    obtain ⟨sp, l, hf⟩ := endingFreed_frame s r c cause p ch
    have hparty : (s.endingFreed r c cause p ch).partyFreed c p = s.partyFreed c p := by rw [hf]; rfl
    rw [endPositions_onlyParty cause _ hst hps (by rw [hf]; exact h.positions p), hparty, State.partyEnded]
  obtain ⟨v, hv⟩ : ∃ v, v = s.partyEnded r c cause p ch := ⟨_, rfl⟩
  obtain ⟨ps, sp, l, d, hvf⟩ := partyEnded_frame s r c cause p ch
  rw [← hv] at hvf hpos
  obtain ⟨w, hends, hcloses⟩ := endCall_closes hr hc hended.1 hended.2 (by rw [hch.1]; rfl) hrel hfreed hpos
    (by rw [hvf]; exact put_get_self _ _ _) (ending_endedBy cause hc) (by rw [hvf]; exact h.posts _)
    (by rw [hvf]; exact hnear) (by rw [hvf]; exact fun _ _ => h.incident_checked)
  obtain ⟨ps', ls, k, l', hwf⟩ := hcloses.frame
  refine ⟨w.reportCall r, hends, ?_⟩
  constructor
  case result => rw [hwf, hvf]; rfl
  case call => rw [hwf]; exact put_get_self _ _ _
  case position => rw [hwf, hv]; exact partyEnded_position r c cause ch (h.positions p)
  case connected => intro hconn; rw [hwf, hv]; exact partyEnded_disconnected r cause hconn (h.crosspoints p)
  case channel => rw [hwf, hv]; exact partyEnded_channel s r c cause p ch
  case post => exact hcloses.post.trans (by rw [hvf]; rfl)
  case reportedCall => exact reportBoth_reported _ w
  case reportedPosition =>
    refine keepsReports_report (.call r) true true false w _ (hcloses.reports _ ?_)
    rw [hv]; exact placePosition_reported p _ _
  case queue => rw [hwf, hvf]; rfl
  case overflow => rw [hwf, hvf]; rfl
  case touches =>
    have hsv := partyEnded_touches s r c cause p ch
    rw [← hv] at hsv
    exact (hsv.trans (hcloses.touches p _)).trans (touchesOnly_report r p _ _ _ _ _ _ w)

/-! ### One of two parties leaves (R140, R161) -/

/-- What one of two parties leaves that leaves its call: the call has one party less, and the position is not connected and
wraps up. -/
structure State.LeavesCall (s u : State) (r : Fin 64) (c : Call) (p : Fin 16) : Prop where
  frame : ∃ ps sp l d, u = { s with
    positions := ps, speech := sp, reports := { s.reports with list := l }, dispatchDue := d
    calls := { s.calls with records := put s.calls.records r (some { c with parties := c.parties.erase p }) } }
  position : u.position p = s.wrappedUp (s.position p)
  connected : u.Connected p none
  channels : u.speech.channels = s.speech.channels
  reportedCall : u.Reported (.call r)
  reportedPosition : u.Reported (.position p)
  touches : ∀ i k, s.TouchesOnly u r p i k

theorem partyLeaves_leaves {s : State} {r : Fin 64} {c : Call} {p : Fin 16} (h : s.Sound) (hr : s.call r = some c)
    (hconn : (s.speech.connections.get p).isSome = true) :
    ∃ u, partyLeaves p r s = .ok () u ∧ s.LeavesCall u r c p := by
  have hc := h.call_checked hr
  obtain ⟨t, ht⟩ : ∃ t, t = ((s.setConnection p none).setCall r { c with parties := c.parties.erase p }).reportCall r :=
    ⟨_, rfl⟩
  obtain ⟨u, hu⟩ : ∃ u, u = t.placePosition p (t.wrappedUp (t.position p)) := ⟨_, rfl⟩
  have hwrap : wrapupPosition p t = .ok () u := by
    rw [hu]; exact wrapupPosition_ok p t (by rw [ht]; exact h.positions p)
  have hmod : (s.setConnection p none).modifyCall r (fun c => { c with parties := c.parties.erase p })
      = (s.setConnection p none).setCall r { c with parties := c.parties.erase p } := by
    have hr' : (s.setConnection p none).call r = some c := hr
    simp only [State.modifyCall, hr']
  obtain ⟨ps, l, d, huf⟩ := placePosition_frame p (t.wrappedUp (t.position p)) t
  rw [← hu] at huf
  refine ⟨u, ?leaves, ⟨ps, (s.setConnection p none).speech, l, d, ?frame⟩, ?position, ?connected, ?channels, ?reportedCall,
    ?reportedPosition, fun i k => ?touches⟩
  case leaves =>
    simp only [partyLeaves, Op.bind_apply, disconnectRequest_ok p s hconn (h.crosspoints p), Op.modify_apply, hmod]
    rw [← ht]; exact hwrap
  case frame =>
    have hchecked : { c with parties := c.parties.erase p, corrupt := false } = { c with parties := c.parties.erase p } := by
      rw [hc]
    rw [huf, ht, ← hchecked]; rfl
  case position =>
    rw [hu, State.placePosition_self]
    refine (position_checked ?_).trans (by rw [ht]; rfl)
    rw [wrappedUp_corrupt, ht]; exact h.positions p
  case connected =>
    rw [huf, ht]
    exact ⟨State.setConnection_self .., setConnection_crosspoint p none s (h.crosspoints p)⟩
  case channels => rw [huf, ht]; rfl
  case reportedCall =>
    rw [hu]
    refine placePosition_keepsReports p _ t _ ?_
    rw [ht]; exact reportBoth_reported (.call r) _
  case reportedPosition => rw [hu]; exact placePosition_reported p _ t
  case touches =>
    have hst := ((touchesOnly_setConnection r p i k none s).trans
      (touchesOnly_setCall r p i k { c with parties := c.parties.erase p } _)).trans
        (touchesOnly_report r p i k (.call r) true true false _)
    have htu := touchesOnly_placePosition r p i k (t.wrappedUp (t.position p)) t
    rw [← hu] at htu
    exact State.TouchesOnly.trans (by rw [ht]; exact hst) htu

/-- Of two parties the other is left. -/
theorem parties_erase {c : Call} {p q : Fin 16} (hps : c.parties = [p, q] ∨ c.parties = [q, p]) (hne : p ≠ q) :
    c.parties.erase p = [q] := by
  rcases hps with e | e <;> simp [e, hne.symm]

/-! ### RELEASE and LEAVE as decided (R140, R161) -/

section Decided

variable {s : State} {p : Fin 16} {n : Nat} {r : Fin 64} {c : Call} (h : s.Sound)
include h

theorem leaveCall_notActive (hst : (s.position p).state ≠ .active) :
    leaveCall p s = .ok () { s with commandResult := some .badState } := by
  simp [leaveCall, h.positions p, hst]

theorem releasePosition_badState (hact : (s.position p).state ≠ .active) (hdial : (s.position p).state ≠ .dialling) :
    releasePosition p s = .ok () { s with commandResult := some .badState } := by
  cases hst : (s.position p).state with
  | active => exact absurd hst hact
  | dialling => exact absurd hst hdial
  | closed | free | offered | wrapup => simp [releasePosition, h.positions p, hst]

variable (hcur : (s.position p).current = some n) (hl : s.liveCall n = some (r, c))
include hcur hl

theorem currentRecord_live : currentRecord (s.position p) s = .ok (some (r, c)) s := by
  simp only [currentRecord, hcur, liveRecord_sound h, hl]

theorem releasePosition_dialling (hst : (s.position p).state = .dialling) :
    releasePosition p s = endCall r .clearedByOperator { s with commandResult := some .done } := by
  have hlive := withLive_sound (h.withResult (some .done)) hl fun r _ => endCall r .clearedByOperator
  simp only [releasePosition, releaseDialling, Op.bind_apply, readPosition_ok s p (h.positions p), hst, hcur, answer_apply,
    hlive]

variable (hst : (s.position p).state = .active)
include hst

theorem leaveCall_onlyParty (hps : c.parties.length ≠ 2) :
    leaveCall p s = .ok () { s with commandResult := some .badState } := by
  simp [leaveCall, h.positions p, hst, currentRecord_live h hcur hl, hps]

theorem leaveCall_leaves (hps : c.parties.length = 2) :
    leaveCall p s = partyLeaves p r { s with commandResult := some .done } := by
  simp only [leaveCall, Op.bind_apply, readPosition_ok s p (h.positions p), if_pos hst, currentRecord_live h hcur hl,
    if_pos hps, answer_apply]

theorem releasePosition_leaves (hps : c.parties.length = 2) :
    releasePosition p s = partyLeaves p r { s with commandResult := some .done } := by
  simp only [releasePosition, releaseActive, Op.bind_apply, readPosition_ok s p (h.positions p), hst,
    currentRecord_live h hcur hl, if_pos hps, answer_apply]

theorem releasePosition_ends (hps : c.parties.length ≠ 2) :
    releasePosition p s = endCall r .clearedByOperator { s with commandResult := some .done } := by
  simp only [releasePosition, releaseActive, Op.bind_apply, readPosition_ok s p (h.positions p), hst,
    currentRecord_live h hcur hl, if_neg hps, answer_apply]

end Decided

/-- Settles O46: RELEASE by the only party is the ending step, from ACTIVE as from DIALLING; LEAVE and RELEASE by one of two
parties are one act; the states left over are refused. -/
theorem oneOfTwoPartiesLeaves : Obligations.OneOfTwoPartiesLeaves := by
  intro s w p hrun h hw
  have hasked := h.withResult (some .notRunning)
  have hdone := h.withResult (some .done)
  refine ⟨fun hst => ?notActive, fun hact hdial => ?refused,
    fun n r c ch st hcur hl hps hch ho hnear _ hcase => ?ends, fun n r c hst hcur hl => ⟨fun hlen => ?onlyParty,
      fun q ch hps hne _ hconn i hi => ?leaves⟩⟩
  case notActive => exact exec_leave_run hrun hw (leaveCall_notActive hasked hst)
  case refused => exact exec_release_run hrun hw (releasePosition_badState hasked hact hdial)
  case ends =>
    obtain ⟨hr, -, rfl⟩ := liveCall_eq_some hl
    have hheld : c.state.hasParty := by
      rcases hcase with ⟨-, -, e | e | e, -⟩ | ⟨-, -, e, -⟩ <;> simp [CallState.hasParty, e]
    have hfree : st ≠ .free := by
      rcases hcase with ⟨-, hne, -, -⟩ | ⟨-, e, -, -⟩
      · exact hne
      · simp [e]
    have hruns : releasePosition p { s with commandResult := some .notRunning }
        = endCall r .clearedByOperator { s with commandResult := some .done } := by
      rcases hcase with ⟨hst, -⟩ | ⟨hst, -⟩
      · exact releasePosition_ends hasked hcur hl hst (by simp [hps])
      · exact releasePosition_dialling hasked hcur hl hst
    obtain ⟨u, hu, hends⟩ := endCall_onlyParty (cause := .clearedByOperator) hdone hr hheld hps hch hfree ho hnear
      fun _ => rfl
    refine ⟨u, exec_release_run hrun hw (hruns.trans hu), hends.result, hends.call, hends.position, fun hring => ?_,
      hends.channel, hends.post, hends.reportedCall, hends.reportedPosition, touchesOnly_withResult hends.touches⟩
    rcases hcase with ⟨-, -, -, hconn⟩ | ⟨-, -, e, -⟩
    · exact hends.connected hconn
    · exact absurd e hring
  case onlyParty => exact exec_leave_run hrun hw (leaveCall_onlyParty hasked hcur hl hst hlen)
  case leaves =>
    obtain ⟨hr, -, rfl⟩ := liveCall_eq_some hl
    have hlen : c.parties.length = 2 := by rcases hps with e | e <;> simp [e]
    obtain ⟨u, hu, hleaves⟩ := partyLeaves_leaves hdone hr hconn
    have hexec : exec i s = .next u.followUp := by
      rcases List.mem_pair.mp hi with rfl | rfl
      · exact exec_leave_run hrun hw ((leaveCall_leaves hasked hcur hl hst hlen).trans hu)
      · exact exec_release_run hrun hw ((releasePosition_leaves hasked hcur hl hst hlen).trans hu)
    obtain ⟨ps, sp, l, d, huf⟩ := hleaves.frame
    refine ⟨u, hexec, ?_, ?_, hleaves.position, hleaves.connected, hleaves.channels, hleaves.reportedCall,
      hleaves.reportedPosition, ?_, ?_, ?_, ?_, touchesOnly_withResult (hleaves.touches _ _)⟩
    · rw [huf]
    · rw [huf, ← parties_erase hps hne]; exact put_get_self _ _ _
    · rw [huf]
    · rw [huf]
    · rw [huf]
    · rw [huf]

/-! ### JOIN (R160) -/

section Join

variable {s : State} {q : Fin 16} {n : Nat} {r : Fin 64} {c : Call} (h : s.Sound)
include h

theorem joinCall_gone (hl : s.liveCall n = none) : joinCall (q, n) s = .ok () { s with commandResult := some .gone } := by
  simp [joinCall, liveRecord_sound h, hl]

variable (hl : s.liveCall n = some (r, c))
include hl

theorem joinCall_busy (he : (s.position q).eligible = false) :
    joinCall (q, n) s = .ok () { s with commandResult := some .busy } := by
  simp [joinCall, liveRecord_sound h, hl, h.positions q, he]

variable (he : (s.position q).eligible = true)
include he

theorem joinCall_badState (hst : c.state ≠ .active ∨ c.parties.length = 2) :
    joinCall (q, n) s = .ok () { s with commandResult := some .badState } := by
  simp only [joinCall, Op.bind_apply, liveRecord_sound h, hl, readPosition_ok s q (h.positions q),
    if_neg (not_not_intro he), if_pos hst, answer_apply]

theorem joinCall_joins (hst : c.state = .active) (hps : c.parties.length ≠ 2) :
    joinCall (q, n) s = joinActive q (s.position q) r c s := by
  have hno : ¬ (c.state ≠ .active ∨ c.parties.length = 2) := by tauto
  simp only [joinCall, Op.bind_apply, liveRecord_sound h, hl, readPosition_ok s q (h.positions q),
    if_neg (not_not_intro he), if_neg hno]

end Join

/-- The state once a position has joined a call, but for its connection (R160). -/
def State.partyJoined (s : State) (q : Fin 16) (r : Fin 64) (c : Call) : State :=
  ((s.setCall r { c with parties := c.parties ++ [q] }).reportCall r).setPosition q
    { (s.position q).cleared with state := .active, current := some c.number }

theorem partyJoined_frame (s : State) (q : Fin 16) (r : Fin 64) (c : Call) : ∃ ps l, s.partyJoined q r c = { s with
    positions := ps, reports := { s.reports with list := l }
    calls := { s.calls with
      records := put s.calls.records r (some { c with parties := c.parties ++ [q], corrupt := false }) } } :=
  ⟨_, _, rfl⟩

theorem partyJoined_position {s : State} {q : Fin 16} (r : Fin 64) (c : Call) (h : (s.position q).corrupt = false) :
    (s.partyJoined q r c).position q = { (s.position q).idle .active with current := some c.number } :=
  (State.setPosition_self q _ _).trans (position_checked h)

theorem partyJoined_touches (s : State) (q : Fin 16) (r : Fin 64) (c : Call) (i : Fin 256) (k : Fin 32) :
    s.TouchesOnly (s.partyJoined q r c) r q i k :=
  ((touchesOnly_setCall r q i k _ s).trans (touchesOnly_report r q i k (.call r) true true false _)).trans
    (touchesOnly_setPosition r q i k _ _)

theorem partyJoined_reported (s : State) (q : Fin 16) (r : Fin 64) (c : Call) :
    (s.partyJoined q r c).Reported (.call r) ∧ (s.partyJoined q r c).Reported (.position q) :=
  ⟨keepsReports_report (.position q) true true false _ _ (reportBoth_reported (.call r) _),
    reportBoth_reported (.position q) _⟩

/-- A join ends as a connection of the position to the channel that the call holds. -/
theorem joinActive_connects {s : State} {q : Fin 16} {r : Fin 64} {c : Call} {ch : Fin 4}
    (hch : s.HoldsChannel c ch .inUse) (hnone : s.speech.connections.get q = none)
    (ho : s.othersOn q ⟨postSegment c.post, ch⟩ ≤ 1) (hstuck : s.speech.stuck.get q = none) :
    joinActive q (s.position q) r c s = .ok () ((State.partyJoined { s with commandResult := some .done } q r c).setConnection
      q (some ⟨postSegment c.post, ch⟩)) := by
  obtain ⟨hcall, hentry⟩ := hch
  obtain ⟨t, ht⟩ : ∃ t, t = State.partyJoined { s with commandResult := some .done } q r c := ⟨_, rfl⟩
  obtain ⟨ps, l, htf⟩ := partyJoined_frame { s with commandResult := some .done } q r c
  rw [← ht] at htf
  have hentry' : t.channel (channelIndex (postSegment c.post) ch) =
      { state := .inUse, call := some c.number, corrupt := false } := by rw [htf]; exact hentry
  have hreq := connectRequest_ok q r t { c with parties := c.parties ++ [q], corrupt := false } ch
    (by rw [htf]; exact put_get_self _ _ _) rfl hcall (by rw [hentry']) (by simp [hentry']) (by rw [hentry'])
    (by rw [htf]; exact hnone) (by simp) (by rw [htf]; exact ho) (by rw [htf]; exact hstuck)
  rw [← ht, ← hreq, ht]
  rfl

/-- Settles O51: the first row of the table that applies refuses the position; where none does it is the call's second party,
and its connection is made. -/
theorem joinAddsSecondParty : Obligations.JoinAddsSecondParty := by
  intro s w v q n hrun h hw hv
  have hasked := h.withResult (some .notRunning)
  refine ⟨fun hl => ?gone, fun r c hl => ⟨fun he => ?busy, fun he hno => ?badState,
    fun p ch he hst hps hch hnone ho => ?joins⟩⟩
  case gone => exact exec_join_run hrun hw hv (joinCall_gone hasked hl)
  case busy => exact exec_join_run hrun hw hv (joinCall_busy hasked hl he)
  case badState => exact exec_join_run hrun hw hv (joinCall_badState hasked hl he hno)
  case joins =>
    obtain ⟨hr, -, rfl⟩ := liveCall_eq_some hl
    have hc := h.call_checked hr
    have hruns := (joinCall_joins hasked hl he hst (by simp [hps])).trans
      (joinActive_connects (q := q) (r := r) hch hnone ho (h.crosspoints q))
    obtain ⟨t, ht⟩ : ∃ t, t = State.partyJoined { s with commandResult := some .done } q r c := ⟨_, rfl⟩
    obtain ⟨ps, l, htf⟩ := partyJoined_frame { s with commandResult := some .done } q r c
    obtain ⟨hrepCall, hrepPosition⟩ := partyJoined_reported { s with commandResult := some .done } q r c
    have htouch : s.TouchesOnly t r q c.post (channelIndex (postSegment c.post) ch) := by
      rw [ht]; exact touchesOnly_withResult (partyJoined_touches _ q r c _ _)
    rw [← ht] at htf hrepCall hrepPosition
    refine ⟨t.setConnection q (some ⟨postSegment c.post, ch⟩), ?_, ?_, ?_, ?_, ⟨State.setConnection_self .., ?_⟩, ?_,
      hrepCall, hrepPosition, ?_, ?_, ?_, ?_, htouch.trans (touchesOnly_setConnection r q _ _ _ t)⟩
    · rw [ht]; exact exec_join_run hrun hw hv hruns
    · rw [htf]; rfl
    · rw [htf]; exact (put_get_self _ _ _).trans (by simp [hps, hc])
    · rw [ht]; exact partyJoined_position r c (h.positions q)
    · exact setConnection_crosspoint q _ t (by rw [htf]; exact h.crosspoints q)
    · rw [htf]; rfl
    · rw [htf]; rfl
    · rw [htf]; rfl
    · rw [htf]; rfl
    · rw [htf]; rfl

end Sys2Proof.Machine
end

section
/-! SUPPORT. What every event keeps: the waiting commands, the time base, the bytes of memory, the levels of the inputs, and the
form of the write-back queue, the report list and the deferral list. One lemma for each update of the state and each
operation, in the order of their definitions. -/

namespace Sys2Proof.Machine

/-- An event that writes no byte of memory and reads its inputs only: what it keeps. -/
structure State.Kept (s t : State) : Prop where
  pending : t.pending = s.pending
  time : t.time = s.time
  mem : t.mem = s.mem
  inputs : ∀ l, (t.segmentEnd l).overCurrent = (s.segmentEnd l).overCurrent
  held : s.path.heldAccesses = [] → t.path.heldAccesses = []
  queue : QueueWf s.path.queue → QueueWf t.path.queue
  reports : ReportsWf s.reports.list → ReportsWf t.reports.list
  deferrals : DeferralsWf s.calls.deferrals → DeferralsWf t.calls.deferrals

namespace State.Kept

theorem refl (s : State) : s.Kept s := ⟨rfl, rfl, rfl, fun _ => rfl, id, id, id, id⟩

theorem trans {s t u : State} (h : s.Kept t) (k : t.Kept u) : s.Kept u where
  pending := k.pending.trans h.pending
  time := k.time.trans h.time
  mem := k.mem.trans h.mem
  inputs l := (k.inputs l).trans (h.inputs l)
  held := k.held ∘ h.held
  queue := k.queue ∘ h.queue
  reports := k.reports ∘ h.reports
  deferrals := k.deferrals ∘ h.deferrals

theorem trans_of (s t u : State) (h : s.Kept t) (k : t.Kept u) : s.Kept u := h.trans k

end State.Kept

/-! ### How an operation keeps -/

theorem kept_pure {α : Type} (a : α) : (pure a : Op α).Keeps State.Kept := Op.keeps_pure .refl a

theorem kept_get : (get : Op State).Keeps State.Kept := Op.keeps_get .refl

theorem kept_throw {α : Type} (e : ClassB) : (throw e : Op α).Keeps State.Kept := Op.keeps_throw .refl e

theorem kept_modify {f : State → State} (h : ∀ s : State, s.Kept (f s)) : (modify f : Op PUnit).Keeps State.Kept :=
  Op.keeps_modify f h

theorem kept_bind {α β : Type} {x : Op α} {f : α → Op β} (hx : x.Keeps State.Kept) (hf : ∀ a, (f a).Keeps State.Kept) :
    (x >>= f).Keeps State.Kept := Op.keeps_bind State.Kept.trans_of x f hx hf

theorem kept_ite {α : Type} {p : Prop} [Decidable p] {x y : Op α} (hx : x.Keeps State.Kept) (hy : y.Keeps State.Kept) :
    (if p then x else y).Keeps State.Kept := Op.keeps_ite p x y hx hy

/-- An operation carried out under a condition, and what follows it either way. -/
theorem kept_when {β : Type} {p : Prop} [Decidable p] {x : Op Unit} {f : Unit → Op β} (hx : x.Keeps State.Kept)
    (hf : ∀ a, (f a).Keeps State.Kept) : (if p then x >>= f else f ()).Keeps State.Kept :=
  kept_ite (kept_bind hx hf) (hf ())

theorem kept_unless {β : Type} {p : Prop} [Decidable p] {x : Op Unit} {f : Unit → Op β} (hx : x.Keeps State.Kept)
    (hf : ∀ a, (f a).Keeps State.Kept) : (if p then f () else x >>= f).Keeps State.Kept :=
  kept_ite (hf ()) (kept_bind hx hf)

theorem kept_forM {α : Type} {f : α → Op PUnit} (h : ∀ a, (f a).Keeps State.Kept) (l : List α) :
    (l.forM f).Keeps State.Kept := Op.keeps_forM State.Kept.refl State.Kept.trans_of f h l

theorem kept_foldl {α : Type} {f : State → α → State} (h : ∀ s a, State.Kept s (f s a)) (l : List α) (s : State) :
    s.Kept (l.foldl f s) := keeps_foldl State.Kept.refl State.Kept.trans_of f h l s

theorem kept_set {s t : State} (h : s.Kept t) : s.Kept ((set t : Op PUnit).leaves s) := h

/-- A state written that was computed from the one read, and what follows it. -/
theorem kept_set_bind {β : Type} {s t : State} {f : PUnit → Op β} (h : s.Kept t) (hf : (f ⟨⟩).Keeps State.Kept) :
    s.Kept ((set t >>= f : Op β).leaves s) := h.trans (hf t)

/-- An operation that only reads, and what is done with its answer in the same state. -/
theorem kept_read_bind {α β : Type} {x : Op α} {f : α → Op β} {s : State} (hx : x.leaves s = s)
    (hf : ∀ a, s.Kept ((f a).leaves s)) : s.Kept ((x >>= f).leaves s) := by
  unfold Op.leaves at *
  rw [Op.bind_apply]
  cases hs : x s with
  | ok a t =>
    rw [hs] at hx
    have ht : t = s := hx
    rw [ht]
    exact hf a
  | error e t =>
    rw [hs] at hx
    have ht : t = s := hx
    rw [ht]
    exact .refl s

theorem readPost_leaves (i : Fin 256) (s : State) : (readPost i).leaves s = s := by
  by_cases h : (s.post i).corrupt <;> simp [Op.leaves, readPost, h]

theorem readPosition_leaves (p : Fin 16) (s : State) : (readPosition p).leaves s = s := by
  by_cases h : (s.position p).corrupt <;> simp [Op.leaves, readPosition, h]

theorem readIncident_leaves (k : Fin 16) (s : State) : (readIncident k).leaves s = s := by
  cases h : s.incident k with
  | none => simp [Op.leaves, h]
  | some x => by_cases hx : x.corrupt <;> simp [Op.leaves, readIncident, h, hx]

/-- An operation that leaves the state as it is keeps it. -/
theorem kept_of_leaves {α : Type} {x : Op α} (h : ∀ s, x.leaves s = s) : x.Keeps State.Kept := fun s => by
  rw [h]
  exact .refl s

theorem readPost_kept (i : Fin 256) : (readPost i).Keeps State.Kept := kept_of_leaves (readPost_leaves i)

theorem readPosition_kept (p : Fin 16) : (readPosition p).Keeps State.Kept := kept_of_leaves (readPosition_leaves p)

theorem readCall_kept (r : Fin 64) : (readCall r).Keeps State.Kept := kept_of_leaves (readCall_leaves r)

theorem readIncident_kept (k : Fin 16) : (readIncident k).Keeps State.Kept := kept_of_leaves (readIncident_leaves k)

theorem readChannel_kept (c : Fin 32) : (readChannel c).Keeps State.Kept := kept_of_leaves (readChannel_leaves c)

theorem withCall_kept {r : Fin 64} {f : Call → Op Unit} (h : ∀ c, (f c).Keeps State.Kept) : (withCall r f).Keeps State.Kept :=
  kept_bind (readCall_kept r) fun o => by
    cases o with
    | none => exact kept_pure _
    | some c => exact h c

/-! ### Updates of the state -/

section Updates

variable (s : State)

/-- An update of what the invariants do not speak of. -/
theorem kept_of_eq {t : State} (hp : t.pending = s.pending) (ht : t.time = s.time) (hm : t.mem = s.mem) (he : t.ends = s.ends)
    (hq : t.path.queue = s.path.queue) (hr : t.reports.list = s.reports.list) (hd : t.calls.deferrals = s.calls.deferrals)
    (hx : t.path.heldAccesses = s.path.heldAccesses) : s.Kept t where
  pending := hp
  time := ht
  mem := hm
  inputs l := by simp only [State.segmentEnd, he]
  held h := hx.trans h
  queue h := hq ▸ h
  reports h := hr ▸ h
  deferrals h := hd ▸ h

theorem report_kept (o : Obj) (b e f : Bool) : s.Kept (s.report o b e f) :=
  ⟨rfl, rfl, rfl, fun _ => rfl, id, id, report_wf o b e f s, id⟩

theorem reportBoth_kept (o : Obj) : s.Kept (s.reportBoth o) := report_kept s o _ _ _

theorem reportCounts_kept : s.Kept s.reportCounts := report_kept s _ _ _ _

theorem reportEngine_kept : s.Kept s.reportEngine :=
  (reportBoth_kept s _).trans (kept_of_eq _ rfl rfl rfl rfl rfl rfl rfl rfl)

theorem engineWrites_kept (es : List QueueEntry) : s.Kept (s.engineWrites es) :=
  ⟨rfl, rfl, rfl, fun _ => rfl, id, engineWrites_wf es s, id, id⟩

theorem writeStateWord_kept : s.Kept s.writeStateWord := engineWrites_kept s _

theorem releaseSlot_wf (p : MemoryPath) (k : Fin 64) (h : QueueWf p.queue) : QueueWf (p.releaseSlot k).queue := by
  unfold MemoryPath.releaseSlot
  dsimp only
  split
  · exact enqueue_wf _ h ‹_›
  · exact h

theorem flushTaker_queue (h : QueueWf s.path.queue) : QueueWf s.flushTaker.path.queue := by
  unfold State.flushTaker
  split
  · exact h
  · split
    · exact h
    · exact releaseSlot_wf _ _ h
    · split
      · exact h
      · dsimp only
        split
        · exact releaseSlot_wf _ _ (enqueue_wf _ h ‹_›)
        · exact h

theorem releaseSlot_heldAccesses (p : MemoryPath) (k : Fin 64) : (p.releaseSlot k).heldAccesses = p.heldAccesses := by
  unfold MemoryPath.releaseSlot
  dsimp only
  split <;> rfl

theorem flushTaker_heldAccesses : s.flushTaker.path.heldAccesses = s.path.heldAccesses := by
  unfold State.flushTaker
  split
  · rfl
  · split
    · rfl
    · exact releaseSlot_heldAccesses _ _
    · split
      · rfl
      · dsimp only
        split
        · exact releaseSlot_heldAccesses _ _
        · rfl

theorem flushTaker_kept : s.Kept s.flushTaker where
  pending := s.flushTaker_pending
  time := s.flushTaker_time
  mem := s.flushTaker_mem
  inputs l := by simp only [State.segmentEnd, State.flushTaker_ends]
  held h := (flushTaker_heldAccesses s).trans h
  queue := flushTaker_queue s
  reports h := by rwa [State.flushTaker_reports]
  deferrals h := by rwa [State.flushTaker_calls]

theorem recordFault_kept (k : Fin 9) (q : FaultKind) (n : Nat) (d : BitVec 32) : s.Kept (s.recordFault k q n d) := by
  unfold State.recordFault
  have hs := (kept_of_eq s (t := { s with reports := { s.reports with
    slots := put s.reports.slots k (some (FaultRecord.next (s.reports.slots.get k) q n d s.time)) } }) rfl rfl rfl rfl rfl rfl
    rfl rfl).trans (report_kept _ (slotOwner k) false false true)
  dsimp only
  split
  · exact hs.trans (reportCounts_kept _)
  · exact hs

theorem setEngineState_kept (st : EngineState) : s.Kept (s.setEngineState st) :=
  ((kept_of_eq s (t := { s with engine := { s.engine with state := st } }) rfl rfl rfl rfl rfl rfl rfl rfl).trans
    (writeStateWord_kept _)).trans (reportEngine_kept _)

theorem setClamped_kept (b : Bool) : s.Kept (s.setClamped b) := by
  unfold State.setClamped
  split
  · exact .refl s
  · exact ((kept_of_eq s (t := { s with engine := { s.engine with clamped := b } }) rfl rfl rfl rfl rfl rfl rfl rfl).trans
      (writeStateWord_kept _)).trans (reportEngine_kept _)

theorem updateLine_kept (l : LineId) (f : LineSide → LineSide) : s.Kept (s.updateLine l f) :=
  kept_of_eq s rfl rfl rfl rfl rfl rfl rfl rfl

theorem updateEnd_segmentEnd (l k : LineId) (f : LineEnd → LineEnd) :
    (s.updateEnd l f).segmentEnd k = if lineIndex k = lineIndex l then f (s.segmentEnd l) else s.segmentEnd k := by
  simp only [State.segmentEnd, State.updateEnd, put_get]

/-- A change of a segment end that leaves its input as it is. -/
theorem updateEnd_kept (l : LineId) (f : LineEnd → LineEnd) (h : ∀ e, (f e).overCurrent = e.overCurrent) :
    s.Kept (s.updateEnd l f) where
  pending := rfl
  time := rfl
  mem := rfl
  inputs k := by
    rw [updateEnd_segmentEnd]
    split
    next hk => simp only [h, State.segmentEnd, hk]
    next => rfl
  held := id
  queue := id
  reports := id
  deferrals := id

theorem syncPolledSide_kept (i : Fin 256) (side : Side) : s.Kept (s.syncPolledSide i side) := by
  unfold State.syncPolledSide
  extract_lets l t t'
  split
  · exact .refl s
  · exact updateLine_kept s _ _

theorem syncPolled_kept (i : Fin 256) : s.Kept (s.syncPolled i) :=
  (syncPolledSide_kept s i .near).trans (syncPolledSide_kept _ i .far)

theorem rejoinPolled_kept (i : Fin 256) : s.Kept (s.rejoinPolled i) := by
  unfold State.rejoinPolled
  split
  · exact updateLine_kept s _ _
  · exact .refl s

theorem syncAllPolled_kept : s.Kept s.syncAllPolled := kept_foldl (fun s i => syncPolled_kept s i) _ s

theorem setPost_kept (i : Fin 256) (p : Post) : s.Kept (s.setPost i p) := by
  unfold State.setPost
  have hs := kept_of_eq s (t := { s with posts := put s.posts i { p with corrupt := false } }) rfl rfl rfl rfl rfl rfl rfl rfl
  dsimp only
  split
  · exact (hs.trans (reportBoth_kept _ _)).trans (syncPolled_kept _ i)
  · exact hs.trans (syncPolled_kept _ i)

theorem setCall_kept (r : Fin 64) (c : Call) : s.Kept (s.setCall r c) := kept_of_eq s rfl rfl rfl rfl rfl rfl rfl rfl

theorem reportCall_kept (r : Fin 64) : s.Kept (s.reportCall r) := reportBoth_kept s _

theorem setIncident_kept (k : Fin 16) (x : Incident) : s.Kept (s.setIncident k x) :=
  kept_of_eq s rfl rfl rfl rfl rfl rfl rfl rfl

theorem reportIncident_kept (k : Fin 16) : s.Kept (s.reportIncident k) := reportBoth_kept s _

/-- An incident record written and reported. -/
theorem incidentWritten_kept (k : Fin 16) (x : Incident) : s.Kept ((s.setIncident k x).reportIncident k) :=
  (setIncident_kept s k x).trans (reportIncident_kept _ k)

/-- A call record written and reported. -/
theorem callWritten_kept (r : Fin 64) (c : Call) : s.Kept ((s.setCall r c).reportCall r) :=
  (setCall_kept s r c).trans (reportCall_kept _ r)

theorem setPositionTimers_kept (p : Fin 16) (x : Position) : s.Kept (s.setPositionTimers p x) :=
  kept_of_eq s rfl rfl rfl rfl rfl rfl rfl rfl

theorem setPosition_kept (p : Fin 16) (x : Position) : s.Kept (s.setPosition p x) :=
  (setPositionTimers_kept s p x).trans (reportBoth_kept _ _)

theorem setSegmentTimers_kept (g : Fin 8) (x : Segment) : s.Kept (s.setSegmentTimers g x) :=
  kept_of_eq s rfl rfl rfl rfl rfl rfl rfl rfl

theorem setSegment_kept (g : Fin 8) (x : Segment) : s.Kept (s.setSegment g x) := by
  unfold State.setSegment
  split
  · exact (setSegmentTimers_kept s g x).trans (reportBoth_kept _ _)
  · exact setSegmentTimers_kept s g x

theorem wantDispatch_kept : s.Kept s.wantDispatch := kept_of_eq s rfl rfl rfl rfl rfl rfl rfl rfl

theorem syncService_kept (i : Fin 256) : s.Kept (s.syncService i) := updateLine_kept s _ _

theorem setCommands_kept (i : Fin 256) (l : List PendingCommand) : s.Kept (s.setCommands i l) :=
  (setPost_kept s i _).trans (syncService_kept _ i)

theorem loseTest_kept (i : Fin 256) (lost : Bool) : s.Kept (s.loseTest i lost) := by
  unfold State.loseTest
  dsimp only
  split
  · split
    · exact reportBoth_kept s _
    · exact setPost_kept s i _
  · exact .refl s

theorem emptyCommands_kept (i : Fin 256) (cancels : Bool) : s.Kept (s.emptyCommands i cancels) := by
  unfold State.emptyCommands
  dsimp only
  split
  · exact .refl s
  · exact (loseTest_kept s i _).trans (setCommands_kept _ i [])

theorem setSide_kept (i : Fin 256) (side : Side) : s.Kept (s.setSide i side) := by
  unfold State.setSide
  dsimp only
  split
  · exact .refl s
  · have hs := (updateLine_kept s (s.lineOf i) fun x => { x with service := x.service.erase (postDrop i) }).trans
      (setPost_kept _ i { s.post i with side := side })
    split
    · exact hs.trans (updateLine_kept _ _ _)
    · exact hs

theorem modifyCall_kept (r : Fin 64) (f : Call → Call) : s.Kept (s.modifyCall r f) := by
  unfold State.modifyCall
  split
  · exact .refl s
  · exact setCall_kept s r _

theorem setChannel_kept (g : Fin 8) (ch : Fin 4) (x : Channel) : s.Kept (s.setChannel g ch x) := by
  refine .trans ?_ (report_kept _ _ _ _ _)
  exact kept_of_eq s rfl rfl rfl rfl rfl rfl rfl rfl

theorem setConnection_kept (p : Fin 16) (x : Option Connection) : s.Kept (s.setConnection p x) :=
  kept_of_eq s rfl rfl rfl rfl rfl rfl rfl rfl

theorem createIncident_kept (way : Carriageway) (c : Nat) (lead : Lead) : s.Kept (s.createIncident way c lead).2 := by
  unfold State.createIncident
  split
  · exact .refl s
  · refine .trans (.trans ?_ (incidentWritten_kept _ _ _)) (reportCounts_kept _)
    exact kept_of_eq s rfl rfl rfl rfl rfl rfl rfl rfl

theorem watchEnd_kept (l : LineId) : s.Kept (s.watchEnd l) := updateEnd_kept s l _ fun _ => by split <;> rfl

theorem unwatchEnd_kept (l : LineId) : s.Kept (s.unwatchEnd l) := updateEnd_kept s l _ fun _ => rfl

theorem withdrawProbes_kept (g : Fin 8) : s.Kept (s.withdrawProbes g) := by
  unfold State.withdrawProbes
  extract_lets f
  exact (updateLine_kept s (nearOf g) f).trans (updateLine_kept _ (farOf g) f)

theorem setBreak_kept (g : Fin 8) (b : Break) : s.Kept (s.setBreak g b) := setSegment_kept s g _

theorem startFarSweep_kept (g : Fin 8) (drops : List (Fin 32)) : s.Kept (s.startFarSweep g drops) :=
  (updateLine_kept s _ _).trans (watchEnd_kept _ _)

theorem refeedNear_kept (g : Fin 8) : s.Kept (s.refeedNear g) :=
  (updateEnd_kept s _ _ fun e => by split <;> rfl).trans (watchEnd_kept _ _)

theorem placePosition_kept (p : Fin 16) (x : Position) : s.Kept (s.placePosition p x) := by
  unfold State.placePosition
  dsimp only
  split
  · exact (setPosition_kept s p x).trans (wantDispatch_kept _)
  · exact setPosition_kept s p x

theorem setOverflow_kept (b : Bool) : s.Kept (s.setOverflow b) := by
  refine .trans (.trans ?_ (writeStateWord_kept _)) (reportEngine_kept _)
  exact kept_of_eq s rfl rfl rfl rfl rfl rfl rfl rfl

theorem judgeOverflow_kept : s.Kept s.judgeOverflow := by
  rw [judgeOverflow_eq]
  split
  · exact .refl s
  · exact setOverflow_kept s _

theorem joinQueue_kept (r : Fin 64) : s.Kept (s.joinQueue r) := by
  refine .trans ?_ (reportCounts_kept _)
  exact kept_of_eq s rfl rfl rfl rfl rfl rfl rfl rfl

theorem leaveQueue_kept (r : Fin 64) : s.Kept (s.leaveQueue r) := by
  refine .trans ?_ (reportCounts_kept _)
  exact kept_of_eq s rfl rfl rfl rfl rfl rfl rfl rfl

theorem returnToQueue_kept (r : Fin 64) : s.Kept (s.returnToQueue r) :=
  ((((modifyCall_kept s r _).trans (reportCall_kept _ r)).trans (joinQueue_kept _ r)).trans (judgeOverflow_kept _)).trans
    (wantDispatch_kept _)

/-- A deferral list in the place of another: it need only be free of repeats where the other was. -/
theorem setDeferrals_kept (l : List Deferral) (h : DeferralsWf s.calls.deferrals → DeferralsWf l) :
    s.Kept (s.setDeferrals l) := by
  have hs : s.Kept { s with calls := { s.calls with deferrals := l } } := ⟨rfl, rfl, rfl, fun _ => rfl, id, id, id, h⟩
  unfold State.setDeferrals
  dsimp only
  split
  · exact hs
  · exact hs.trans (reportCounts_kept _)

theorem removeDeferral_kept (i : Fin 256) : s.Kept (s.removeDeferral i) :=
  (setDeferrals_kept s _ (DeferralsWf.filter _)).trans (setPost_kept _ i _)

/-- The posts of a deferral list that has one entry moved to its end. -/
theorem deferralToTail_wf {l : List Deferral} (i : Fin 256) (h : DeferralsWf l) :
    DeferralsWf (l.filter (fun d => d.post != i) ++ l.filter (fun d => d.post == i)) := by
  unfold DeferralsWf
  rw [List.map_append, List.nodup_append]
  refine ⟨h.filter _, h.filter _, ?_⟩
  intro a ha b hb hab
  obtain ⟨d, hd, rfl⟩ := List.mem_map.mp ha
  obtain ⟨e, he, rfl⟩ := List.mem_map.mp hb
  have hdi := (List.mem_filter.mp hd).2
  have hei := (List.mem_filter.mp he).2
  simp_all

theorem deferralToTail_kept (i : Fin 256) : s.Kept (s.deferralToTail i) := setDeferrals_kept s _ (deferralToTail_wf i)

/-- A post that is not on the deferral list put at its end. -/
theorem DeferralsWf.append {l : List Deferral} {d : Deferral} (h : DeferralsWf l) (hd : ∀ e ∈ l, e.post ≠ d.post) :
    DeferralsWf (l ++ [d]) := by
  unfold DeferralsWf
  rw [List.map_append, List.nodup_append]
  refine ⟨h, by simp, ?_⟩
  intro a ha b hb
  obtain ⟨e, he, rfl⟩ := List.mem_map.mp ha
  obtain rfl : b = d.post := by simpa using hb
  exact hd e he

/-- Another reason for one post of the deferral list. -/
theorem DeferralsWf.withReason {l : List Deferral} (i : Fin 256) (reason : DeferralReason) (h : DeferralsWf l) :
    DeferralsWf (l.map (fun d => if d.post == i then { d with reason } else d)) := by
  unfold DeferralsWf at h ⊢
  rw [List.map_map, List.map_congr_left (g := fun d => d.post)]
  · exact h
  · intro d _
    simp only [Function.comp]
    split <;> rfl

theorem defer_kept (i : Fin 256) (reason : DeferralReason) : s.Kept (s.defer i reason) := by
  unfold State.defer
  split
  · exact setDeferrals_kept s _ (DeferralsWf.withReason i reason)
  · next hn =>
    refine (setDeferrals_kept s _ fun h => h.append fun e he hpost => hn ?_).trans (setPost_kept _ i _)
    exact List.any_eq_true.mpr ⟨e, he, by simpa using hpost⟩

theorem writeJudged_kept (i : Fin 256) (p : Post) (id : Option Identity) : s.Kept (s.writeJudged i p id) := by
  unfold State.writeJudged
  dsimp only
  split
  · exact (setPost_kept s i _).trans (recordFault_kept _ _ _ _ _)
  · exact setPost_kept s i _

theorem takeRecord_kept (r : Fin 64) (i : Fin 256) (kind : CallKind) (st : CallState) : s.Kept (s.takeRecord r i kind st) := by
  refine .trans (.trans ?_ (setCall_kept _ r _)) (reportCounts_kept _)
  exact kept_of_eq s rfl rfl rfl rfl rfl rfl rfl rfl

theorem fillRegistration_kept (r : Fin 64) (i : Fin 256) (type : RequestType) (far again : Bool) :
    s.Kept (s.fillRegistration r i type far again) := by
  unfold State.fillRegistration
  split
  · exact .refl s
  · next c _ =>
    extract_lets x _ _ _ t u v p w
    have ht : s.Kept t := kept_of_eq s rfl rfl rfl rfl rfl rfl rfl rfl
    have hu : t.Kept u := by
      unfold u
      split
      · exact recordFault_kept _ _ _ _ _
      · exact .refl _
    have hw : s.Kept w := ((ht.trans hu).trans (joinQueue_kept u r)).trans (setPost_kept _ i _)
    split
    · exact hw.trans (removeDeferral_kept _ i)
    · exact hw

theorem makeUnreachable_kept (i : Fin 256) : s.Kept (s.makeUnreachable i) := by
  unfold State.makeUnreachable
  dsimp only
  split
  case h_4 | h_5 => exact .refl s
  all_goals exact (setPost_kept s i _).trans (emptyCommands_kept _ i true)

theorem feedsOff_kept (g : Fin 8) (x : Segment) : s.Kept (s.feedsOff g x) :=
  ((((setSegment_kept s g _).trans (updateLine_kept _ _ _)).trans (updateLine_kept _ _ _)).trans
    (unwatchEnd_kept _ _)).trans (unwatchEnd_kept _ _)

theorem inhibitSegmentNow_kept (g : Fin 8) : s.Kept (s.inhibitSegmentNow g) :=
  (feedsOff_kept s g _).trans (kept_foldl (fun s i => makeUnreachable_kept s i) _ _)

theorem inhibitUsed_kept : s.Kept s.inhibitUsed := kept_foldl (fun s g => by
  split
  · exact inhibitSegmentNow_kept s g
  · exact .refl s) _ s

theorem recordBreak_kept (g : Fin 8) : s.Kept (s.recordBreak g) := by
  unfold State.recordBreak
  split
  · exact recordFault_kept s _ _ _ _
  · exact .refl s

theorem proceedBreak_kept (g : Fin 8) (drops : List (Fin 32)) : s.Kept (s.proceedBreak g drops) := by
  unfold State.proceedBreak
  split
  · exact .refl s
  · split
    · exact (setSegment_kept s g _).trans (startFarSweep_kept _ g drops)
    · exact setBreak_kept s g _

theorem lowerFar_kept (i : Fin 256) : s.Kept (s.lowerFar i) := by
  unfold State.lowerFar
  dsimp only
  split
  · exact .refl s
  · split
    · split
      · exact setBreak_kept s _ _
      · exact .refl s
    · exact .refl s

theorem takeFromQueue_kept (r : Fin 64) (p : Fin 16) (st : CallState) : s.Kept (s.takeFromQueue r p st) :=
  (((modifyCall_kept s r _).trans (reportCall_kept _ r)).trans (leaveQueue_kept _ r)).trans (judgeOverflow_kept _)

end Updates

end Sys2Proof.Machine
end

section
/-! SUPPORT. Every operation of an event keeps what every event keeps (State.Kept): the speech switch, the cluster unit, the
line sides, the calls, the supervisor and the dispatcher. -/

namespace Sys2Proof.Machine

/-! ### The speech switch -/

theorem reserveChannel_kept (g : Fin 8) (r : Fin 64) : (reserveChannel g r).Keeps State.Kept :=
  withCall_kept fun c => kept_bind kept_get fun s => by
    split
    · exact kept_throw _
    · exact kept_throw _
    · exact kept_bind (readChannel_kept _) fun _ =>
        kept_modify fun s => (setChannel_kept s g _ _).trans (modifyCall_kept _ r _)

theorem changeConnection_kept (p : Fin 16) (x : Option Connection) : (changeConnection p x).Keeps State.Kept :=
  kept_bind (kept_modify fun s => setConnection_kept s p x) fun _ => kept_bind kept_get fun _ =>
    kept_ite (kept_pure _) (kept_throw _)

theorem connectRequest_kept (p : Fin 16) (r : Fin 64) : (connectRequest p r).Keeps State.Kept :=
  withCall_kept fun c => kept_bind kept_get fun s => by
    split
    · exact kept_throw _
    · exact kept_bind (readChannel_kept _) fun _ => kept_ite (changeConnection_kept p _) (kept_throw _)

theorem disconnectRequest_kept (p : Fin 16) : (disconnectRequest p).Keeps State.Kept :=
  kept_bind kept_get fun _ => kept_ite (kept_throw _) (changeConnection_kept p _)

theorem freeCallChannel_kept (r : Fin 64) : (freeCallChannel r).Keeps State.Kept :=
  withCall_kept fun c => by
    split
    · exact kept_pure _
    · refine kept_bind (readChannel_kept _) fun _ => kept_ite (kept_throw _) (kept_bind (kept_forM (fun p => ?_) _) fun _ => ?_)
      · exact kept_bind kept_get fun _ => kept_ite (changeConnection_kept p _) (kept_pure _)
      · exact kept_modify fun s => ((setChannel_kept s _ _ _).trans (modifyCall_kept _ r _)).trans (wantDispatch_kept _)

theorem channelInUse_kept (r : Fin 64) : (channelInUse r).Keeps State.Kept :=
  withCall_kept fun c => by
    split
    · exact kept_throw _
    · exact kept_bind (readChannel_kept _) fun _ => kept_ite (kept_modify fun s => setChannel_kept s _ _ _) (kept_throw _)

theorem pend_kept (i : Fin 256) (kind : CommandKind) (call : Option Nat) : (pend i kind call).Keeps State.Kept :=
  kept_bind (readPost_kept i) fun _ => kept_modify fun s => (loseTest_kept s i _).trans (setCommands_kept _ i _)

/-! ### The cluster unit -/

theorem renumberMember_kept (new : Nat) (r : Fin 64) : (renumberMember new r).Keeps State.Kept :=
  withCall_kept fun _ => kept_modify fun s => callWritten_kept s r _

theorem absorbIncident_kept (k j : Fin 16) : (absorbIncident k j).Keeps State.Kept :=
  Op.keeps_get_bind _ fun s => by
    split
    · refine kept_set_bind ?_ (kept_forM (fun r => renumberMember_kept _ r) _)
      exact (setIncident_kept s k _).trans (incidentWritten_kept _ j _)
    · exact .refl s

theorem mergeIncidents_kept (k : Fin 16) (others : List (Fin 16)) : (mergeIncidents k others).Keeps State.Kept :=
  kept_bind kept_get fun _ => kept_ite (kept_pure _) <|
    kept_bind (kept_forM (fun j => absorbIncident_kept k j) _) fun _ => kept_modify fun s => by
      split
      · exact setIncident_kept s k _
      · exact .refl s

theorem readMatching_kept (s : State) (way : Carriageway) : ((List.finRange 16).forM (fun k =>
    match s.incident k with
    | some x => if x.state == .opened && x.carriageway == way then do let _ ← readIncident k else pure ()
    | none => pure ()) : Op PUnit).Keeps State.Kept :=
  kept_forM (fun k => by
    split
    · exact kept_ite (kept_bind (readIncident_kept k) fun _ => kept_pure _) (kept_pure _)
    · exact kept_pure _) _

/-- The incident that a call joins is written once the others have been absorbed. -/
theorem joinIncident_kept (k : Fin 16) (c : Nat) (lead : Lead) : Op.Keeps State.Kept (do
    let s ← get
    match s.incident k with
    | none => pure none
    | some x => do
      set ((s.setIncident k (x.join c lead s.time (s.after s.incidentTicks)).estimated).reportIncident k)
      pure (some x.number) : Op (Option Nat)) :=
  Op.keeps_get_bind _ fun s => by
    split
    · exact .refl s
    · exact kept_set_bind (incidentWritten_kept s k _) (kept_pure _)

theorem forM_reads_leaves {α : Type} {f : α → Op PUnit} (h : ∀ a s, (f a).leaves s = s) (l : List α) (s : State) :
    (l.forM f).leaves s = s := by
  have hk := Op.keeps_forM (R := fun a b => b = a) (fun _ => rfl) (fun _ _ _ h k => k.trans h) f (fun a s => h a s) l s
  exact hk

theorem bind_reads_leaves {α β : Type} {x : Op α} {f : α → Op β} {s : State} (hx : x.leaves s = s)
    (hf : ∀ a, (f a).leaves s = s) : (x >>= f).leaves s = s := by
  unfold Op.leaves at *
  rw [Op.bind_apply]
  cases hs : x s with
  | ok a t =>
    rw [hs] at hx
    have ht : t = s := hx
    rw [ht]
    exact hf a
  | error e t =>
    rw [hs] at hx
    exact hx

theorem assignIncident_kept (way : Carriageway) (c : Nat) (lead : Lead) : (assignIncident way c lead).Keeps State.Kept :=
  Op.keeps_get_bind _ fun s => by
    refine kept_read_bind (forM_reads_leaves (fun k s => ?_) _ s) fun _ => ?_
    · split
      · split
        · exact bind_reads_leaves (readIncident_leaves k s) fun _ => rfl
        · rfl
      · rfl
    · split
      · exact kept_set_bind (createIncident_kept s way c lead) (kept_pure _)
      · exact kept_bind (mergeIncidents_kept _ _) (fun _ => joinIncident_kept _ c lead) s

theorem memberEnded_kept (c : Call) : (memberEnded c).Keeps State.Kept :=
  Op.keeps_get_bind _ fun s => by
    split
    · exact .refl s
    · refine kept_read_bind (readIncident_leaves _ s) fun o => ?_
      cases o with
      | none => exact .refl s
      | some x => exact incidentWritten_kept s _ _

theorem memberAnswered_kept (c : Call) : (memberAnswered c).Keeps State.Kept :=
  Op.keeps_get_bind _ fun s => by
    split
    · exact .refl s
    · refine kept_read_bind (readIncident_leaves _ s) fun o => ?_
      cases o with
      | none => exact .refl s
      | some x =>
        dsimp only
        split
        · exact incidentWritten_kept s _ _
        · exact .refl s

theorem quietIncident_kept (k : Fin 16) : (quietIncident k).Keeps State.Kept :=
  kept_bind kept_get fun _ => kept_ite (kept_bind (readIncident_kept k) fun o => by
    cases o with
    | none => exact kept_pure _
    | some x => exact kept_modify fun s => incidentWritten_kept s k _) (kept_pure _)

theorem quietIncidents_kept : quietIncidents.Keeps State.Kept := kept_forM quietIncident_kept _

/-! ### Line sides -/

theorem takeNear_kept (i : Fin 256) : (takeNear i).Keeps State.Kept :=
  kept_bind (readPost_kept i) fun _ => kept_modify fun s => setSide_kept s i .near

theorem handOverFar_kept (g : Fin 8) : (handOverFar g).Keeps State.Kept :=
  kept_bind kept_get fun _ => kept_forM (fun _ => takeNear_kept _) _

theorem farFeedOff_kept (g : Fin 8) : (farFeedOff g).Keeps State.Kept :=
  kept_bind (kept_modify fun s => (setSegment_kept s g _).trans (unwatchEnd_kept _ _)) fun _ =>
    kept_bind (handOverFar_kept g) fun _ => kept_bind kept_get fun _ => kept_forM takeNear_kept _

theorem haltingEnds_kept (l : LineId) : (haltingEnds l).Keeps State.Kept :=
  kept_bind kept_get fun _ => kept_ite (kept_bind (kept_modify fun s => updateLine_kept s l _) fun _ =>
    kept_ite (farFeedOff_kept _) (kept_pure _)) (kept_pure _)

theorem stopFarFeed_kept (g : Fin 8) : (stopFarFeed g).Keeps State.Kept :=
  kept_bind kept_get fun _ => kept_ite (kept_ite (farFeedOff_kept g)
    (kept_bind (kept_modify fun s => updateLine_kept s _ _) fun _ => haltingEnds_kept _)) (kept_pure _)

theorem sweepEnds_kept (l : LineId) : (sweepEnds l).Keeps State.Kept :=
  kept_bind kept_get fun s => kept_ite (kept_bind (kept_modify fun s => updateLine_kept s l _) fun _ => by
    split
    · exact kept_modify fun s => (setSegment_kept s _ _).trans (wantDispatch_kept _)
    · split
      · exact kept_pure _
      · dsimp only
        split
        · exact kept_modify fun s => setBreak_kept s _ _
        · exact kept_bind (stopFarFeed_kept _) fun _ => kept_modify fun s => setBreak_kept s _ _) (kept_pure _)

theorem startNearSweep_kept (g : Fin 8) : (startNearSweep g).Keeps State.Kept :=
  kept_bind (kept_modify fun s => updateLine_kept s _ _) fun _ => sweepEnds_kept _

theorem preparePost_kept (i : Fin 256) : (preparePost i).Keeps State.Kept :=
  kept_bind (readPost_kept i) fun _ => kept_modify fun s => by
    dsimp only
    split
    · exact setSide_kept s i .near
    · exact (setSide_kept s i .near).trans (setPost_kept _ i _)

theorem enterSweep_kept (g : Fin 8) : (enterSweep g).Keeps State.Kept :=
  kept_bind (kept_modify fun s => (setSegment_kept s g _).trans (withdrawProbes_kept _ g)) fun _ =>
    kept_bind (stopFarFeed_kept g) fun _ => kept_bind (handOverFar_kept g) fun _ =>
      kept_bind (kept_modify fun s => refeedNear_kept s g) fun _ =>
        kept_bind (kept_forM preparePost_kept _) fun _ => startNearSweep_kept g

theorem farCallLeft_kept (g : Fin 8) : (farCallLeft g).Keeps State.Kept :=
  kept_bind kept_get fun _ => by
    split
    · exact kept_ite (enterSweep_kept g) (kept_pure _)
    · exact kept_pure _

theorem breakRepaired_kept (g : Fin 8) : (breakRepaired g).Keeps State.Kept :=
  Op.keeps_get_bind _ fun s => by
    split
    · split
      · exact .refl s
      · split
        · exact setBreak_kept s g _
        · exact enterSweep_kept g s
    · exact .refl s

/-! ### Positions -/

theorem removeOfferTimer_kept (p : Fin 16) : (removeOfferTimer p).Keeps State.Kept :=
  kept_bind (readPosition_kept p) fun _ => kept_modify fun s => setPositionTimers_kept s p _

theorem removeRingTimer_kept (p : Fin 16) : (removeRingTimer p).Keeps State.Kept :=
  kept_bind (readPosition_kept p) fun _ => kept_modify fun s => setPositionTimers_kept s p _

theorem freePosition_kept (p : Fin 16) : (freePosition p).Keeps State.Kept :=
  kept_bind (readPosition_kept p) fun _ => kept_modify fun s => placePosition_kept s p _

theorem wrapupPosition_kept (p : Fin 16) : (wrapupPosition p).Keeps State.Kept :=
  kept_bind (readPosition_kept p) fun _ => kept_modify fun s => placePosition_kept s p _

theorem endOffer_kept (p : Fin 16) (n : Nat) (o : OfferOutcome) : (endOffer p n o).Keeps State.Kept :=
  kept_bind (readPosition_kept p) fun _ => kept_modify fun s => placePosition_kept s p _

theorem dropHeld_kept (p : Fin 16) (n : Nat) : (dropHeld p n).Keeps State.Kept :=
  kept_bind (readPosition_kept p) fun _ => kept_modify fun s => placePosition_kept s p _

theorem endPositions_kept (c : Call) (cause : EndCause) : (endPositions c cause).Keeps State.Kept := by
  unfold endPositions
  split
  case h_1 | h_2 | h_3 => exact kept_forM wrapupPosition_kept _
  case h_4 => exact kept_forM (fun p => endOffer_kept p _ _) _
  case h_5 => exact kept_forM freePosition_kept _
  case h_6 =>
    split
    · exact dropHeld_kept _ _
    · exact kept_pure _
  all_goals exact kept_pure _

/-! ### Calls -/

theorem endCall_kept (r : Fin 64) (cause : EndCause) : (endCall r cause).Keeps State.Kept :=
  withCall_kept fun c => kept_ite (kept_pure _) <|
    kept_bind (kept_modify fun s => by
      dsimp only
      split
      · exact (setCall_kept s r _).trans (leaveQueue_kept _ r)
      · exact setCall_kept s r _) fun _ =>
    kept_when (freeCallChannel_kept r) fun _ =>
    kept_bind (endPositions_kept c cause) fun _ =>
    kept_bind (kept_modify fun s => modifyCall_kept s r _) fun _ =>
    kept_bind (readPost_kept _) fun p =>
    kept_bind (kept_modify fun s => by
      split
      · exact setPost_kept s _ _
      · exact .refl s) fun _ =>
    kept_when (pend_kept _ _ _) fun _ =>
    kept_bind (memberEnded_kept c) fun _ =>
    kept_bind (kept_modify fun s => by
      split
      · exact judgeOverflow_kept s
      · exact .refl s) fun _ =>
    kept_when (farCallLeft_kept _) fun _ => kept_modify fun s => reportCall_kept s r

theorem endReserved_kept (i : Fin 256) (cause : EndCause) : (endReserved i cause).Keeps State.Kept :=
  kept_bind kept_get fun _ => by
    split
    · exact endCall_kept _ cause
    · exact kept_pure _

theorem inviteInto_kept (r : Fin 64) : (inviteInto r).Keeps State.Kept :=
  Op.keeps_get_bind _ fun s => by
    split
    · split
      · exact .refl s
      · exact kept_set_bind (takeRecord_kept s r _ _ _) <| kept_bind kept_get fun _ =>
          kept_bind (pend_kept _ _ _) fun _ => kept_modify fun s => reportCall_kept s r
    · exact .refl s

theorem clusterCall_kept (r : Fin 64) : (clusterCall r).Keeps State.Kept :=
  withCall_kept fun c => by
    split
    · exact kept_ite (kept_pure _) (kept_bind (assignIncident_kept _ _ _) fun _ =>
        kept_modify fun s => modifyCall_kept s r _)
    · exact kept_pure _

theorem registerCall_kept (r : Fin 64) (i : Fin 256) (type : RequestType) (far again : Bool) (source : RequestSource) :
    (registerCall r i type far again source).Keeps State.Kept :=
  kept_bind (readCall_kept r) fun _ =>
  kept_bind (kept_modify fun s => by
    dsimp only
    split
    · exact (takeRecord_kept s r i _ _).trans (fillRegistration_kept _ r i type far again)
    · exact fillRegistration_kept s r i type far again) fun _ =>
  kept_bind (clusterCall_kept r) fun _ => kept_bind kept_get fun s => by
    cases source
    case window => exact kept_bind (kept_modify fun s =>
      ((judgeOverflow_kept s).trans (reportCall_kept _ r)).trans (wantDispatch_kept _)) fun _ => kept_pure _
    all_goals exact kept_bind (pend_kept _ _ _) fun _ => kept_bind (kept_modify fun s =>
      ((judgeOverflow_kept s).trans (reportCall_kept _ r)).trans (wantDispatch_kept _)) fun _ => kept_pure _

theorem decideRequest_kept (i : Fin 256) (type : RequestType) (far again : Bool) (source : RequestSource) :
    (decideRequest i type far again source).Keeps State.Kept :=
  kept_bind (readPost_kept i) fun p => Op.keeps_get_bind _ fun s => by
    split
    · exact .refl s
    · split
      · exact .refl s
      · split
        · exact registerCall_kept _ i type far again source s
        · split
          · exact .refl s
          · split
            · exact kept_set_bind (defer_kept s i _) (kept_pure _)
            · split
              · exact registerCall_kept _ i type far again source s
              · exact kept_set_bind (defer_kept s i _) (kept_pure _)

theorem callbackAnswered_kept (r : Fin 64) : (callbackAnswered r).Keeps State.Kept :=
  withCall_kept fun c => by
    split
    · exact kept_bind (readPosition_kept _) fun _ =>
        kept_bind (kept_modify fun s => (modifyCall_kept s r _).trans (reportCall_kept _ r)) fun _ =>
        kept_bind (kept_modify fun s => setPosition_kept s _ _) fun _ =>
        kept_bind (connectRequest_kept _ r) fun _ => pend_kept _ _ _
    · exact kept_pure _

theorem hookReport_kept (i : Fin 256) (hook : Hook) : (hookReport i hook).Keeps State.Kept :=
  kept_bind kept_get fun s => by
    dsimp only
    split
    · refine withCall_kept fun c => ?_
      split
      · exact kept_pure _
      · exact callbackAnswered_kept _
      · exact endCall_kept _ _
      · exact kept_pure _
    · exact kept_ite (kept_bind (endReserved_kept i _) fun _ => kept_modify fun s => removeDeferral_kept s i) (kept_pure _)

theorem connectDone_kept (n : Nat) (hook : Hook) : (connectDone n hook).Keeps State.Kept :=
  kept_bind kept_get fun s => by
    split
    · exact kept_pure _
    · exact withCall_kept fun c => kept_ite
        (kept_bind (kept_modify fun s => setCall_kept s _ _) fun _ => kept_bind (channelInUse_kept _) fun _ =>
          kept_unless (memberAnswered_kept c) fun _ => kept_modify fun s => reportCall_kept s _)
        (kept_pure _)

theorem connectMissed_kept (n : Nat) : (connectMissed n).Keeps State.Kept :=
  kept_bind kept_get fun s => by
    split
    · exact kept_pure _
    · exact withCall_kept fun c => kept_ite (endCall_kept _ _) (kept_pure _)

theorem inviteMissed_kept (i : Fin 256) (n : Nat) : (inviteMissed i n).Keeps State.Kept :=
  kept_bind kept_get fun s => by
    split
    · exact kept_pure _
    · exact withCall_kept fun c => kept_ite
        (kept_bind (endCall_kept _ _) fun _ => kept_modify fun s => deferralToTail_kept s i) (kept_pure _)

theorem callOfLostPost_kept (i : Fin 256) : (callOfLostPost i).Keeps State.Kept :=
  kept_bind kept_get fun s => by
    split
    · exact kept_pure _
    · refine withCall_kept fun c => ?_
      split
      case h_4 =>
        exact kept_bind (freeCallChannel_kept _) fun _ =>
          kept_bind (kept_modify fun s => returnToQueue_kept s _) fun _ => kept_forM (fun p => endOffer_kept p _ _) _
      case h_1 | h_2 | h_3 => exact kept_pure _
      all_goals exact endCall_kept _ _

theorem deferralOfLostPost_kept (i : Fin 256) : (deferralOfLostPost i).Keeps State.Kept :=
  kept_bind kept_get fun s => kept_ite (kept_bind (endReserved_kept i _) fun _ => kept_modify fun s => by
    split
    · exact removeDeferral_kept s i
    · split
      · exact deferralToTail_kept s i
      · exact .refl s) (kept_pure _)

/-! ### The fault supervisor -/

theorem lostPost_kept (i : Fin 256) : (lostPost i).Keeps State.Kept :=
  kept_bind (callOfLostPost_kept i) fun _ => deferralOfLostPost_kept i

theorem unreachablePost_kept (lost : List (Fin 256)) (i : Fin 256) : (unreachablePost lost i).Keeps State.Kept :=
  kept_bind (readPost_kept i) fun p => by
    split
    case h_4 | h_5 => exact kept_pure _
    all_goals exact kept_bind (kept_modify fun s => makeUnreachable_kept s i) fun _ => kept_pure _

theorem unreachablePosts_kept (l : List (Fin 256)) : (l.foldlM unreachablePost []).Keeps State.Kept :=
  Op.keeps_foldlM State.Kept.refl State.Kept.trans_of _ unreachablePost_kept l []

theorem leaveService_kept (g : Fin 8) (x : Segment) : (leaveService g x).Keeps State.Kept :=
  kept_bind (kept_modify fun s => feedsOff_kept s g x) fun _ =>
    kept_bind (unreachablePosts_kept _) fun _ => kept_forM lostPost_kept _

theorem segmentFault_kept (l : LineId) (f : SegmentFault) : (segmentFault l f).Keeps State.Kept :=
  kept_bind kept_get fun s => kept_ite
    (kept_bind (kept_modify fun s => recordFault_kept s _ _ _ _) fun _ => kept_ite (by
      split
      · exact leaveService_kept _ _
      · exact leaveService_kept _ _
      · exact kept_pure _
      · exact kept_pure _) (kept_pure _)) (kept_pure _)

theorem countError_kept (l : LineId) : (countError l).Keeps State.Kept :=
  kept_bind kept_get fun _ => kept_ite
    (kept_bind (kept_modify fun s => updateLine_kept s l _) fun _ => segmentFault_kept l _)
    (kept_modify fun s => updateLine_kept s l _)

theorem loseDrops_kept (g : Fin 8) (drops : List (Fin 32)) : (loseDrops g drops).Keeps State.Kept :=
  kept_bind (unreachablePosts_kept _) fun _ => kept_forM lostPost_kept _

theorem suspectBreak_kept (g : Fin 8) (run : List (Fin 32)) (first : Fin 32) : (suspectBreak g run first).Keeps State.Kept :=
  kept_bind (kept_modify fun s => (setBreak_kept s g _).trans (recordBreak_kept _ g)) fun _ =>
    kept_bind (loseDrops_kept g run) fun _ => kept_modify fun s => proceedBreak_kept s g run

theorem extendBreak_kept (g : Fin 8) (run : List (Fin 32)) (first old : Fin 32) :
    (extendBreak g run first old).Keeps State.Kept :=
  kept_bind (loseDrops_kept g _) fun _ => kept_modify fun s => by
    split
    · exact .refl s
    · exact (setBreak_kept s g _).trans (recordBreak_kept _ g)

theorem analyseBreak_kept (g : Fin 8) : (analyseBreak g).Keeps State.Kept :=
  kept_bind kept_get fun s => kept_ite (by
    split
    · exact kept_pure _
    · exact kept_ite (suspectBreak_kept g _ _) (kept_pure _)
    · exact kept_ite (extendBreak_kept g _ _ _) (kept_pure _)) (kept_pure _)

theorem takeNearAgain_kept (i : Fin 256) : (takeNearAgain i).Keeps State.Kept :=
  kept_bind (takeNear_kept i) fun _ => kept_modify fun s => by
    split
    · exact makeUnreachable_kept s i
    · exact .refl s

theorem farLost_kept (g : Fin 8) (b : Break) : (farLost g b).Keeps State.Kept := by
  unfold farLost
  split
  · exact kept_bind kept_get fun _ => kept_bind (stopFarFeed_kept g) fun _ => kept_bind (handOverFar_kept g) fun _ =>
      kept_bind (kept_forM takeNearAgain_kept _) fun _ => kept_modify fun s => setBreak_kept s g _
  · exact kept_modify fun s => setBreak_kept s g _
  · exact kept_pure _

theorem followFar_kept (i : Fin 256) : (followFar i).Keeps State.Kept :=
  Op.keeps_get_bind _ fun s => by
    dsimp only
    split
    · exact .refl s
    · split
      · exact .refl s
      · split
        · exact farLost_kept _ _ s
        · exact setBreak_kept s _ _

theorem isolateSilent_kept (i : Fin 256) : (isolateSilent i).Keeps State.Kept :=
  kept_bind (readPost_kept i) fun _ => kept_bind (kept_modify fun s => setPost_kept s i _) fun _ => lostPost_kept i

theorem postSilent_kept (i : Fin 256) : (postSilent i).Keeps State.Kept :=
  kept_bind kept_get fun _ =>
    kept_unless (kept_modify fun s => recordFault_kept s _ _ _ _) fun _ =>
    kept_bind (lostPost_kept i) fun _ => kept_when (isolateSilent_kept i) fun _ =>
    kept_bind (followFar_kept i) fun _ => analyseBreak_kept _

theorem postMiss_kept (i : Fin 256) : (postMiss i).Keeps State.Kept :=
  kept_bind (readPost_kept i) fun p => kept_bind kept_get fun s => by
    dsimp only
    split
    case h_1 | h_2 =>
      exact kept_ite (kept_bind (kept_modify fun s => (setPost_kept s i _).trans (emptyCommands_kept _ i true)) fun _ =>
        postSilent_kept i) (kept_modify fun s => setPost_kept s i _)
    case h_3 =>
      refine kept_modify fun s => ?_
      split
      · exact (setPost_kept s i _).trans (emptyCommands_kept _ i false)
      · exact setPost_kept s i _
    all_goals exact kept_modify fun s => setPost_kept s i _

/-! ### The dispatch arbiter -/

theorem offer_kept (r : Fin 64) (p : Fin 16) : (offer r p).Keeps State.Kept :=
  withCall_kept fun _ => kept_bind (readPosition_kept p) fun _ => kept_bind (reserveChannel_kept _ r) fun _ =>
    kept_bind (kept_modify fun s => takeFromQueue_kept s r p _) fun _ => kept_modify fun s => setPosition_kept s p _

theorem pairCall_kept (r : Fin 64) : (pairCall r).Keeps State.Kept :=
  kept_bind kept_get fun s => kept_ite (kept_pure _) <| withCall_kept fun c => kept_bind (readPost_kept _) fun _ => by
    split
    · exact offer_kept r _
    · exact kept_pure _

theorem readRank_kept (r : Fin 64) : (readRank r).Keeps State.Kept :=
  withCall_kept fun c => kept_bind kept_get fun s => by
    split
    · exact kept_bind (readIncident_kept _) fun _ => kept_pure _
    · exact kept_pure _

theorem dispatchRun_kept : dispatchRun.Keeps State.Kept :=
  kept_bind kept_get fun _ => kept_ite (kept_pure _)
    (kept_bind (kept_forM readRank_kept _) fun _ => kept_forM pairCall_kept _)

end Sys2Proof.Machine
end

section
/-! SUPPORT. Every operation of an event keeps what every event keeps (State.Kept): engine control, the line sides, the report
writer, the commands, the memory path, start-up and the timers. -/

namespace Sys2Proof.Machine

/-! ### Engine control -/

/-- A class B fault moves no inputs and no lists of the invariants, and writes no memory (R186). -/
theorem classB_kept (f : ClassB) (s : State) : s.Kept (s.classB f) := by
  unfold State.classB
  split
  · refine .trans ?_ (setEngineState_kept _ _)
    exact kept_of_eq s rfl rfl rfl rfl rfl rfl rfl rfl
  · split
    · exact .refl s
    · exact kept_of_eq s rfl rfl rfl rfl rfl rfl rfl rfl
  · split
    · exact .refl s
    · exact kept_of_eq s rfl rfl rfl rfl rfl rfl rfl rfl
  · exact kept_of_eq s rfl rfl rfl rfl rfl rfl rfl rfl
  · exact .refl s
  · exact .refl s

theorem settle_kept {op : Op Unit} (h : op.Keeps State.Kept) (s : State) : s.Kept (s.settle op) :=
  settle_keeps State.Kept.trans_of op h (fun s f => classB_kept f s) s

section Updates

variable (s : State)

theorem relistFaults_kept : s.Kept s.relistFaults := kept_foldl (fun s k => by
  split
  · exact report_kept s _ _ _ _
  · exact .refl s) _ s

theorem restartFault_kept (b : Bool) : s.Kept (s.restartFault b) := by
  unfold State.restartFault
  split
  · exact kept_of_eq s rfl rfl rfl rfl rfl rfl rfl rfl
  · exact .refl s

theorem emptyTables_kept : s.Kept s.emptyTables := by
  unfold State.emptyTables
  extract_lets overflow speech _ t u v
  have ht : s.Kept t := ⟨rfl, rfl, rfl, fun _ => rfl, id, id, id, fun _ => List.nodup_nil⟩
  have hu : t.Kept u := (restartFault_kept t _).trans (syncAllPolled_kept _)
  have hv : u.Kept v := by
    unfold v
    split
    · exact writeStateWord_kept u
    · exact .refl u
  refine .trans ((ht.trans hu).trans hv) (.trans ?_ (relistFaults_kept _))
  exact ⟨rfl, rfl, rfl, fun _ => rfl, id, id, fun _ => List.nodup_nil, id⟩

theorem restartPositions_kept : s.Kept s.restartPositions := by
  refine .trans ?_ (restartFault_kept _ _)
  exact kept_of_eq s rfl rfl rfl rfl rfl rfl rfl rfl

theorem beginDirectoryRead_kept (step : EngineStep) : s.Kept (s.beginDirectoryRead step) := by
  refine .trans ?_ (syncAllPolled_kept _)
  exact kept_of_eq s rfl rfl rfl rfl rfl rfl rfl rfl

theorem restartProceeds_kept : s.Kept s.restartProceeds := by
  unfold State.restartProceeds
  split
  · exact ((emptyTables_kept s).trans (restartPositions_kept _)).trans (beginDirectoryRead_kept _ _)
  · exact .refl s

theorem linesToOff_kept : s.Kept s.linesToOff :=
  .trans (kept_of_eq s (t := { s with lines := s.lines.map LineSide.shut }) rfl rfl rfl rfl rfl rfl rfl rfl)
    (kept_foldl (fun s i => emptyCommands_kept s i false) _ _)

theorem toStandby_kept : s.Kept s.toStandby :=
  (setEngineState_kept s .standby).trans (kept_of_eq _ rfl rfl rfl rfl rfl rfl rfl rfl)

end Updates

theorem shutPosition_kept (p : Fin 16) : (shutPosition p).Keeps State.Kept :=
  kept_bind (readPosition_kept p) fun _ => kept_ite (kept_pure _) (kept_modify fun s => setPosition_kept s p _)

theorem completeStopping_kept : completeStopping.Keeps State.Kept :=
  kept_bind (kept_modify fun s => (linesToOff_kept s).trans (inhibitUsed_kept _)) fun _ =>
    kept_bind (kept_forM shutPosition_kept _) fun _ => kept_modify toStandby_kept

theorem leaveFailed_kept (s : State) : s.Kept s.leaveFailed :=
  (((linesToOff_kept s).trans (inhibitUsed_kept _)).trans
    (kept_foldl (fun s p => settle_kept (shutPosition_kept p) s) _ _)).trans (toStandby_kept _)

theorem enterFailed_kept (s : State) : s.Kept s.enterFailed := by
  unfold State.enterFailed
  extract_lets t _ u
  have hu : s.Kept u := (((linesToOff_kept s).trans (inhibitUsed_kept _)).trans (setEngineState_kept _ _)).trans
    (kept_of_eq _ rfl rfl rfl rfl rfl rfl rfl rfl)
  split
  · exact hu
  · exact hu.trans (leaveFailed_kept u)

theorem clearDeferral_kept (i : Fin 256) : (clearDeferral i).Keeps State.Kept :=
  kept_bind (readPost_kept i) fun _ => kept_modify fun s => removeDeferral_kept s i

theorem clearDeferrals_kept : clearDeferrals.Keeps State.Kept :=
  kept_bind kept_get fun _ => kept_forM clearDeferral_kept _

theorem enterStopping_kept : enterStopping.Keeps State.Kept :=
  kept_bind (kept_modify fun s => .trans
    (kept_of_eq s (t := { s with lines := s.lines.map LineSide.toFinishing }) rfl rfl rfl rfl rfl rfl rfl rfl)
    (setEngineState_kept _ _)) fun _ =>
  kept_bind (kept_forM (fun r => endCall_kept r _) _) fun _ => kept_bind clearDeferrals_kept fun _ => quietIncidents_kept

theorem stoppingEnds_kept (s : State) : s.Kept s.stoppingEnds := by
  unfold State.stoppingEnds
  split
  · exact settle_kept completeStopping_kept s
  · exact .refl s

theorem dispatchIfDue_kept (s : State) : s.Kept s.dispatchIfDue := by
  unfold State.dispatchIfDue
  extract_lets t
  have ht : s.Kept t := kept_of_eq s rfl rfl rfl rfl rfl rfl rfl rfl
  split
  · exact ht.trans (settle_kept dispatchRun_kept t)
  · exact ht

theorem followUp_kept (s : State) : s.Kept s.followUp :=
  (((dispatchIfDue_kept s).trans (restartProceeds_kept _)).trans (stoppingEnds_kept _)).trans
    (kept_of_eq _ rfl rfl rfl rfl rfl rfl rfl rfl)

theorem runEvent_kept {op : Op Unit} (h : op.Keeps State.Kept) (s : State) : s.Kept (s.runEvent op) :=
  (settle_kept h s).trans (followUp_kept _)

theorem controlWritten_kept : controlWritten.Keeps State.Kept :=
  Op.keeps_get_bind _ fun s => by
    split
    · exact kept_of_eq s rfl rfl rfl rfl rfl rfl rfl rfl
    · split
      · exact .refl s
      · exact enterStopping_kept s
    · split
      · exact .refl s
      · exact leaveFailed_kept s
    all_goals exact .refl s

theorem queueSteps_kept (steps : List ReportStep) (s : State) : s.Kept (s.queueSteps steps) :=
  ⟨rfl, rfl, rfl, fun _ => rfl, id, takeWords_wf steps _, id, id⟩

theorem entryLeaves_kept (o : Obj) : (entryLeaves o).Keeps State.Kept :=
  kept_bind (kept_modify fun _ => ⟨rfl, rfl, rfl, fun _ => rfl, id, id, ReportsWf.filter _, id⟩) fun _ =>
    kept_bind kept_get fun s => by
      split
      · split
        · refine kept_ite (kept_bind (readCall_kept _) fun _ => kept_bind (kept_modify fun s => ?_) fun _ =>
            kept_bind (kept_modify fun s => queueSteps_kept _ s) fun _ => inviteInto_kept _) (kept_pure _)
          refine .trans ?_ (reportCounts_kept _)
          exact kept_of_eq s rfl rfl rfl rfl rfl rfl rfl rfl
        · exact kept_pure _
      · split
        · refine kept_ite (kept_bind (readIncident_kept _) fun _ => kept_bind (kept_modify fun s => ?_) fun _ =>
            kept_modify fun s => queueSteps_kept _ s) (kept_pure _)
          refine .trans ?_ (reportCounts_kept _)
          exact kept_of_eq s rfl rfl rfl rfl rfl rfl rfl rfl
        · exact kept_pure _
      all_goals exact kept_pure _

theorem stepsDropped_kept (steps : List ReportStep) (s : State) :
    s.Kept { s with reports := { s.reports with steps := steps } } := kept_of_eq s rfl rfl rfl rfl rfl rfl rfl rfl

theorem finishEntry_kept (o : Obj) : (finishEntry o).Keeps State.Kept :=
  Op.keeps_get_bind _ fun s => by
    split
    · exact entryLeaves_kept o s
    · exact stepsDropped_kept [] s

theorem emptySlot_kept (k : Fin 9) (s : State) : s.Kept (s.emptySlot k) := by
  unfold State.emptySlot
  split
  · exact .refl s
  · refine .trans ?_ (reportCounts_kept _)
    exact kept_of_eq s rfl rfl rfl rfl rfl rfl rfl rfl

theorem serveSteps_kept : ∀ steps : List ReportStep, (serveSteps steps).Keeps State.Kept
  | [] => kept_modify (stepsDropped_kept [])
  | .word a v :: rest => Op.keeps_get_bind _ fun s => by
    split
    · exact kept_set_bind ⟨rfl, rfl, rfl, fun _ => rfl, id, fun h => enqueue_wf { address := a, value := v } h ‹_›, id, id⟩
        (serveSteps_kept rest)
    · exact stepsDropped_kept _ s
  | .advanceProducer :: rest => Op.keeps_get_bind _ fun s => by
    dsimp only
    split
    · exact kept_set_bind ⟨rfl, rfl, rfl, fun _ => rfl, id,
        fun h => enqueue_wf { address := producerAddress, value := s.reports.producer + 1 } h ‹_›, id, id⟩
        (serveSteps_kept rest)
    · exact kept_of_eq s rfl rfl rfl rfl rfl rfl rfl rfl
  | .faultGate k :: rest => kept_bind kept_get fun s => kept_ite (serveSteps_kept rest)
      (kept_bind (kept_modify fun s => report_kept s _ _ _ _) fun _ => kept_modify (stepsDropped_kept []))
  | .emptySlot k :: rest => kept_bind (kept_modify (emptySlot_kept k)) fun _ => serveSteps_kept rest
  | .finish o :: _ => finishEntry_kept o

theorem flushReports_kept : flushReports.Keeps State.Kept :=
  kept_bind kept_get fun _ => kept_ite (serveSteps_kept _) (kept_pure _)

/-! ### The events of a line side -/

section Updates

variable (s : State)

theorem startExchange_kept (l : LineId) (purpose : Purpose) (d : Fin 32) (t : PartTelegram) :
    s.Kept (s.startExchange l purpose d t) := updateLine_kept s l _

theorem openWindow_kept (l : LineId) : s.Kept (s.openWindow l) := updateLine_kept s l _

theorem endExchange_kept (l : LineId) (e : Exchange) : s.Kept (s.endExchange l e) := updateLine_kept s l _

theorem putBackRelease_kept (i : Fin 256) (c : PendingCommand) : s.Kept (s.putBackRelease i c) := by
  unfold State.putBackRelease
  split
  · split
    · exact .refl s
    · exact setCommands_kept s i _
  · exact setCommands_kept s i _

theorem nearProbeMissed_kept (g : Fin 8) : s.Kept (s.nearProbeMissed g) := by
  unfold State.nearProbeMissed
  split
  · split
    · exact .refl s
    · exact setBreak_kept s g _
  · exact .refl s

theorem farProbeEnded_kept (g : Fin 8) (d : Fin 32) : s.Kept (s.farProbeEnded g d) := by
  unfold State.farProbeEnded
  split
  · exact setBreak_kept s g _
  · exact .refl s

theorem statusFaults_kept (i : Fin 256) (old new : Post) : s.Kept (s.statusFaults i old new) := by
  unfold State.statusFaults
  extract_lets t
  have ht : s.Kept t := by
    unfold t
    split
    · exact recordFault_kept s _ _ _ _
    · exact .refl s
  split
  · exact ht.trans (recordFault_kept t _ _ _ _)
  · exact ht

theorem barPost_kept (i : Fin 256) : s.Kept (s.barPost i) := by
  unfold State.barPost
  dsimp only
  split
  · exact (setPost_kept s i _).trans (reportBoth_kept _ _)
  · exact setPost_kept s i _

theorem noteAnswer_kept (l : LineId) (e : Exchange) : s.Kept (s.noteAnswer l e) := by
  unfold State.noteAnswer
  split
  · exact updateLine_kept s l _
  · exact .refl s

theorem pollOrWindow_kept (l : LineId) : s.Kept (s.pollOrWindow l) := by
  unfold State.pollOrWindow
  split
  · exact startExchange_kept s l _ _ _
  · exact openWindow_kept s l

end Updates

theorem sendCommand_kept (l : LineId) (d : Fin 32) : (sendCommand l d).Keeps State.Kept :=
  kept_bind (readPost_kept _) fun p => by
    split
    · exact kept_pure _
    · exact kept_bind (kept_modify fun s => setCommands_kept s _ _) fun _ => kept_modify fun s => startExchange_kept s l _ d _

theorem chooseServing_kept (l : LineId) : (chooseServing l).Keeps State.Kept :=
  Op.keeps_get_bind _ fun s => by
    dsimp only
    split
    · exact openWindow_kept s l
    · split
      · exact (updateLine_kept s l _).trans (startExchange_kept _ l _ _ _)
      · exact sendCommand_kept l _ s
      · exact pollOrWindow_kept s l

theorem chooseSweeping_kept (l : LineId) : (chooseSweeping l).Keeps State.Kept :=
  Op.keeps_get_bind _ fun s => by
    dsimp only
    split
    · exact sendCommand_kept l _ s
    · exact startExchange_kept s l _ _ _
    · exact .refl s

theorem chooseNext_kept (l : LineId) : (chooseNext l).Keeps State.Kept :=
  kept_bind kept_get fun s => kept_ite (kept_pure _) (by
    split
    · exact chooseServing_kept l
    · exact chooseSweeping_kept l
    · exact sendCommand_kept l _
    all_goals exact kept_pure _)

theorem afterExchange_kept (l : LineId) : (afterExchange l).Keeps State.Kept :=
  kept_bind (sweepEnds_kept l) fun _ => haltingEnds_kept l

theorem commandMissed_kept (i : Fin 256) (c : PendingCommand) : (commandMissed i c).Keeps State.Kept := by
  unfold commandMissed
  split
  · exact kept_bind (readPost_kept i) fun _ => kept_modify fun s => putBackRelease_kept s i c
  · exact connectMissed_kept _
  · exact inviteMissed_kept i _
  · exact kept_bind (readPost_kept i) fun _ => kept_modify fun s => loseTest_kept s i true
  all_goals exact kept_pure _

theorem missed_kept (l : LineId) (e : Exchange) : (missed l e).Keeps State.Kept := by
  unfold missed
  dsimp only
  split
  · exact kept_bind (commandMissed_kept _ _) fun _ => postMiss_kept _
  · exact postMiss_kept _
  · exact postMiss_kept _
  · exact kept_modify fun s => nearProbeMissed_kept s _
  · exact kept_modify fun s => farProbeEnded_kept s _ _
  all_goals exact kept_pure _

theorem noReply_kept (l : LineId) : (noReply l).Keeps State.Kept :=
  Op.keeps_get_bind _ fun s => by
    split
    · exact .refl s
    · split
      · exact kept_set_bind (endExchange_kept s l _) (kept_unless (missed_kept l _) fun _ => afterExchange_kept l)
      · exact kept_set (updateLine_kept s l _)

theorem lineError_kept (l : LineId) : (lineError l).Keeps State.Kept :=
  kept_bind kept_get fun _ => kept_ite (kept_pure _) (countError_kept l)

theorem badReply_kept (l : LineId) : (badReply l).Keeps State.Kept := kept_bind (lineError_kept l) fun _ => noReply_kept l

theorem endWindow_kept (l : LineId) : (endWindow l).Keeps State.Kept :=
  Op.keeps_get_bind _ fun s => by
    split
    · exact kept_set_bind (endExchange_kept s l _) (afterExchange_kept l)
    · exact .refl s

theorem failWindow_kept (l : LineId) : (failWindow l).Keeps State.Kept :=
  kept_bind (lineError_kept l) fun _ => endWindow_kept l

theorem applyTelegram_kept (l : LineId) (i : Fin 256) (t : PostTelegram) (side : Side) :
    (applyTelegram l i t side).Keeps State.Kept :=
  kept_bind (readPost_kept i) fun p => kept_bind (kept_modify fun s => setSide_kept s i side) fun _ =>
    kept_modify fun s => by
      extract_lets _ q u v w
      have hu : s.Kept u := by
        unfold u
        split
        · exact writeJudged_kept s i q _
        · exact setPost_kept s i q
      have hw : v.Kept w := by
        unfold w
        split
        · exact lowerFar_kept v i
        · exact .refl v
      have h : s.Kept w := (hu.trans (statusFaults_kept u i p q)).trans hw
      split
      · exact h.trans (wantDispatch_kept w)
      · exact h

theorem reportHook_kept (i : Fin 256) (t : PostTelegram) : (reportHook i t).Keeps State.Kept := by
  unfold reportHook
  split
  · exact hookReport_kept i _
  · exact kept_pure _

theorem identRequest_kept (l : LineId) (i : Fin 256) (hadCall : Bool) (t : PostTelegram) :
    (identRequest l i hadCall t).Keeps State.Kept :=
  Op.keeps_get_bind _ fun s => by
    split
    · exact .refl s
    · split
      · exact barPost_kept s i
      · split
        · exact .refl s
        · exact kept_bind (decideRequest_kept i _ _ _ _) (fun _ => kept_pure _) s

theorem inviteDone_kept (l : LineId) (i : Fin 256) (t : PostTelegram) : (inviteDone l i t).Keeps State.Kept :=
  Op.keeps_get_bind _ fun s => by
    split
    · split
      · exact barPost_kept s i
      · exact kept_bind (decideRequest_kept i _ _ _ _) (fun _ => kept_pure _) s
    all_goals exact .refl s

theorem commandDone_kept (l : LineId) (i : Fin 256) (c : PendingCommand) (t : PostTelegram) :
    (commandDone l i c t).Keeps State.Kept := by
  unfold commandDone
  split
  · exact connectDone_kept _ _
  · exact inviteDone_kept l i t
  all_goals exact kept_pure _

theorem replyOutcome_kept (l : LineId) (e : Exchange) (i : Fin 256) (hadCall : Bool) (t : PostTelegram) :
    (replyOutcome l e i hadCall t).Keeps State.Kept := by
  unfold replyOutcome
  split
  · exact commandDone_kept l i _ t
  · exact identRequest_kept l i hadCall t
  · exact identRequest_kept l i hadCall t
  · exact breakRepaired_kept _
  · exact kept_modify fun s => farProbeEnded_kept s _ _
  · exact kept_pure _

theorem goodReply_kept (l : LineId) (e : Exchange) (t : PostTelegram) : (goodReply l e t).Keeps State.Kept :=
  Op.keeps_get_bind _ fun s => by
    refine kept_set_bind (((updateLine_kept s l _).trans (endExchange_kept _ l e)).trans (noteAnswer_kept _ l e)) ?_
    refine kept_ite (afterExchange_kept l) (kept_bind (readPost_kept _) fun p => ?_)
    exact kept_bind (applyTelegram_kept l _ t _) fun _ => kept_bind (reportHook_kept _ t) fun _ =>
      kept_bind (replyOutcome_kept l e _ _ t) fun _ => afterExchange_kept l

theorem requestAnswer_kept (l : LineId) (i : Fin 256) (type : RequestType) : (requestAnswer l i type).Keeps State.Kept :=
  Op.keeps_get_bind _ fun s => by
    split
    · exact kept_set_bind (barPost_kept s i) (kept_pure _)
    · exact decideRequest_kept i type _ _ _ s

theorem acceptRequest_kept (l : LineId) (d : Fin 32) (type : RequestType) (x : Identity) :
    (acceptRequest l d type x).Keeps State.Kept :=
  kept_bind kept_get fun _ => kept_ite (endWindow_kept l) <|
    kept_bind (kept_modify fun s => updateLine_kept s l _) fun _ => kept_bind (readPost_kept _) fun _ =>
    kept_bind (applyTelegram_kept l _ _ _) fun _ => kept_bind (requestAnswer_kept l _ type) fun _ =>
    kept_modify fun s => updateLine_kept s l _

theorem receiveReply_kept (l : LineId) (e : Exchange) (f : Option (Fin 32 × PostTelegram)) :
    (receiveReply l e f).Keeps State.Kept := by
  unfold receiveReply
  split
  · exact badReply_kept l
  · split
    · split
      · exact kept_ite (goodReply_kept l e _) (badReply_kept l)
      · exact badReply_kept l
    · exact kept_bind (lineError_kept l) fun _ => kept_bind (kept_modify fun s => recordFault_kept s _ _ _ _) fun _ =>
        noReply_kept l

theorem receiveInWindow_kept (l : LineId) (e : Exchange) (f : Option (Fin 32 × PostTelegram)) :
    (receiveInWindow l e f).Keeps State.Kept := by
  unfold receiveInWindow
  split
  · exact failWindow_kept l
  · split
    · split
      · exact acceptRequest_kept l _ _ _
      all_goals exact failWindow_kept l
    · exact kept_bind (lineError_kept l) fun _ => kept_bind (kept_modify fun s => recordFault_kept s _ _ _ _) fun _ =>
        endWindow_kept l

theorem receiveStray_kept (l : LineId) (f : Option (Fin 32 × PostTelegram)) : (receiveStray l f).Keeps State.Kept :=
  kept_bind kept_get fun _ => kept_ite (kept_pure _) (by
    split
    · exact countError_kept l
    · exact kept_pure _)

theorem receiveTelegram_kept (l : LineId) (f : Option (Fin 32 × PostTelegram)) : (receiveTelegram l f).Keeps State.Kept :=
  kept_bind kept_get fun s => by
    split
    · split
      · exact receiveInWindow_kept l _ f
      · exact receiveReply_kept l _ f
      all_goals exact receiveStray_kept l f
    · exact receiveStray_kept l f

theorem telegramTransmitted_kept (l : LineId) : (telegramTransmitted l).Keeps State.Kept :=
  Op.keeps_get_bind _ fun s => by
    split
    · split
      · exact kept_set (updateLine_kept s l _)
      · exact endWindow_kept l s
      all_goals exact .refl s
    · exact .refl s

theorem readArbitration_kept (l : LineId) (n : BitVec 6) : (readArbitration l n).Keeps State.Kept :=
  Op.keeps_get_bind _ fun s => by
    split
    · split
      · split
        · exact endWindow_kept l s
        · split
          · exact kept_set (updateLine_kept s l _)
          · exact failWindow_kept l s
      · exact .refl s
    · exact .refl s

theorem replyTimeOut_kept (l : LineId) : (replyTimeOut l).Keeps State.Kept :=
  kept_bind kept_get fun s => by
    split
    · split
      · exact kept_ite (kept_ite (failWindow_kept l) (noReply_kept l)) (kept_pure _)
      all_goals exact kept_pure _
    · exact kept_pure _

/-! ### The report writer -/

theorem beginServing_kept (w : WindowSet) (e : ReportEntry) (m : Marks) : (beginServing w e m).Keeps State.Kept :=
  Op.keeps_get_bind _ fun s => kept_set_bind
    ⟨rfl, rfl, rfl, fun _ => rfl, id, id, ReportsWf.map _ fun x => by split <;> rfl, id⟩ (serveSteps_kept _)

theorem serveEntry_kept : serveEntry.Keeps State.Kept :=
  Op.keeps_get_bind _ fun s => by
    split
    · split
      · exact kept_set_bind (kept_of_eq s rfl rfl rfl rfl rfl rfl rfl rfl) (beginServing_kept _ _ _)
      · exact beginServing_kept _ _ _ s
      · exact .refl s
    · exact .refl s

end Sys2Proof.Machine
end

section
/-! SUPPORT. Every operation of an event keeps what every event keeps (State.Kept): the commands, the memory path, start-up and
the timers. Where a row writes memory, it keeps the canonical form (State.InForm). -/

namespace Sys2Proof.Machine

/-! ### Commands -/

theorem answer_kept (r : ResultCode) : (answer r).Keeps State.Kept :=
  kept_modify fun s => kept_of_eq s rfl rfl rfl rfl rfl rfl rfl rfl

theorem command_kept {α : Type} (args : Option α) {act : α → Op Unit} (h : ∀ a, (act a).Keeps State.Kept) :
    (command args act).Keeps State.Kept := by
  unfold command
  split
  · exact answer_kept _
  · exact kept_bind (answer_kept _) fun _ => kept_bind kept_get fun _ => kept_ite (h _) (kept_pure _)

theorem liveRecord_kept (n : Nat) : (liveRecord n).Keeps State.Kept :=
  kept_bind kept_get fun s => by
    split
    · exact kept_pure _
    · refine kept_bind (readCall_kept _) fun o => ?_
      cases o with
      | none => exact kept_pure _
      | some c => exact kept_pure _

theorem withLive_kept (n : Nat) {f : Fin 64 → Call → Op Unit} (h : ∀ r c, (f r c).Keeps State.Kept) :
    (withLive n f).Keeps State.Kept :=
  kept_bind (liveRecord_kept n) fun o => by
    cases o with
    | none => exact kept_pure _
    | some x => exact h x.1 x.2

theorem currentRecord_kept (x : Position) : (currentRecord x).Keeps State.Kept := by
  unfold currentRecord
  split
  · exact kept_pure _
  · exact liveRecord_kept _

theorem dropCall_kept (n : Nat) : (dropCall n).Keeps State.Kept :=
  kept_bind (liveRecord_kept n) fun o => by
    split
    · exact answer_kept _
    · split
      case h_4 => exact kept_bind (answer_kept _) fun _ => kept_bind (endCall_kept _ _) fun _ =>
          kept_modify fun s => removeDeferral_kept s _
      case h_1 | h_2 | h_3 => exact kept_bind (answer_kept _) fun _ => endCall_kept _ _
      all_goals exact answer_kept _

theorem closeIncident_kept (n : Nat) : (closeIncident n).Keeps State.Kept :=
  kept_bind kept_get fun s => by
    split
    · exact answer_kept _
    · refine kept_bind (readIncident_kept _) fun o => ?_
      cases o with
      | none => exact answer_kept _
      | some x =>
        dsimp only
        split
        · exact answer_kept _
        · exact answer_kept _
        · exact kept_bind (answer_kept _) fun _ => kept_modify fun s => incidentWritten_kept s _ _

theorem isolatePost_kept (i : Fin 256) : (isolatePost i).Keeps State.Kept := by
  unfold isolatePost
  refine kept_bind (readPost_kept i) fun p => kept_ite (answer_kept _) <| kept_bind (answer_kept _) fun _ =>
    kept_bind kept_get fun s => ?_
  extract_lets isolate rest
  have hisolate (u : Unit) : (isolate u).Keeps State.Kept :=
    kept_bind (pend_kept i _ _) fun _ => kept_bind (kept_modify fun s => setPost_kept s i _) fun _ => followFar_kept i
  have hrest (u : Unit) : (rest u).Keeps State.Kept :=
    kept_ite (kept_bind (endReserved_kept i _) fun _ => kept_bind (kept_modify fun s => removeDeferral_kept s i) hisolate)
      (hisolate ())
  split
  · exact kept_bind (endCall_kept _ _) hrest
  · exact hrest ()

theorem restorePost_kept (i : Fin 256) : (restorePost i).Keeps State.Kept :=
  kept_bind (readPost_kept i) fun _ => kept_ite (kept_bind (answer_kept _) fun _ =>
    kept_bind (kept_modify fun s => (setPost_kept s i _).trans (rejoinPolled_kept _ i)) fun _ =>
    kept_bind kept_get fun _ => kept_ite (followFar_kept i) (kept_pure _)) (answer_kept _)

theorem testPost_kept (i : Fin 256) : (testPost i).Keeps State.Kept :=
  kept_bind (readPost_kept i) fun _ => kept_ite (answer_kept _) <| kept_ite (answer_kept _) <|
    kept_bind (answer_kept _) fun _ => kept_bind (kept_modify fun s => setPost_kept s i _) fun _ => pend_kept i _ _

theorem clearSegment_kept (g : Fin 8) : (clearSegment g).Keeps State.Kept :=
  kept_bind kept_get fun _ => kept_ite (kept_bind (answer_kept _) fun _ =>
    kept_bind (kept_modify fun s => setSegmentTimers_kept s g _) fun _ => enterSweep_kept g) (answer_kept _)

theorem inhibitSegment_kept (g : Fin 8) : (inhibitSegment g).Keeps State.Kept :=
  kept_bind kept_get fun _ => kept_ite (answer_kept _) <| kept_bind (answer_kept _) fun _ =>
    kept_ite (leaveService_kept g _) <| kept_ite (kept_pure _) <|
      kept_modify fun s => (setSegmentTimers_kept s g _).trans (reportBoth_kept _ _)

theorem connectCall_kept (p : Fin 16) (r : Fin 64) : (connectCall p r).Keeps State.Kept :=
  kept_bind (connectRequest_kept p r) fun _ => withCall_kept fun c => by
    split
    · exact pend_kept _ _ _
    · exact kept_pure _

theorem partyLeaves_kept (p : Fin 16) (r : Fin 64) : (partyLeaves p r).Keeps State.Kept :=
  kept_bind (disconnectRequest_kept p) fun _ =>
    kept_bind (kept_modify fun s => (modifyCall_kept s r _).trans (reportCall_kept _ r)) fun _ => wrapupPosition_kept p

theorem returnOffer_kept (r : Fin 64) : (returnOffer r).Keeps State.Kept :=
  kept_bind (freeCallChannel_kept r) fun _ => kept_modify fun s => returnToQueue_kept s r

theorem openPosition_kept (p : Fin 16) : (openPosition p).Keeps State.Kept :=
  kept_bind (readPosition_kept p) fun _ => kept_ite (kept_bind (answer_kept _) fun _ =>
    kept_modify fun s => placePosition_kept s p _) (answer_kept _)

theorem closePosition_kept (p : Fin 16) : (closePosition p).Keeps State.Kept :=
  kept_bind (readPosition_kept p) fun _ => kept_ite (kept_bind (answer_kept _) fun _ =>
    kept_modify fun s => setPosition_kept s p _) (answer_kept _)

theorem acceptOffer_kept (p : Fin 16) (x : Position) (n : Nat) : (acceptOffer p x n).Keeps State.Kept :=
  kept_bind (answer_kept _) fun _ => kept_bind (removeOfferTimer_kept p) fun _ => withLive_kept n fun r _ =>
    kept_bind (kept_modify fun s => callWritten_kept s r _) fun _ =>
    kept_bind (kept_modify fun s => setPosition_kept s p _) fun _ => connectCall_kept p r

theorem refuseCall_kept (n : Nat) : (refuseCall n).Keeps State.Kept :=
  kept_bind (liveRecord_kept n) fun _ => answer_kept _

theorem acceptCall_kept (a : Fin 16 × Nat) : (acceptCall a).Keeps State.Kept :=
  kept_bind (readPosition_kept _) fun x => kept_ite (acceptOffer_kept _ x _) (by
    split
    · exact answer_kept _
    · exact answer_kept _
    · exact answer_kept _
    all_goals exact refuseCall_kept _)

theorem declineOffer_kept (p : Fin 16) (x : Position) (n : Nat) : (declineOffer p x n).Keeps State.Kept :=
  kept_bind (answer_kept _) fun _ => kept_bind (removeOfferTimer_kept p) fun _ => withLive_kept n fun r _ =>
    kept_bind (kept_modify fun s => setCall_kept s r _) fun _ => kept_bind (returnOffer_kept r) fun _ =>
    kept_modify fun s => placePosition_kept s p _

theorem declineCall_kept (a : Fin 16 × Nat) : (declineCall a).Keeps State.Kept :=
  kept_bind (readPosition_kept _) fun x => kept_ite (declineOffer_kept _ x _) <|
    kept_ite (answer_kept _) (refuseCall_kept _)

theorem releaseActive_kept (p : Fin 16) (x : Position) : (releaseActive p x).Keeps State.Kept :=
  kept_bind (currentRecord_kept x) fun o => by
    split
    · exact answer_kept _
    · exact kept_bind (answer_kept _) fun _ => kept_ite (partyLeaves_kept p _) (endCall_kept _ _)

theorem releaseDialling_kept (x : Position) : (releaseDialling x).Keeps State.Kept :=
  kept_bind (answer_kept _) fun _ => by
    split
    · exact kept_pure _
    · exact withLive_kept _ fun r _ => endCall_kept r _

theorem releasePosition_kept (p : Fin 16) : (releasePosition p).Keeps State.Kept :=
  kept_bind (readPosition_kept p) fun x => by
    split
    · exact releaseActive_kept p x
    · exact releaseDialling_kept x
    all_goals exact answer_kept _

theorem readyPosition_kept (p : Fin 16) : (readyPosition p).Keeps State.Kept :=
  kept_bind (readPosition_kept p) fun _ => kept_ite (kept_bind (answer_kept _) fun _ => freePosition_kept p) (answer_kept _)

theorem pickQueued_kept (p : Fin 16) (x : Position) (r : Fin 64) (c : Call) : (pickQueued p x r c).Keeps State.Kept :=
  kept_bind (answer_kept _) fun _ => kept_bind (reserveChannel_kept _ r) fun _ =>
    kept_bind (kept_modify fun s => takeFromQueue_kept s r p _) fun _ =>
    kept_bind (kept_modify fun s => setPosition_kept s p _) fun _ => connectCall_kept p r

theorem pickCall_kept (a : Fin 16 × Nat) : (pickCall a).Keeps State.Kept :=
  kept_bind (liveRecord_kept _) fun o => by
    split
    · exact answer_kept _
    · exact kept_bind (readPosition_kept _) fun x => kept_ite (answer_kept _) <| kept_ite (answer_kept _) <|
        kept_bind (readPost_kept _) fun _ => kept_bind kept_get fun _ => kept_ite (answer_kept _) <|
        kept_ite (answer_kept _) (pickQueued_kept _ x _ _)

theorem createCallback_kept (p : Fin 16) (x : Position) (i : Fin 256) (r : Fin 64) :
    (createCallback p x i r).Keeps State.Kept :=
  kept_bind (answer_kept _) fun _ =>
    kept_bind (kept_modify fun s => ((takeRecord_kept s r i _ _).trans (modifyCall_kept _ r _)).trans (reportCall_kept _ r))
      fun _ => kept_bind (reserveChannel_kept _ r) fun _ => withCall_kept fun _ =>
    kept_bind (kept_modify fun s => setPost_kept s i _) fun _ => kept_bind (kept_modify fun s => setPosition_kept s p _) fun _ =>
    pend_kept i _ _

theorem callbackPost_kept (a : Fin 16 × Fin 256) : (callbackPost a).Keeps State.Kept :=
  kept_bind (readPosition_kept _) fun x => kept_ite (answer_kept _) <| kept_bind (readPost_kept _) fun _ =>
    kept_bind kept_get fun _ => kept_ite (answer_kept _) <| kept_ite (answer_kept _) (by
      split
      · exact answer_kept _
      · exact createCallback_kept _ x _ _)

theorem holdActive_kept (p : Fin 16) (r : Fin 64) (c : Call) : (holdActive p r c).Keeps State.Kept :=
  kept_bind (answer_kept _) fun _ => kept_bind (kept_modify fun s => callWritten_kept s r _) fun _ =>
    kept_bind (readPost_kept _) fun _ => kept_when (farCallLeft_kept _) fun _ =>
    kept_bind (freeCallChannel_kept r) fun _ => kept_bind (readPosition_kept p) fun _ =>
    kept_bind (kept_modify fun s => placePosition_kept s p _) fun _ => pend_kept _ _ _

theorem holdCall_kept (p : Fin 16) : (holdCall p).Keeps State.Kept :=
  kept_bind (readPosition_kept p) fun x => kept_ite (kept_bind (currentRecord_kept x) fun o => by
    split
    · exact answer_kept _
    · exact kept_ite (answer_kept _) <| kept_ite (answer_kept _) <| kept_ite (answer_kept _) (holdActive_kept p _ _))
    (answer_kept _)

theorem retrieveHeld_kept (p : Fin 16) (x : Position) (r : Fin 64) (c : Call) : (retrieveHeld p x r c).Keeps State.Kept :=
  kept_bind (answer_kept _) fun _ => kept_bind (reserveChannel_kept _ r) fun _ =>
    kept_bind (kept_modify fun s => (modifyCall_kept s r _).trans (reportCall_kept _ r)) fun _ =>
    kept_bind (kept_modify fun s => setPosition_kept s p _) fun _ => connectCall_kept p r

theorem retrieveCall_kept (a : Fin 16 × Nat) : (retrieveCall a).Keeps State.Kept :=
  kept_bind (liveRecord_kept _) fun o => by
    split
    · exact answer_kept _
    · exact kept_ite (answer_kept _) <| kept_bind (readPosition_kept _) fun x => kept_bind kept_get fun _ =>
        kept_ite (answer_kept _) <| kept_ite (answer_kept _) (retrieveHeld_kept _ x _ _)

theorem joinActive_kept (q : Fin 16) (x : Position) (r : Fin 64) (c : Call) : (joinActive q x r c).Keeps State.Kept :=
  kept_bind (answer_kept _) fun _ => kept_bind (kept_modify fun s => callWritten_kept s r _) fun _ =>
    kept_bind (kept_modify fun s => setPosition_kept s q _) fun _ => connectRequest_kept q r

theorem joinCall_kept (a : Fin 16 × Nat) : (joinCall a).Keeps State.Kept :=
  kept_bind (liveRecord_kept _) fun o => by
    split
    · exact answer_kept _
    · exact kept_bind (readPosition_kept _) fun x => kept_ite (answer_kept _) <|
        kept_ite (answer_kept _) (joinActive_kept _ x _ _)

theorem leaveCall_kept (q : Fin 16) : (leaveCall q).Keeps State.Kept :=
  kept_bind (readPosition_kept q) fun x => kept_ite (kept_bind (currentRecord_kept x) fun o => by
    split
    · exact answer_kept _
    · exact kept_ite (kept_bind (answer_kept _) fun _ => partyLeaves_kept q _) (answer_kept _)) (answer_kept _)

/-! ### The memory path -/

section Updates

variable (s : State)

theorem setAnchor_kept (n : Fin 128) (v : Word) : s.Kept (s.setAnchor n v) := kept_of_eq s rfl rfl rfl rfl rfl rfl rfl rfl

theorem parameterWritten_kept (n : Fin 128) (v : Word) : s.Kept (s.parameterWritten n v) := by
  unfold State.parameterWritten
  extract_lets c t u
  have hu : s.Kept u := by
    unfold u
    split
    · exact (setAnchor_kept s n c).trans (syncAllPolled_kept t)
    · exact setAnchor_kept s n c
  split
  · exact hu
  · exact hu.trans (setClamped_kept u true)

theorem producerWritten_kept (v : Word) : s.Kept (s.producerWritten v) := by
  unfold State.producerWritten
  split
  · exact .refl s
  · dsimp only
    split
    · exact kept_of_eq s rfl rfl rfl rfl rfl rfl rfl rfl
    · exact recordFault_kept s _ _ _ _

theorem consumerWritten_kept (v : Word) : s.Kept (s.consumerWritten v) := by
  unfold State.consumerWritten
  split
  · exact .refl s
  · split
    · exact kept_of_eq s rfl rfl rfl rfl rfl rfl rfl rfl
    · exact recordFault_kept s _ _ _ _

theorem setEntry_kept (i : Fin 256) (e : DirectoryEntry) : s.Kept (s.setEntry i e) :=
  kept_of_eq s rfl rfl rfl rfl rfl rfl rfl rfl

theorem slotWritten_kept (k : Fin 64) (n : Fin 8) (en : Enables) (v : Word) : s.Kept (s.slotWritten k n en v) :=
  kept_of_eq s rfl rfl rfl rfl rfl rfl rfl rfl

end Updates

theorem anchorWritten_kept (n : Fin 128) (v : Word) : (anchorWritten n v).Keeps State.Kept :=
  kept_ite (kept_bind (kept_modify fun s => setAnchor_kept s n v) fun _ => controlWritten_kept) <|
    kept_ite (kept_modify fun s => parameterWritten_kept s n v) <|
    kept_ite (kept_modify fun s => (setAnchor_kept s n v).trans (producerWritten_kept _ v)) <|
    kept_ite (kept_modify fun s => (setAnchor_kept s n v).trans (consumerWritten_kept _ v))
      (kept_modify fun s => setAnchor_kept s n v)

theorem directoryWritten_kept (i : Fin 256) (n : Fin 8) (v : Word) : (directoryWritten i n v).Keeps State.Kept :=
  Op.keeps_get_bind _ fun s => kept_set_bind (setEntry_kept s i _) <| kept_ite (kept_bind (readPost_kept i) fun _ =>
    kept_modify fun s => (syncPolled_kept s i).trans (writeJudged_kept _ i _ _)) (kept_pure _)

theorem snoop_kept (a : Nat) (v : Word) (en : Enables) : (snoop a v en).Keeps State.Kept :=
  kept_bind kept_get fun s => by
    split
    · exact anchorWritten_kept _ _
    · exact directoryWritten_kept _ _ _
    · exact kept_modify fun s => slotWritten_kept s _ _ en v
    · exact kept_pure _

theorem flushWriter_kept (w : Writer) : (flushWriter w).Keeps State.Kept := by
  cases w with
  | report => exact flushReports_kept
  | taker => exact kept_modify flushTaker_kept
  | engine => exact kept_modify fun s => engineWrites_kept s []

theorem windowSetReleased_kept : windowSetReleased.Keeps State.Kept := kept_modify fun s => by
  split
  · exact kept_of_eq s rfl rfl rfl rfl rfl rfl rfl rfl
  · exact .refl s

theorem commandEvent_kept (i : Instr) : (commandEvent i).Keeps State.Kept := by
  unfold commandEvent
  split
  case h_1 => exact command_kept _ isolatePost_kept
  case h_2 => exact command_kept _ restorePost_kept
  case h_3 => exact command_kept _ testPost_kept
  case h_4 => exact command_kept _ clearSegment_kept
  case h_5 => exact command_kept _ inhibitSegment_kept
  case h_6 => exact command_kept _ dropCall_kept
  case h_7 => exact command_kept _ closeIncident_kept
  case h_8 => exact command_kept _ openPosition_kept
  case h_9 => exact command_kept _ closePosition_kept
  case h_10 => exact command_kept _ acceptCall_kept
  case h_11 => exact command_kept _ declineCall_kept
  case h_12 => exact command_kept _ releasePosition_kept
  case h_13 => exact command_kept _ readyPosition_kept
  case h_14 => exact command_kept _ pickCall_kept
  case h_15 => exact command_kept _ callbackPost_kept
  case h_16 => exact command_kept _ holdCall_kept
  case h_17 => exact command_kept _ retrieveCall_kept
  case h_18 => exact command_kept _ joinCall_kept
  case h_19 => exact command_kept _ leaveCall_kept
  all_goals exact answer_kept _

theorem judgeSlot_kept (sl : Slot) : (judgeSlot sl).Keeps State.Kept :=
  kept_ite (by
    split
    · exact answer_kept _
    · exact commandEvent_kept _) (answer_kept _)

theorem answerSlot_kept (k : Fin 64) (s : State) : s.Kept (s.answerSlot k) := by
  refine .trans ?_ (flushTaker_kept _)
  exact kept_of_eq s rfl rfl rfl rfl rfl rfl rfl rfl

theorem takeCommand_kept (s : State) : s.Kept s.takeCommand := by
  unfold State.takeCommand
  split
  · exact .refl s
  · dsimp only
    split
    · refine .trans (.trans ?_ (followUp_kept _)) (answerSlot_kept _ _)
      exact kept_of_eq s rfl rfl rfl rfl rfl rfl rfl rfl
    · exact (runEvent_kept (judgeSlot_kept _) s).trans (answerSlot_kept _ _)

/-! ### Start-up, the restart and the failure clear -/

section Updates

variable (s : State)

theorem actOnStart_kept : actOnStart.Keeps State.Kept := kept_modify fun s => by
  split
  · refine .trans ?_ (setEngineState_kept _ _)
    exact kept_of_eq s rfl rfl rfl rfl rfl rfl rfl rfl
  · exact .refl s

theorem anchorInvalid_kept (reason : AnchorReason) : s.Kept (s.anchorInvalid reason) := by
  refine .trans ?_ (setEngineState_kept _ _)
  exact kept_of_eq s rfl rfl rfl rfl rfl rfl rfl rfl

theorem anchorValid_kept : s.Kept s.anchorValid := by
  unfold State.anchorValid
  extract_lets changed a _ _ t u v w
  have ht : s.Kept t := kept_of_eq s rfl rfl rfl rfl rfl rfl rfl rfl
  have hu : t.Kept u := by
    unfold u
    split
    · exact writeStateWord_kept t
    · exact .refl t
  have hw : v.Kept w := by
    unfold w
    split
    · exact .refl v
    · exact setClamped_kept v true
  exact (((ht.trans hu).trans (setClamped_kept u false)).trans hw).trans (beginDirectoryRead_kept w _)

theorem readDone_kept : s.Kept s.readDone := kept_of_eq s rfl rfl rfl rfl rfl rfl rfl rfl

theorem anchorRead_kept : anchorRead.Keeps State.Kept := kept_modify fun s => by
  split
  · extract_lets t _ u
    have hu : s.Kept u := kept_of_eq s rfl rfl rfl rfl rfl rfl rfl rfl
    split
    · exact hu.trans (anchorValid_kept u)
    · exact hu.trans (anchorInvalid_kept u _)
  · exact .refl s

theorem loadDirectory_kept : s.Kept s.loadDirectory := by
  unfold State.loadDirectory
  dsimp only
  split
  · exact readDone_kept s
  · exact (readDone_kept s).trans (kept_of_eq _ rfl rfl rfl rfl rfl rfl rfl rfl)

theorem setCommandIndices_kept : s.Kept s.setCommandIndices := by
  refine .trans ?_ (engineWrites_kept _ _)
  exact kept_of_eq s rfl rfl rfl rfl rfl rfl rfl rfl

theorem setEventIndices_kept : s.Kept s.setEventIndices := by
  refine .trans ?_ (engineWrites_kept _ _)
  exact kept_of_eq s rfl rfl rfl rfl rfl rfl rfl rfl

theorem clearRestartCount_kept : s.Kept s.clearRestartCount := by
  unfold State.clearRestartCount
  split
  · exact .refl s
  · refine .trans (.trans ?_ (writeStateWord_kept _)) (reportEngine_kept _)
    exact kept_of_eq s rfl rfl rfl rfl rfl rfl rfl rfl

theorem startRecords_kept : s.Kept s.startRecords := by
  unfold State.startRecords
  extract_lets _ _ _ t
  have ht : s.Kept t := ⟨rfl, rfl, rfl, fun _ => rfl, id, id, id, fun _ => List.nodup_nil⟩
  exact (ht.trans (syncAllPolled_kept t)).trans (clearRestartCount_kept _)

theorem writeBoard_kept : s.Kept s.writeBoard := by
  unfold State.writeBoard
  split
  · exact .refl s
  · exact engineWrites_kept s _

/-- The report list that start-up keeps holds no object twice where the list before held none. -/
theorem faultMarks_wf (l : List ReportEntry) (h : ReportsWf l) :
    ReportsWf ((l.filter fun e => e.fault).map ReportEntry.faultOnly) := by
  have hsame : (fun e : ReportEntry => e.object) ∘ ReportEntry.faultOnly = fun e => e.object := rfl
  simpa only [ReportsWf, List.map_map, hsame] using h.sublist (List.filter_sublist.map _)

theorem keepFaultMarks_kept : s.Kept s.keepFaultMarks := by
  unfold State.keepFaultMarks
  extract_lets _ t
  have hmarks : s.Kept { s with reports := { s.reports with
      list := (s.reports.list.filter fun e => e.fault).map ReportEntry.faultOnly } } :=
    ⟨rfl, rfl, rfl, fun _ => rfl, id, id, faultMarks_wf _, id⟩
  have ht : s.Kept t := hmarks.trans (relistFaults_kept _)
  clear_value t
  exact ht.trans (kept_of_eq t rfl rfl rfl rfl rfl rfl rfl rfl)

end Updates

theorem sweepUsed_kept : sweepUsed.Keeps State.Kept := kept_bind kept_get fun _ => kept_forM enterSweep_kept _

theorem directoryRead_kept : directoryRead.Keeps State.Kept :=
  Op.keeps_get_bind _ fun s => by
    split
    · exact kept_set_bind ((((((loadDirectory_kept s).trans (setCommandIndices_kept _)).trans (setEventIndices_kept _)).trans
        (startRecords_kept _)).trans (writeBoard_kept _)).trans (keepFaultMarks_kept _)) <|
        kept_bind sweepUsed_kept fun _ => kept_bind (kept_modify fun s => setEngineState_kept s _) fun _ =>
        kept_bind kept_get fun _ => kept_ite (kept_pure _) enterStopping_kept
    · exact .refl s

theorem returnToRun_kept (s : State) : s.Kept s.returnToRun := by
  have h := sweepUsed_kept s
  unfold Op.leaves at h
  unfold State.returnToRun
  split
  next t ht =>
    rw [ht] at h
    exact h.trans (setEngineState_kept t _)
  next f t ht =>
    rw [ht] at h
    exact (h.trans (classB_kept f t)).trans (enterFailed_kept _)

theorem restartEnds_kept : restartEnds.Keeps State.Kept :=
  Op.keeps_get_bind _ fun s => by
    split
    · exact enterFailed_kept s
    · split
      · exact returnToRun_kept s
      · exact kept_set_bind (inhibitUsed_kept s) enterStopping_kept

theorem restartBoard_kept (s : State) : s.Kept s.restartBoard := by
  refine .trans ((writeBoard_kept s).trans (report_kept _ .engine false true false)) ?_
  exact kept_of_eq _ rfl rfl rfl rfl rfl rfl rfl rfl

theorem resumeTaker_kept (s : State) : s.Kept s.resumeTaker :=
  (flushTaker_kept s).trans (kept_of_eq _ rfl rfl rfl rfl rfl rfl rfl rfl)

theorem reloaded_kept : reloaded.Keeps State.Kept :=
  Op.keeps_get_bind _ fun s => by
    split
    · exact kept_set_bind ((((loadDirectory_kept s).trans (syncAllPolled_kept _)).trans (resumeTaker_kept _)).trans
        (restartBoard_kept _)) restartEnds_kept
    · exact .refl s

/-! ### The timers -/

theorem deglitchExpires_kept (l : LineId) : (deglitchExpires l).Keeps State.Kept :=
  Op.keeps_get_bind _ fun s => by
    split
    · exact kept_set_bind (updateEnd_kept s l _ fun _ => rfl) (segmentFault_kept l _)
    · exact .refl s

theorem retryExpires_kept (g : Fin 8) : (retryExpires g).Keeps State.Kept :=
  Op.keeps_get_bind _ fun s => by
    dsimp only
    split
    · split
      · exact enterSweep_kept g s
      · exact kept_set (setSegmentTimers_kept s g _)
    · exact .refl s

theorem stableExpires_kept (g : Fin 8) : (stableExpires g).Keeps State.Kept :=
  Op.keeps_get_bind _ fun s => by
    dsimp only
    split
    · exact kept_set ((setSegmentTimers_kept s g _).trans (reportBoth_kept _ _))
    · exact .refl s

theorem restoreExpires_kept (g : Fin 8) : (restoreExpires g).Keeps State.Kept :=
  Op.keeps_get_bind _ fun s => by
    split
    · split
      · exact kept_set_bind (setBreak_kept s g _) (kept_ite (kept_modify fun s => updateLine_kept s _ _) (kept_pure _))
      · exact .refl s
    · exact .refl s

theorem reannounceExpires_kept : reannounceExpires.Keeps State.Kept :=
  Op.keeps_get_bind _ fun s => by
    split
    · refine kept_set_bind (kept_of_eq s rfl rfl rfl rfl rfl rfl rfl rfl) (kept_forM (fun r => ?_) _)
      exact withCall_kept fun _ => pend_kept _ _ _
    · exact .refl s

theorem windowExpires_kept (k : Fin 16) : (windowExpires k).Keeps State.Kept :=
  kept_bind kept_get fun s => kept_ite (kept_bind (readIncident_kept k) fun o => by
    cases o with
    | none => exact kept_pure _
    | some x => exact kept_modify fun s => incidentWritten_kept s k _) (kept_pure _)

theorem positionTimer_kept (p : Fin 16) (st : PositionState) (timer : Position → Option Time) {act : Position → Op Unit}
    (h : ∀ x, (act x).Keeps State.Kept) : (positionTimer p st timer act).Keeps State.Kept :=
  kept_bind kept_get fun _ => kept_ite (kept_bind (readPosition_kept p) h) (kept_pure _)

theorem offerExpires_kept (p : Fin 16) : (offerExpires p).Keeps State.Kept :=
  positionTimer_kept p _ _ fun x => kept_bind (removeOfferTimer_kept p) fun _ => kept_bind kept_get fun s => by
    split
    · exact kept_pure _
    · exact withCall_kept fun c => kept_bind (returnOffer_kept _) fun _ => kept_modify fun s => placePosition_kept s p _

theorem wrapExpires_kept (p : Fin 16) : (wrapExpires p).Keeps State.Kept :=
  positionTimer_kept p _ _ fun _ => freePosition_kept p

theorem ringExpires_kept (p : Fin 16) : (ringExpires p).Keeps State.Kept :=
  positionTimer_kept p _ _ fun x => kept_bind (removeRingTimer_kept p) fun _ => kept_bind kept_get fun s => by
    split
    · exact kept_pure _
    · exact endCall_kept _ _

/-! ### Rows that write memory -/

/-- An event that reads its inputs only: what it keeps where it may write bytes of memory. -/
structure State.InForm (s t : State) : Prop where
  pending : t.pending = s.pending
  time : t.time = s.time
  inputs : ∀ l, (t.segmentEnd l).overCurrent = (s.segmentEnd l).overCurrent
  memory : Memory.wf s.mem = true → Memory.wf t.mem = true
  queue : QueueWf s.path.queue → QueueWf t.path.queue
  reports : ReportsWf s.reports.list → ReportsWf t.reports.list
  deferrals : DeferralsWf s.calls.deferrals → DeferralsWf t.calls.deferrals

theorem State.Kept.inForm {s t : State} (h : s.Kept t) : s.InForm t :=
  ⟨h.pending, h.time, h.inputs, fun hm => by rwa [h.mem], h.queue, h.reports, h.deferrals⟩

theorem State.InForm.trans {s t u : State} (h : s.InForm t) (k : t.InForm u) : s.InForm u where
  pending := k.pending.trans h.pending
  time := k.time.trans h.time
  inputs l := (k.inputs l).trans (h.inputs l)
  memory := k.memory ∘ h.memory
  queue := k.queue ∘ h.queue
  reports := k.reports ∘ h.reports
  deferrals := k.deferrals ∘ h.deferrals

theorem State.InForm.trans_of (s t u : State) (h : s.InForm t) (k : t.InForm u) : s.InForm u := h.trans k

/-- Bytes written keep the canonical form of memory, whatever else of the memory path changes but the queue. -/
theorem inForm_memory {s t : State} (a : Nat) (en : Enables) (v : Word) (hm : t.mem = Memory.write s.mem a en v)
    (hp : t.pending = s.pending) (ht : t.time = s.time) (he : t.ends = s.ends) (hq : t.path.queue = s.path.queue)
    (hr : t.reports.list = s.reports.list) (hd : t.calls.deferrals = s.calls.deferrals) : s.InForm t where
  pending := hp
  time := ht
  inputs l := by simp only [State.segmentEnd, he]
  memory h := hm ▸ Memory.write_wf a en v h
  queue h := hq ▸ h
  reports h := hr ▸ h
  deferrals h := hd ▸ h

theorem serveWrite_inForm (a : BitVec 24) (v : Word) (en : Enables) : (serveWrite a v en).Keeps State.InForm :=
  Op.keeps_get_bind _ fun s => by
    dsimp only
    split
    · exact (State.Kept.refl s).inForm
    · split
      · exact (recordFault_kept s _ _ _ _).inForm
      · exact .trans (inForm_memory (t := { s with mem := Memory.write s.mem (wordAddress a) en v }) _ en v rfl rfl rfl rfl rfl
          rfl rfl) (snoop_kept _ _ _ _).inForm

theorem serveAccess_inForm (x : HostAccess) : (serveAccess x).Keeps State.InForm :=
  Op.keeps_bind State.InForm.trans_of _ _
    (fun s => (kept_of_eq s (t := s.accessDone) rfl rfl rfl rfl rfl rfl rfl rfl).inForm) fun _ => by
    cases x with
    | read a en => exact fun s => (kept_of_eq s (t := s.serveRead a en) rfl rfl rfl rfl rfl rfl rfl rfl).inForm
    | write a v en => exact serveWrite_inForm a v en

theorem grantRead_kept (s : State) : s.Kept s.grantRead := by
  unfold State.grantRead
  split
  · exact kept_of_eq s rfl rfl rfl rfl rfl rfl rfl rfl
  · exact .refl s

theorem serveHeldList_inForm : ∀ (l : List HostAccess) (s : State), s.InForm (State.serveHeldList l s)
  | [], s => (State.Kept.refl s).inForm
  | x :: rest, s => by
    unfold State.serveHeldList
    split
    · exact (State.Kept.refl s).inForm
    · have hrest : s.grantRead.InForm { s.grantRead with path := { s.grantRead.path with heldAccesses := rest } } :=
        ⟨rfl, rfl, fun _ => rfl, id, id, id, id⟩
      exact (((grantRead_kept s).inForm.trans hrest).trans (settle_keeps State.InForm.trans_of _ (serveAccess_inForm x)
        (fun s f => (classB_kept f s).inForm) _)).trans (serveHeldList_inForm rest _)

theorem serveHeld_inForm (s : State) : s.InForm s.serveHeld := serveHeldList_inForm _ s

theorem hostAccess_inForm (x : HostAccess) (s : State) : s.InForm (s.hostAccess x) :=
  have hheld : s.InForm (s.holdAccess x) := ⟨rfl, rfl, fun _ => rfl, id, id, id, id⟩
  hheld.trans (serveHeld_inForm _)

/-- A host access, with what follows it. -/
theorem hostAccess_followUp_inForm (x : HostAccess) (s : State) : s.InForm (s.hostAccess x).followUp :=
  (hostAccess_inForm x s).trans (followUp_kept _).inForm

/-- The writers that wait append what they can once the head of the queue is in memory (R11). -/
theorem flushWriters_kept (ws : List Writer) (s : State) : s.Kept (ws.foldl (fun s w => s.settle (flushWriter w)) s) :=
  kept_foldl (fun s w => settle_kept (flushWriter_kept w) s) ws s

theorem queueHeadWritten_inForm (first : Writer) (s : State) : s.InForm (s.queueHeadWritten first) := by
  unfold State.queueHeadWritten
  split
  · exact (State.Kept.refl s).inForm
  · next e rest hq =>
    extract_lets _ t
    have ht : s.InForm t := ⟨rfl, rfl, fun _ => rfl, Memory.write_wf e.address bothLanes e.value,
      fun h => (hq ▸ h : QueueWf (e :: rest)).tail, id, id⟩
    exact (ht.trans (flushWriters_kept _ t).inForm).trans (serveHeld_inForm _)

theorem writeMemory_inForm (s : State) (a : Nat) (v : Word) : s.InForm (s.writeMemory a v) :=
  inForm_memory a bothLanes v rfl rfl rfl rfl rfl rfl rfl

theorem writeRestartArea_inForm (s : State) : s.InForm s.writeRestartArea := by
  unfold State.writeRestartArea
  exact keeps_foldl (fun s => (State.Kept.refl s).inForm) State.InForm.trans_of _
    (fun s n => writeMemory_inForm s _ _) _ s

theorem drained_inForm : drained.Keeps State.InForm := Op.keeps_modify _ fun s => by
  split
  · refine .trans (State.Kept.inForm ?_) (writeRestartArea_inForm _)
    exact kept_of_eq s rfl rfl rfl rfl rfl rfl rfl rfl
  · exact (State.Kept.refl s).inForm

theorem areaWritten_inForm (s : State) : s.InForm s.areaWritten := by
  unfold State.areaWritten
  split
  · refine .trans (State.Kept.inForm ?_) (serveHeld_inForm _)
    exact kept_of_eq s rfl rfl rfl rfl rfl rfl rfl rfl
  · exact (State.Kept.refl s).inForm

theorem readEnds_inForm {op : Op Unit} (h : op.Keeps State.Kept) (s : State) : s.InForm (s.readEnds op) :=
  (((settle_kept h s).inForm).trans (serveHeld_inForm _)).trans (followUp_kept _).inForm

end Sys2Proof.Machine
end

section
/-! SUPPORT. What every command keeps, row by row (O2 to O6): each command ends in a next state that keeps what an event keeps,
from the state that its own move of the time base, of an input or of all blocks leaves. -/

namespace Sys2Proof.Machine

/-- What a row itself does to the time base, to an over-current input or, at power-on reset, to every block; all else a row does
keeps the time base and the inputs. -/
def State.rowStart (s : State) : Instr → State
  | .powerOnReset => s.powerOn
  | .timeBaseTick => s.tick
  | .overCurrentAssert l => s.updateEnd l fun e => { e with overCurrent := true }
  | .overCurrentClear l => s.updateEnd l fun e => { e with overCurrent := false, state := .clear, deglitch := none }
  | _ => s

/-- The over-current input of a line after a row's own move. -/
theorem powerOn_overCurrent (s : State) (l : LineId) : (s.powerOn.segmentEnd l).overCurrent = (s.segmentEnd l).overCurrent := by
  simp [State.powerOn, State.segmentEnd, LineEnd.atReset]

theorem lineIndex_injective {k l : LineId} (h : lineIndex k = lineIndex l) : k = l := by
  obtain ⟨g, a⟩ := k
  obtain ⟨g', b⟩ := l
  simp only [lineIndex, Fin.mk.injEq] at h
  have hside : a = b := by cases a <;> cases b <;> simp_all <;> omega
  subst hside
  simp only [LineId.mk.injEq, and_true, Fin.ext_iff]
  omega

/-- A change of an end leaves every other line's end as it was. -/
theorem updateEnd_segmentEnd_ne (s : State) {k l : LineId} (f : LineEnd → LineEnd) (h : k ≠ l) :
    (s.updateEnd l f).segmentEnd k = s.segmentEnd k := by
  rw [updateEnd_segmentEnd, if_neg fun hi => h (lineIndex_injective hi)]

section Rows

variable (c : Instr) (s : State)

theorem rowStart_pending : (s.rowStart c).pending = s.pending := by unfold State.rowStart; split <;> rfl

theorem rowStart_mem : (s.rowStart c).mem = s.mem := by unfold State.rowStart; split <;> rfl

theorem rowStart_time : (s.rowStart c).time = if c = .powerOnReset then 0 else if c = .timeBaseTick then s.time + 1 else s.time := by
  cases c <;> rfl

theorem rowStart_inputs (l : LineId) (ha : c ≠ .overCurrentAssert l) (hc : c ≠ .overCurrentClear l) :
    ((s.rowStart c).segmentEnd l).overCurrent = (s.segmentEnd l).overCurrent := by
  unfold State.rowStart
  split
  case h_1 => exact powerOn_overCurrent s l
  case h_3 k => rw [updateEnd_segmentEnd_ne s _ fun h => ha (by rw [h])]
  case h_4 k => rw [updateEnd_segmentEnd_ne s _ fun h => hc (by rw [h])]
  all_goals rfl

/-- Power-on reset leaves the queue with the state word, and both lists empty. -/
theorem rowStart_queue (h : QueueWf s.path.queue) : QueueWf (s.rowStart c).path.queue := by
  unfold State.rowStart
  split
  case h_1 => exact ⟨Nat.le_add_left 1 31, List.nodup_singleton _⟩
  all_goals exact h

theorem rowStart_reports (h : ReportsWf s.reports.list) : ReportsWf (s.rowStart c).reports.list := by
  unfold State.rowStart
  split
  case h_1 => exact List.nodup_nil
  all_goals exact h

theorem rowStart_deferrals (h : DeferralsWf s.calls.deferrals) : DeferralsWf (s.rowStart c).calls.deferrals := by
  unfold State.rowStart
  split
  case h_1 => exact List.nodup_nil
  all_goals exact h

theorem overCurrentOn_kept (l : LineId) (s : State) :
    (s.updateEnd l fun e => { e with overCurrent := true }).Kept (s.runEvent (overCurrentOn l)) := by
  refine .trans ?_ (followUp_kept _)
  change State.Kept _ (if _ then _ else _)
  split
  · exact watchEnd_kept _ l
  · exact .refl _

theorem overCurrentOff_kept (l : LineId) (s : State) :
    (s.updateEnd l fun e => { e with overCurrent := false, state := .clear, deglitch := none }).Kept
      (s.runEvent (overCurrentOff l)) := followUp_kept _

/-- A row that writes no memory keeps memory too. -/
theorem exec_kept (h : writesMemory c = false) : ∃ t, exec c s = .next t ∧ (s.rowStart c).Kept t := by
  cases c with
  | powerOnReset => exact ⟨_, rfl, .refl _⟩
  | hostResetLine => exact ⟨_, rfl, rfl, rfl, rfl, fun _ => rfl, fun _ => rfl, id, id, id⟩
  | timeBaseTick => exact ⟨_, rfl, .refl _⟩
  | windowSetRelease => exact ⟨_, rfl, runEvent_kept windowSetReleased_kept s⟩
  | startUp => exact ⟨_, rfl, runEvent_kept actOnStart_kept s⟩
  | commandTake => exact ⟨_, rfl, takeCommand_kept s⟩
  | isolatePost g d => exact ⟨_, rfl, runEvent_kept (command_kept _ isolatePost_kept) s⟩
  | restorePost g d => exact ⟨_, rfl, runEvent_kept (command_kept _ restorePost_kept) s⟩
  | testPost g d => exact ⟨_, rfl, runEvent_kept (command_kept _ testPost_kept) s⟩
  | clearSegment g => exact ⟨_, rfl, runEvent_kept (command_kept _ clearSegment_kept) s⟩
  | inhibitSegment g => exact ⟨_, rfl, runEvent_kept (command_kept _ inhibitSegment_kept) s⟩
  | dropCall n => exact ⟨_, rfl, runEvent_kept (command_kept _ dropCall_kept) s⟩
  | closeIncident n => exact ⟨_, rfl, runEvent_kept (command_kept _ closeIncident_kept) s⟩
  | openPosition p => exact ⟨_, rfl, runEvent_kept (command_kept _ openPosition_kept) s⟩
  | closePosition p => exact ⟨_, rfl, runEvent_kept (command_kept _ closePosition_kept) s⟩
  | accept p n => exact ⟨_, rfl, runEvent_kept (command_kept _ acceptCall_kept) s⟩
  | decline p n => exact ⟨_, rfl, runEvent_kept (command_kept _ declineCall_kept) s⟩
  | release p => exact ⟨_, rfl, runEvent_kept (command_kept _ releasePosition_kept) s⟩
  | ready p => exact ⟨_, rfl, runEvent_kept (command_kept _ readyPosition_kept) s⟩
  | pick p n => exact ⟨_, rfl, runEvent_kept (command_kept _ pickCall_kept) s⟩
  | callback p g d => exact ⟨_, rfl, runEvent_kept (command_kept _ callbackPost_kept) s⟩
  | hold p => exact ⟨_, rfl, runEvent_kept (command_kept _ holdCall_kept) s⟩
  | retrieve p n => exact ⟨_, rfl, runEvent_kept (command_kept _ retrieveCall_kept) s⟩
  | join p n => exact ⟨_, rfl, runEvent_kept (command_kept _ joinCall_kept) s⟩
  | leave p => exact ⟨_, rfl, runEvent_kept (command_kept _ leaveCall_kept) s⟩
  | chooseNextExchange l => exact ⟨_, rfl, runEvent_kept (chooseNext_kept l) s⟩
  | telegramSent l => exact ⟨_, rfl, runEvent_kept (telegramTransmitted_kept l) s⟩
  | arbitrationField l n => exact ⟨_, rfl, runEvent_kept (readArbitration_kept l n) s⟩
  | ident l d ps k => exact ⟨_, rfl, runEvent_kept (receiveTelegram_kept l _) s⟩
  | status l d ps k => exact ⟨_, rfl, runEvent_kept (receiveTelegram_kept l _) s⟩
  | done l d ps k => exact ⟨_, rfl, runEvent_kept (receiveTelegram_kept l _) s⟩
  | request l d ps k => exact ⟨_, rfl, runEvent_kept (receiveTelegram_kept l _) s⟩
  | checkFailure l bs => exact ⟨_, rfl, runEvent_kept (receiveTelegram_kept l _) s⟩
  | wrongResponder l bs => exact ⟨_, rfl, runEvent_kept (receiveTelegram_kept l _) s⟩
  | strayTelegram l bs => exact ⟨_, rfl, runEvent_kept (receiveTelegram_kept l _) s⟩
  | replyTimeExpiry l => exact ⟨_, rfl, runEvent_kept (replyTimeOut_kept l) s⟩
  | overCurrentAssert l => exact ⟨_, rfl, overCurrentOn_kept l s⟩
  | overCurrentClear l => exact ⟨_, rfl, overCurrentOff_kept l s⟩
  | deglitchTimerExpiry l => exact ⟨_, rfl, runEvent_kept (deglitchExpires_kept l) s⟩
  | retryTimerExpiry g => exact ⟨_, rfl, runEvent_kept (retryExpires_kept g) s⟩
  | stableTimerExpiry g => exact ⟨_, rfl, runEvent_kept (stableExpires_kept g) s⟩
  | restoreTimerExpiry g => exact ⟨_, rfl, runEvent_kept (restoreExpires_kept g) s⟩
  | reAnnouncementTimerExpiry => exact ⟨_, rfl, runEvent_kept reannounceExpires_kept s⟩
  | windowTimerExpiry k => exact ⟨_, rfl, runEvent_kept (windowExpires_kept k) s⟩
  | offerTimerExpiry p => exact ⟨_, rfl, runEvent_kept (offerExpires_kept p) s⟩
  | wrapTimerExpiry p => exact ⟨_, rfl, runEvent_kept (wrapExpires_kept p) s⟩
  | ringTimerExpiry p => exact ⟨_, rfl, runEvent_kept (ringExpires_kept p) s⟩
  | serveReportEntry => exact ⟨_, rfl, runEvent_kept serveEntry_kept s⟩
  | _ => cases h

/-- A row that writes memory moves neither the time base nor an input, and keeps memory's canonical form. -/
theorem exec_inForm_of_writes (h : writesMemory c = true) : ∃ t, exec c s = .next t ∧ (s.rowStart c).InForm t := by
  cases c with
  | hostRead a en => exact ⟨_, rfl, hostAccess_followUp_inForm _ s⟩
  | hostWrite a v en => exact ⟨_, rfl, hostAccess_followUp_inForm _ s⟩
  | runWrite en => exact ⟨_, rfl, hostAccess_followUp_inForm _ s⟩
  | stopWrite v en => exact ⟨_, rfl, hostAccess_followUp_inForm _ s⟩
  | parameterWrite a v en => exact ⟨_, rfl, hostAccess_followUp_inForm _ s⟩
  | commandSlotWrite a v en => exact ⟨_, rfl, hostAccess_followUp_inForm _ s⟩
  | commandProducerWrite v en => exact ⟨_, rfl, hostAccess_followUp_inForm _ s⟩
  | eventConsumerWrite v en => exact ⟨_, rfl, hostAccess_followUp_inForm _ s⟩
  | directoryWrite a v en => exact ⟨_, rfl, hostAccess_followUp_inForm _ s⟩
  | queueHeadWrite w => exact ⟨_, rfl, (queueHeadWritten_inForm w s).trans (followUp_kept _).inForm⟩
  | anchorReadDone => exact ⟨_, rfl, readEnds_inForm anchorRead_kept s⟩
  | directoryReadDone => exact ⟨_, rfl, readEnds_inForm directoryRead_kept s⟩
  | drainEnd => exact ⟨_, rfl, (drained_inForm s).trans (followUp_kept _).inForm⟩
  | restartAreaWritten => exact ⟨_, rfl, (areaWritten_inForm s).trans (followUp_kept _).inForm⟩
  | restartReloadDone => exact ⟨_, rfl, readEnds_inForm reloaded_kept s⟩
  | _ => cases h

/-- Every command completes, and from its own move on keeps what every event keeps. -/
theorem exec_inForm : ∃ t, exec c s = .next t ∧ (s.rowStart c).InForm t := by
  cases h : writesMemory c with
  | true => exact exec_inForm_of_writes c s h
  | false =>
    obtain ⟨t, ht, hk⟩ := exec_kept c s h
    exact ⟨t, ht, hk.inForm⟩

variable {c s}

theorem inForm_of_exec {t : State} (h : exec c s = .next t) : (s.rowStart c).InForm t := by
  obtain ⟨u, hu, hform⟩ := exec_inForm c s
  obtain rfl : u = t := by simpa only [hu, Host.Outcome.next.injEq] using h
  exact hform

theorem kept_of_exec {t : State} (hc : writesMemory c = false) (h : exec c s = .next t) : (s.rowStart c).Kept t := by
  obtain ⟨u, hu, hkept⟩ := exec_kept c s hc
  obtain rfl : u = t := by simpa only [hu, Host.Outcome.next.injEq] using h
  exact hkept

/-- One step leaves the state as it is, or carries out the front command. -/
theorem step_cases {t : State} (h : step s = .next t) :
    t = s ∨ ∃ c rest, s.pending = c :: rest ∧ (State.rowStart { s with pending := rest } c).InForm t := by
  unfold step at h
  split at h
  case h_1 => exact .inl (Host.Outcome.next.inj h).symm
  case h_2 c rest hp => exact .inr ⟨c, rest, hp, inForm_of_exec h⟩

end Rows

/-- Settles O4: each row keeps the canonical form, and a step is one row or none. -/
theorem stepKeepsMemoryCanonical : Obligations.StepKeepsMemoryCanonical := by
  unfold Obligations.StepKeepsMemoryCanonical
  intro s t hs hstep
  obtain rfl | ⟨c, rest, -, hform⟩ := step_cases hstep
  · exact hs
  · exact hform.memory (by rwa [rowStart_mem])

/-- Settles O5: each row keeps the queue in form, also the reset, which leaves the state word alone in it. -/
theorem stepKeepsWriteBackQueueInForm : Obligations.StepKeepsWriteBackQueueInForm := by
  unfold Obligations.StepKeepsWriteBackQueueInForm
  intro s t hs hstep
  obtain rfl | ⟨c, rest, -, hform⟩ := step_cases hstep
  · exact hs
  · exact hform.queue (rowStart_queue c _ hs)

/-- Settles O6: each row keeps both lists free of repetition. -/
theorem stepKeepsReportAndDeferralListsDistinct : Obligations.StepKeepsReportAndDeferralListsDistinct := by
  unfold Obligations.StepKeepsReportAndDeferralListsDistinct
  intro s t hr hd hstep
  obtain rfl | ⟨c, rest, -, hform⟩ := step_cases hstep
  · exact ⟨hr, hd⟩
  · exact ⟨hform.reports (rowStart_reports c _ hr), hform.deferrals (rowStart_deferrals c _ hd)⟩

/-- Settles O2: no arm of exec ends in a fault or a refusal, and only two rows move the time base. -/
theorem everyCommandKeepsQueueAndTimeBase : Obligations.EveryCommandKeepsQueueAndTimeBase := by
  unfold Obligations.EveryCommandKeepsQueueAndTimeBase
  intro c s
  obtain ⟨t, ht, hform⟩ := exec_inForm c s
  exact ⟨t, ht, hform.pending.trans (rowStart_pending c s), hform.time.trans (rowStart_time c s)⟩

/-- Settles O3: the rows that write no memory keep it, and a row moves the input of its own line alone. -/
theorem memoryAndInputsChangeOnlyByTheirRows : Obligations.MemoryAndInputsChangeOnlyByTheirRows := by
  unfold Obligations.MemoryAndInputsChangeOnlyByTheirRows
  intro c s t hexec
  exact ⟨fun hc => (kept_of_exec hc hexec).mem.trans (rowStart_mem c s),
    fun l ha hclear => ((inForm_of_exec hexec).inputs l).trans (rowStart_inputs c s l ha hclear)⟩

end Sys2Proof.Machine
end

section
/-! SUPPORT. Host accesses that are served at once: the part's grant and the arbiter's choice, the write and its snoop
(R2, R4, R9, R12, R13), and the statements about them. -/

namespace Sys2Proof.Machine

/-! ### Faults recorded -/

/-- A change reported for an object leaves an entry of that object with the marks set. -/
theorem markObject_marks (l : List ReportEntry) (o : Obj) (b e f : Bool) (now : Time) :
    ∃ y ∈ markObject l o b e f now, y.object = o ∧ (b = true → y.board = true) ∧ (e = true → y.event = true)
      ∧ (f = true → y.fault = true) := by
  unfold markObject
  split
  case isTrue h =>
    obtain ⟨y, hy, ho⟩ := List.any_eq_true.mp h
    exact ⟨_, List.mem_map_of_mem hy, by simp_all [ReportEntry.mark]⟩
  case isFalse => exact ⟨_, List.mem_append_right _ (List.mem_singleton_self _), by simp_all [ReportEntry.mark]⟩

/-- Setting marks takes no fault mark away. -/
theorem markObject_keepsFault {l : List ReportEntry} {x : Obj} (o : Obj) (b e f : Bool) (now : Time)
    (h : ∃ y ∈ l, y.object = x ∧ y.fault = true) : ∃ y ∈ markObject l o b e f now, y.object = x ∧ y.fault = true := by
  obtain ⟨y, hy, hx, hf⟩ := h
  unfold markObject
  split
  · refine ⟨_, List.mem_map_of_mem hy, ?_⟩
    split <;> simp [ReportEntry.mark, hx, hf]
  · exact ⟨y, List.mem_append_left _ hy, hx, hf⟩

section Fault

variable (k : Fin 9) (kind : FaultKind) (object : Nat) (detail : BitVec 32) (s : State)

/-- A fault recorded writes its slot and the report list, and nothing else. -/
theorem recordFault_frame : ∃ l, s.recordFault k kind object detail = { s with reports := { s.reports with
    slots := put s.reports.slots k (some (FaultRecord.next (s.reports.slots.get k) kind object detail s.time)), list := l } } := by
  unfold State.recordFault
  dsimp only
  split <;> exact ⟨_, rfl⟩

theorem recordFault_slot : (s.recordFault k kind object detail).reports.slots.get k
    = some (FaultRecord.next (s.reports.slots.get k) kind object detail s.time) := by
  obtain ⟨l, h⟩ := recordFault_frame k kind object detail s
  rw [h]
  exact put_get_self _ _ _

/-- The owner of the slot stands on the report list with its fault mark. -/
theorem recordFault_listed :
    ∃ e ∈ (s.recordFault k kind object detail).reports.list, e.object = slotOwner k ∧ e.fault = true := by
  obtain ⟨y, hy, ho, -, -, hf⟩ := markObject_marks s.reports.list (slotOwner k) false false true s.time
  have hlisted : ∃ e ∈ markObject s.reports.list (slotOwner k) false false true s.time,
      e.object = slotOwner k ∧ e.fault = true := ⟨y, hy, ho, hf rfl⟩
  unfold State.recordFault
  dsimp only
  split
  · exact markObject_keepsFault _ _ _ _ _ hlisted
  · exact hlisted

end Fault

/-! ### Host accesses served at once -/

/-- A state after an access is served, as far as the arbiter goes (R13). -/
def State.granted (s : State) : State := s.grantRead.accessDone

theorem granted_frame (s : State) : s.granted = { s with path := s.path.arbitrated s.granted.path } := by
  unfold State.granted State.grantRead
  split <;> rfl

/-- A row's outcome, by the state that its own effects give. -/
theorem next_followUp {t u : State} (h : t = u) :
    (.next t.followUp : Host.Outcome State Fault Refusal) = .next u.followUp := by rw [h]

theorem settle_bind_ok {s t : State} {x : Op Unit} {f : Unit → Op Unit} (h : x s = .ok () t) :
    s.settle (x >>= f) = t.settle (f ()) := by
  simp only [State.settle, Op.bind_apply, h]

theorem hostRead_served (a : BitVec 24) (en : Enables) {s : State} (h : s.ServesHost) :
    s.hostAccess (.read a en) = s.granted.serveRead a en := hostAccess_served _ s h

theorem hostWrite_served (a : BitVec 24) (d : Word) (en : Enables) {s : State} (h : s.ServesHost) :
    s.hostAccess (.write a d en) = s.granted.settle (serveWrite a d en) := hostAccess_served _ s h

/-- A host write that has reached the memory side, before the snoop. -/
def State.written (a : Nat) (d : Word) (en : Enables) (s : State) : State :=
  { s.granted with mem := Memory.write s.mem a en d }

theorem written_frame (a : Nat) (d : Word) (en : Enables) (s : State) : s.written a d en
    = { s with mem := Memory.write s.mem a en d, path := s.path.arbitrated s.granted.path } := by
  unfold State.written
  rw [granted_frame]
  rfl

theorem enables_some {en : Enables} (h : en.some = true) : en.hi = true ∨ en.lo = true := by
  simpa [Enables.some] using h

/-- What a write does with the word it finds does not depend on the arbiter. -/
theorem granted_trespasses (a : Nat) (s : State) : s.granted.trespasses a = s.trespasses a := by rw [granted_frame]; rfl

theorem granted_hostFault (kind : FaultKind) (detail : Nat) (s : State) :
    s.granted.hostFault kind detail = { s.hostFault kind detail with path := s.path.arbitrated s.granted.path } := by
  rw [granted_frame]
  unfold State.hostFault State.recordFault
  dsimp only
  split <;> rfl

theorem hostWrite_trespasses {a : BitVec 24} {d : Word} {en : Enables} {s : State} (h : s.ServesHost) (hen : en.some = true)
    (ht : s.trespasses (wordAddress a) = true) :
    s.hostAccess (.write a d en) = s.granted.hostFault .trespass (byteWritten (wordAddress a) en) := by
  rw [hostWrite_served a d en h]
  refine settle_ok _ _ _ ?_
  simp only [serveWrite, Op.bind_apply, Op.get_apply, Op.ite_apply, Op.set_apply, granted_trespasses, ht, enables_some hen,
    not_true_eq_false, if_true, if_false]

theorem hostWrite_reaches {a : BitVec 24} {d : Word} {en : Enables} {s : State} (h : s.ServesHost) (hen : en.some = true)
    (ht : s.trespasses (wordAddress a) = false) :
    s.hostAccess (.write a d en) = (s.written (wordAddress a) d en).settle (snoop (wordAddress a) d en) := by
  have hm : s.granted.mem = s.mem := by rw [granted_frame]
  rw [hostWrite_served a d en h]
  simp only [State.settle, serveWrite, Op.bind_apply, Op.get_apply, Op.ite_apply, Op.set_apply, granted_trespasses, ht,
    enables_some hen, not_true_eq_false, Bool.false_eq_true, if_false, hm, State.written]

/-! ### The snoop, by what stands at the address (R4) -/

theorem snoop_anchor {a : Nat} {d : Word} {en : Enables} {s : State} {n : Fin 128} (h : anchorWordAt a = some n) :
    snoop a d en s = anchorWritten n (mergeWord en (s.anchorWord n) d) s := by
  simp only [snoop, Op.bind_apply, Op.get_apply, h]

theorem snoop_directory {a : Nat} {d : Word} {en : Enables} {s : State} {i : Fin 256} {n : Fin 8}
    (ha : anchorWordAt a = none) (h : s.directoryAt a = some (i, n)) :
    snoop a d en s = directoryWritten i n (mergeWord en ((s.entry i).words.get n) d) s := by
  simp only [snoop, Op.bind_apply, Op.get_apply, ha, h]

theorem snoop_slot {a : Nat} {d : Word} {en : Enables} {s : State} {k : Fin 64} {n : Fin 8}
    (ha : anchorWordAt a = none) (hd : s.directoryAt a = none) (h : s.slotAt a = some (k, n)) :
    snoop a d en s = .ok () (s.slotWritten k n en d) := by
  simp only [snoop, Op.bind_apply, Op.get_apply, ha, hd, h, Op.modify_apply]

theorem snoop_none {a : Nat} {d : Word} {en : Enables} {s : State}
    (ha : anchorWordAt a = none) (hd : s.directoryAt a = none) (h : s.slotAt a = none) : snoop a d en s = .ok () s := by
  simp only [snoop, Op.bind_apply, Op.get_apply, ha, hd, h, Op.pure_apply]

theorem written_anchorWord (a : Nat) (d : Word) (en : Enables) (s : State) (n : Fin 128) :
    (s.written a d en).anchorWord n = s.anchorWord n := by rw [written_frame]; rfl

theorem written_directoryAt (a b : Nat) (d : Word) (en : Enables) (s : State) :
    (s.written a d en).directoryAt b = s.directoryAt b := by rw [written_frame]; rfl

theorem written_slotAt (a b : Nat) (d : Word) (en : Enables) (s : State) : (s.written a d en).slotAt b = s.slotAt b := by
  rw [written_frame]; rfl

/-- A host write of an anchor word. -/
theorem hostWrite_anchor {a : BitVec 24} {d : Word} {en : Enables} {s : State} {n : Fin 128} (h : s.ServesHost)
    (hen : en.some = true) (ht : s.trespasses (wordAddress a) = false) (ha : anchorWordAt (wordAddress a) = some n) :
    s.hostAccess (.write a d en)
      = (s.written (wordAddress a) d en).settle (anchorWritten n (mergeWord en (s.anchorWord n) d)) := by
  rw [hostWrite_reaches h hen ht]
  unfold State.settle
  rw [snoop_anchor ha, written_anchorWord]

/-! ### The statements -/

/-- Settles O1: by the definition of a step. -/
theorem stepTakesFrontCommand : Obligations.StepTakesFrontCommand := by
  unfold Obligations.StepTakesFrontCommand
  refine ⟨fun c rest s => rfl, fun s h => ?_⟩
  simp only [step, h]

/-- Settles O8: each table of the reset state is a table of one value. -/
theorem resetLeavesPowerOnValues : Obligations.ResetLeavesPowerOnValues := by
  unfold Obligations.ResetLeavesPowerOnValues
  have htable {α : Type} {n : Nat} (x : α) (i : Fin n) : (Vector.replicate n x).get i = x := by
    simp [Vector.get_eq_getElem]
  refine ⟨rfl, rfl, rfl, rfl, rfl, rfl, rfl, rfl, rfl, rfl, rfl, rfl, rfl, rfl, rfl, fun l => ?_, fun l => ?_, fun i => ⟨?_, ?_⟩,
    fun g => ?_, fun r => ?_, fun k => ?_, fun p => ⟨?_, ?_⟩, fun c => ?_, fun p => ?_, fun k => ?_, rfl,
    ⟨by decide, List.nodup_singleton _⟩, List.nodup_nil, List.nodup_nil⟩
  case refine_1 =>
    have hl : State.reset.line l = LineSide.reset := htable _ _
    rw [hl]
    exact ⟨rfl, rfl, rfl⟩
  case refine_2 =>
    have hl : State.reset.segmentEnd l = LineEnd.reset := htable _ _
    rw [hl]
    rfl
  case refine_4 =>
    have hi : State.reset.entry i = DirectoryEntry.reset := htable _ _
    rw [hi]
    rfl
  case refine_8 | refine_9 =>
    have hp : State.reset.position p = Position.reset := htable _ _
    rw [hp]
    rfl
  case refine_10 =>
    have hc : State.reset.channel c = Channel.freed := htable _ _
    rw [hc]
    rfl
  all_goals exact htable _ _

/-- Settles O9: each is one update of the state. -/
theorem resetsAndTickChangeWhatTheyShould : Obligations.ResetsAndTickChangeWhatTheyShould := by
  unfold Obligations.ResetsAndTickChangeWhatTheyShould
  intro s
  have htable {α : Type} {n : Nat} (x : α) (i : Fin n) : (Vector.replicate n x).get i = x := by
    simp [Vector.get_eq_getElem]
  refine ⟨⟨s.powerOn, rfl, rfl, rfl, fun l => ?_, fun p => ⟨htable _ _, rfl⟩, fun c => htable _ _, rfl⟩, rfl,
    s.tick, rfl, ?_, rfl⟩
  · simp [State.powerOn, State.segmentEnd, LineEnd.atReset]
  · simp [State.tick, BitVec.toNat_add]

/-- Settles O10: the arbiter's grant, then the read. -/
theorem hostReadAnswersNewestValueOrWaits : Obligations.HostReadAnswersNewestValueOrWaits := by
  unfold Obligations.HostReadAnswersNewestValueOrWaits
  intro s a d en
  refine ⟨fun h => ⟨s.granted.serveRead a en, ?_, ?_, ?_, ?_, ?_⟩, fun h => ⟨?_, ?_⟩⟩
  · exact next_followUp (hostRead_served a en h)
  · rw [granted_frame]; rfl
  · unfold State.granted State.grantRead
    split <;> rfl
  · unfold State.granted State.grantRead
    split <;> rename_i hg <;> simp only [Bool.and_eq_true, List.isEmpty_iff, and_assoc] at hg
    · exact (if_pos hg).symm
    · exact (if_neg hg).symm
  · rw [granted_frame]; rfl
  · exact next_followUp (hostAccess_waits (.read a en) s h)
  · exact next_followUp (hostAccess_waits (.write a d en) s h)

/-- The bytes of a word write are read back where they are enabled. -/
theorem write_get {m : List Host.Cell} (a : Nat) (en : Enables) (d : Word) (h : Memory.wf m = true) :
    (en.hi = true → Memory.get (Memory.write m a en d) a = highByte d)
      ∧ (en.lo = true → Memory.get (Memory.write m a en d) (a + 1) = lowByte d) := by
  have hset := Memory.set_wf a (highByte d) h
  refine ⟨fun hi => ?_, fun lo => ?_⟩
  · simp only [Memory.write, hi, if_true]
    split
    · rw [Memory.get_set_ne _ _ _ (Nat.ne_of_lt (Nat.lt_succ_self a)), Memory.get_set_self _ _ h]
    · exact Memory.get_set_self _ _ h
  · simp only [Memory.write, lo, if_true]
    split
    · exact Memory.get_set_self _ _ hset
    · exact Memory.get_set_self _ _ h

/-- Settles O11: the write, and a snoop that finds nothing at the address. -/
theorem hostWriteReachesMemoryAlone : Obligations.HostWriteReachesMemoryAlone := by
  unfold Obligations.HostWriteReachesMemoryAlone
  intro s a d en h hen ht ha hd hs hwf
  have hsnoop : snoop (wordAddress a) d en (s.written (wordAddress a) d en) = .ok () (s.written (wordAddress a) d en) :=
    snoop_none ha (by rw [written_directoryAt]; exact hd) (by rw [written_slotAt]; exact hs)
  have hacc : s.hostAccess (.write a d en) = s.written (wordAddress a) d en := by
    rw [hostWrite_reaches h hen ht, settle_ok _ _ _ hsnoop]
  have hmem : (s.written (wordAddress a) d en).mem = Memory.write s.mem (wordAddress a) en d := rfl
  refine ⟨s.written (wordAddress a) d en, next_followUp hacc, ?_, ?_, fun b h1 h2 => ?_, ?_⟩
  · exact (write_get _ en d hwf).1
  · exact (write_get _ en d hwf).2
  · exact Memory.get_write_ne _ b en d h1 h2
  · rw [written_frame]; rfl

/-- Settles O12: the write is suppressed, and its fault recorded. -/
theorem trespassIsSuppressedAndRecorded : Obligations.TrespassIsSuppressedAndRecorded := by
  unfold Obligations.TrespassIsSuppressedAndRecorded
  intro s a d en h hen ht
  refine ⟨rfl, rfl, s.granted.hostFault .trespass (byteWritten (wordAddress a) en),
    next_followUp (hostWrite_trespasses h hen ht), ?_, ?_, ?_⟩
  · rw [granted_hostFault]
    exact recordFault_slot ..
  · rw [granted_hostFault]
    exact recordFault_listed ..
  · rw [granted_hostFault]
    obtain ⟨l, hl⟩ := recordFault_frame engineSlot .trespass 0 (BitVec.ofNat 32 (byteWritten (wordAddress a) en)) s
    unfold State.hostFault
    rw [hl]
    rfl

/-! ### What the snoop does with each word -/

theorem wordAddress_anchorHostAddress (n : Fin 128) : wordAddress (anchorHostAddress n) = Config.anchorAddress n.val := by
  have hn := n.isLt
  have ha : Config.anchorAddress n.val = 0xFFFF00 + 2 * n.val := rfl
  unfold wordAddress anchorHostAddress
  rw [BitVec.toNat_ofNat, ha]
  omega

theorem anchorWordAt_anchorAddress (n : Fin 128) : anchorWordAt (wordAddress (anchorHostAddress n)) = some n := by
  have hn := n.isLt
  rw [wordAddress_anchorHostAddress]
  unfold anchorWordAt Config.anchorAddress
  rw [dif_pos (by omega)]
  exact congrArg some (Fin.ext (by simp))

end Sys2Proof.Machine
end

section
/-! SUPPORT. The host writes that a block snoops: the control word, a parameter, a command slot, the two ring indices and a
directory word (R4, R10, R16, R17, R63, R169, R178), and the statements about them. -/

namespace Sys2Proof.Machine

/-! ### Updates by their frame -/

theorem syncPolledSide_frame (i : Fin 256) (side : Side) (s : State) : ∃ ls, s.syncPolledSide i side = { s with lines := ls } := by
  unfold State.syncPolledSide
  extract_lets l t t'
  split <;> exact ⟨_, rfl⟩

theorem syncPolled_frame (i : Fin 256) (s : State) : ∃ ls, s.syncPolled i = { s with lines := ls } := by
  obtain ⟨ls, h⟩ := syncPolledSide_frame i .near s
  obtain ⟨ks, hk⟩ := syncPolledSide_frame i .far { s with lines := ls }
  unfold State.syncPolled
  rw [h, hk]
  exact ⟨ks, rfl⟩

/-- A fold of updates that each write the line sides alone does so too. -/
theorem foldl_lines_frame {α : Type} (f : State → α → State) (hf : ∀ s a, ∃ ls, f s a = { s with lines := ls }) :
    ∀ (l : List α) (s : State), ∃ ls, l.foldl f s = { s with lines := ls }
  | [], s => ⟨s.lines, rfl⟩
  | a :: l, s => by
    obtain ⟨ls, h⟩ := hf s a
    obtain ⟨ks, hk⟩ := foldl_lines_frame f hf l { s with lines := ls }
    rw [List.foldl_cons, h, hk]
    exact ⟨ks, rfl⟩

theorem syncAllPolled_frame (s : State) : ∃ ls, s.syncAllPolled = { s with lines := ls } :=
  foldl_lines_frame _ (fun s i => syncPolled_frame i s) _ s

/-- The parameters-clamped flag takes its value; the state word and the engine's report follow a change. -/
theorem setClamped_frame (b : Bool) (s : State) : ∃ q w rs c, s.setClamped b = { s with
    path := { s.path with queue := q, engineWaiting := w }, reports := rs
    engine := { s.engine with clamped := b, lastChange := c } } := by
  unfold State.setClamped
  split
  case isTrue h =>
    have hb : s.engine.clamped = b := eq_of_beq h
    subst hb
    exact ⟨_, _, _, _, rfl⟩
  case isFalse => exact ⟨_, _, _, _, rfl⟩

/-! ### The control word (R178) -/

theorem mergedControl_written (s : State) (d : Word) (en : Enables) (a : Nat) :
    ((s.written a d en).setAnchor Config.controlWord (s.mergedControl d en)).controlRun = (s.mergedControl d en == 1) := by
  simp [State.controlRun, State.anchorWord, State.setAnchor]

/-- A write of the control word that calls for no stop: in STANDBY the start request follows it, and elsewhere nothing
happens. -/
theorem controlWritten_quiet {t : State} (h : t.engine.state ≠ .run ∧ t.engine.state ≠ .failed ∨ t.controlRun = true) :
    controlWritten t = .ok () { t with engine := { t.engine with
      startRequest := if t.engine.state = .standby then t.controlRun else t.engine.startRequest } } := by
  unfold controlWritten
  rw [Op.bind_apply]
  simp only [Op.get_apply]
  by_cases hstandby : t.engine.state = .standby
  · simp only [hstandby, if_true, Op.set_apply]
  · simp only [if_neg hstandby]
    change _ = EStateM.Result.ok () t
    cases hst : t.engine.state with
    | standby => exact absurd hst hstandby
    | starting | stopping | restarting => rfl
    | run | failed =>
      have hrun : t.controlRun = true := h.resolve_left (by simp [hst])
      simp only [hrun, if_true, Op.pure_apply]

/-- Settles O13: the write reaches memory and the shadow, and the start request follows the word in STANDBY. -/
theorem controlWordSetsStartRequest : Obligations.ControlWordSetsStartRequest := by
  unfold Obligations.ControlWordSetsStartRequest
  intro s d en h hen ht hquiet
  have hw : wordAddress (anchorHostAddress Config.controlWord) = Config.anchorBase := wordAddress_anchorHostAddress _
  obtain ⟨t, ht'⟩ : ∃ t, t = (s.written Config.anchorBase d en).setAnchor Config.controlWord (s.mergedControl d en) := ⟨_, rfl⟩
  have hframe : t = { s with
      mem := Memory.write s.mem Config.anchorBase en d
      path := { s.path.arbitrated s.granted.path with
        anchor := put s.path.anchor Config.controlWord (s.mergedControl d en) } } := by
    rw [ht', written_frame]; rfl
  have hrun : t.controlRun = (s.mergedControl d en == 1) := by rw [ht', mergedControl_written]
  have hst : t.engine = s.engine := by rw [hframe]
  have hrow : s.hostAccess (.write (anchorHostAddress Config.controlWord) d en) = { t with engine := { t.engine with
      startRequest := if t.engine.state = .standby then t.controlRun else t.engine.startRequest } } := by
    rw [hostWrite_anchor h hen (by rw [hw]; exact ht) (anchorWordAt_anchorAddress _), hw]
    refine settle_ok _ _ _ ?_
    simp only [anchorWritten, if_true, Op.bind_apply, Op.modify_apply]
    rw [← controlWritten_quiet (by rw [hst, hrun, beq_iff_eq]; exact hquiet), ht']
    rfl
  refine ⟨_, next_followUp hrow, fun hd => ?_, ?_, ?_, ?_, ?_⟩
  · rw [hd]; rfl
  · rw [hframe]
  · rw [hframe]
  · rw [hrun, hst]
  · rw [hframe]; rfl

/-! ### A parameter (R10) -/

/-- A parameter snooped: the shadow word, the flag where the value was clamped, and the polled set where POST_SILENT's mode is
written. -/
theorem parameterWritten_frame (n : Fin 128) (m : Word) (s : State) {c : Word}
    (hc : c = if s.engine.state = .standby then m else clampParameter n.val m) :
    ∃ ls q w rs k, s.parameterWritten n m = { s with
        lines := ls, reports := rs
        path := { s.path with anchor := put s.path.anchor n c, queue := q, engineWaiting := w }
        engine := { s.engine with clamped := s.engine.clamped || c != m, lastChange := k } }
      ∧ (n ≠ Config.silentModeWord → ls = s.lines) := by
  have hclamp : (if s.engine.state == .standby then m else clampParameter n.val m) = c := by rw [hc]; simp only [beq_iff_eq]
  obtain ⟨t, ls, ht, hls, hsync⟩ : ∃ t ls, t = { s.setAnchor n c with lines := ls } ∧ (n ≠ Config.silentModeWord → ls = s.lines)
      ∧ (if n = Config.silentModeWord then (s.setAnchor n c).syncAllPolled else s.setAnchor n c) = t := by
    by_cases hn : n = Config.silentModeWord
    · obtain ⟨ls, hls⟩ := syncAllPolled_frame (s.setAnchor n c)
      exact ⟨_, ls, rfl, fun h => absurd hn h, by rw [if_pos hn, hls]⟩
    · exact ⟨_, s.lines, rfl, fun _ => rfl, if_neg hn⟩
  have hwritten : s.parameterWritten n m = if c == m then t else t.setClamped true := by
    rw [← hsync, ← hclamp]; rfl
  rw [hwritten, ht]
  by_cases he : c = m
  · rw [if_pos (beq_iff_eq.mpr he)]
    have hsame : (s.engine.clamped || c != m) = s.engine.clamped := by simp [he]
    exact ⟨ls, s.path.queue, s.path.engineWaiting, s.reports, s.engine.lastChange, by rw [hsame]; rfl, hls⟩
  · rw [if_neg (by simpa using he)]
    obtain ⟨q, w, rs, k, h⟩ := setClamped_frame true { s.setAnchor n c with lines := ls }
    rw [h]
    exact ⟨ls, q, w, rs, k, by simp [he, State.setAnchor], hls⟩

theorem anchorWritten_parameter {n : Fin 128} {m : Word} {s : State} (hn : isParameter n.val = true) :
    anchorWritten n m s = .ok () (s.parameterWritten n m) := by
  have h0 : n ≠ Config.controlWord := by
    rintro rfl
    exact absurd hn (by decide)
  simp only [anchorWritten, if_neg h0, hn, if_true, Op.modify_apply]

/-- Settles O15: what the snoop of a parameter writes. -/
theorem parameterWriteIsClampedOutsideStandby : Obligations.ParameterWriteIsClampedOutsideStandby := by
  unfold Obligations.ParameterWriteIsClampedOutsideStandby
  intro s a d en n h hen ha hn ht
  obtain ⟨t, ht'⟩ : ∃ t, t = s.written (wordAddress a) d en := ⟨_, rfl⟩
  have htframe := ht'.trans (written_frame (wordAddress a) d en s)
  have hrow : s.hostAccess (.write a d en) = t.parameterWritten n (mergeWord en (s.anchorWord n) d) := by
    rw [hostWrite_anchor h hen ht ha, settle_ok _ _ _ (anchorWritten_parameter hn), ht']
  have hst : t.engine.state = s.engine.state := by rw [htframe]
  obtain ⟨ls, q, w, rs, k, hframe, hls⟩ := parameterWritten_frame n (mergeWord en (s.anchorWord n) d) t rfl
  rw [hst] at hframe
  rw [hframe] at hrow
  refine ⟨_, _, _, next_followUp hrow, rfl, rfl, ?_, ?_, ?_, ?_, fun hn => ?_, ?_, ?_⟩
  case refine_5 => exact (hls hn).trans (by rw [htframe])
  all_goals subst htframe; rfl

/-! ### A command slot (R16) -/

theorem markWritten_get (w : Vector Bool 16) (n : Fin 8) (en : Enables) (b : Fin 16) : (markWritten w n en).get b
    = (w.get b || (en.hi && b.val == 2 * n.val) || (en.lo && b.val == 2 * n.val + 1)) := by
  unfold markWritten
  cases en.hi <;> cases en.lo <;> simp [put_get, Fin.ext_iff] <;> grind

/-- Settles O16: what the snoop of a slot word writes. -/
theorem slotWriteFillsShadowAndWrittenSet : Obligations.SlotWriteFillsShadowAndWrittenSet := by
  unfold Obligations.SlotWriteFillsShadowAndWrittenSet
  intro s a d en k n h hen hs ha hd ht
  have hrow : s.hostAccess (.write a d en) = (s.written (wordAddress a) d en).slotWritten k n en d := by
    rw [hostWrite_reaches h hen ht, settle_ok _ _ _ (snoop_slot ha (by rw [written_directoryAt]; exact hd)
      (by rw [written_slotAt]; exact hs))]
  have hslots : (s.written (wordAddress a) d en).path.slots = s.path.slots := by rw [written_frame]; rfl
  have hnew : ((s.written (wordAddress a) d en).slotWritten k n en d).path.slots = put s.path.slots k
      { words := put (s.path.slots.get k).words n (mergeWord en ((s.path.slots.get k).words.get n) d)
        written := markWritten (s.path.slots.get k).written n en } := by
    unfold State.slotWritten
    rw [hslots]
  refine ⟨_, next_followUp hrow, rfl, ?_, fun b => ?_, fun j hj => ?_, ?_⟩
  · rw [hnew, put_get_self]
  · rw [hnew, put_get_self, markWritten_get]
  · rw [hnew, put_get_ne _ _ _ _ hj]
  · rw [written_frame]; rfl

/-! ### The ring indices (R17, R169) -/

theorem hostFault_frame (kind : FaultKind) (n : Nat) (s : State) : ∃ l, s.hostFault kind n = { s with reports := { s.reports with
    slots := put s.reports.slots engineSlot
      (some (FaultRecord.next (s.reports.slots.get engineSlot) kind 0 (BitVec.ofNat 32 n) s.time)), list := l } } :=
  recordFault_frame engineSlot kind 0 _ s

theorem anchorWritten_producer (v : Word) (s : State) :
    anchorWritten Config.commandProducer v s = .ok () ((s.setAnchor Config.commandProducer v).producerWritten v) := rfl

theorem anchorWritten_consumer (v : Word) (s : State) :
    anchorWritten Config.eventConsumer v s = .ok () ((s.setAnchor Config.eventConsumer v).consumerWritten v) := rfl

/-- Settles O17: what the snoop of the producer index publishes, or records. -/
theorem producerWritePublishesOrIsRefused : Obligations.ProducerWritePublishesOrIsRefused := by
  unfold Obligations.ProducerWritePublishesOrIsRefused
  intro s d en w h hen hw ht
  have haddr : wordAddress (anchorHostAddress Config.commandProducer) = Config.anchorAddress 14 :=
    wordAddress_anchorHostAddress _
  obtain ⟨v, hv⟩ : ∃ v, v = mergeWord en (s.anchorWord Config.commandProducer) d := ⟨_, rfl⟩
  obtain ⟨t, ht'⟩ : ∃ t, t = (s.written (Config.anchorAddress 14) d en).setAnchor Config.commandProducer v := ⟨_, rfl⟩
  have hframe : t = { s with
      mem := Memory.write s.mem (Config.anchorAddress 14) en d
      path := { s.path.arbitrated s.granted.path with anchor := put s.path.anchor Config.commandProducer v } } := by
    rw [ht', written_frame]; rfl
  have hrow : s.hostAccess (.write (anchorHostAddress Config.commandProducer) d en) = t.producerWritten v := by
    rw [hostWrite_anchor h hen (by rw [haddr]; exact ht) (anchorWordAt_anchorAddress _), haddr, ← hv,
      settle_ok _ _ _ (anchorWritten_producer v _), ht']
  have hwin : t.path.windows = some w := by rw [hframe]; exact hw
  refine ⟨_, v, _, _, next_followUp hrow, hv, rfl, rfl, ?_⟩
  by_cases hok : (s.path.heldProducer - s.path.heldConsumer).toNat ≤ (v - s.path.heldConsumer).toNat
      ∧ (v - s.path.heldConsumer).toNat ≤ w.commandCount
  · have htaken : t.producerWritten v = { t with path := { t.path with
        heldProducer := v
        published := t.path.published ++ slotsFrom w.commandCount t.path.heldProducer
          ((v - s.path.heldConsumer).toNat - (s.path.heldProducer - s.path.heldConsumer).toNat) } } := by
      unfold State.producerWritten
      rw [hwin]
      refine (if_pos ?_).trans ?_ <;> rw [hframe]
      · exact hok
      · rfl
    rw [htaken, if_pos hok, hframe]
    exact ⟨rfl, rfl, ⟨rfl, rfl, rfl⟩, rfl⟩
  · have hrefused : t.producerWritten v = t.hostFault .producerInvalid v.toNat := by
      unfold State.producerWritten
      rw [hwin]
      refine if_neg ?_
      rw [hframe]
      exact hok
    obtain ⟨l, hl⟩ := hostFault_frame .producerInvalid v.toNat t
    rw [hrefused, if_neg hok, hl, hframe]
    exact ⟨rfl, rfl, ⟨rfl, rfl, put_get_self _ _ _⟩, rfl⟩

/-- Settles O18: what the snoop of the consumer index takes, or records. -/
theorem consumerWriteIsTakenOrRefused : Obligations.ConsumerWriteIsTakenOrRefused := by
  unfold Obligations.ConsumerWriteIsTakenOrRefused
  intro s d en h hen hw ht
  have haddr : wordAddress (anchorHostAddress Config.eventConsumer) = Config.anchorAddress 17 :=
    wordAddress_anchorHostAddress _
  obtain ⟨v, hv⟩ : ∃ v, v = mergeWord en (s.anchorWord Config.eventConsumer) d := ⟨_, rfl⟩
  obtain ⟨t, ht'⟩ : ∃ t, t = (s.written (Config.anchorAddress 17) d en).setAnchor Config.eventConsumer v := ⟨_, rfl⟩
  have hframe : t = { s with
      mem := Memory.write s.mem (Config.anchorAddress 17) en d
      path := { s.path.arbitrated s.granted.path with anchor := put s.path.anchor Config.eventConsumer v } } := by
    rw [ht', written_frame]; rfl
  have hrow : s.hostAccess (.write (anchorHostAddress Config.eventConsumer) d en) = t.consumerWritten v := by
    rw [hostWrite_anchor h hen (by rw [haddr]; exact ht) (anchorWordAt_anchorAddress _), haddr, ← hv,
      settle_ok _ _ _ (anchorWritten_consumer v _), ht']
  have hwin : ¬ t.path.windows.isNone = true := by
    have : t.path.windows = s.path.windows := by rw [hframe]; rfl
    simpa [this, Option.isSome_iff_ne_none] using hw
  refine ⟨_, v, next_followUp hrow, hv, ?_⟩
  by_cases hok : (v - s.reports.consumer).toNat ≤ (s.reports.producer - s.reports.consumer).toNat
  · have htaken : t.consumerWritten v = { t with reports := { t.reports with consumer := v } } := by
      unfold State.consumerWritten
      rw [if_neg hwin]
      refine if_pos ?_
      rw [hframe]
      exact hok
    rw [htaken, if_pos hok, hframe]
    exact ⟨rfl, rfl, rfl, rfl⟩
  · have hrefused : t.consumerWritten v = t.hostFault .consumerInvalid v.toNat := by
      unfold State.consumerWritten
      rw [if_neg hwin]
      refine if_neg ?_
      rw [hframe]
      exact hok
    obtain ⟨l, hl⟩ := hostFault_frame .consumerInvalid v.toNat t
    rw [hrefused, if_neg hok, hl, hframe]
    exact ⟨rfl, rfl, ⟨rfl, put_get_self _ _ _⟩, rfl⟩

/-! ### A directory word (R63) -/

/-- A post's record written with a judged identity touches the post, and perhaps its segment's fault slot. -/
theorem writeJudged_frame (i : Fin 256) (p : Post) (id : Option Identity) (s : State) :
    (∃ ps ls rs, s.writeJudged i p id = { s with posts := ps, lines := ls, reports := rs })
      ∧ (s.writeJudged i p id).post i = { p with identity := id, identityMatch := s.judge i id, corrupt := false }
      ∧ ∀ j, j ≠ i → (s.writeJudged i p id).post j = s.post j := by
  obtain ⟨t, ht⟩ : ∃ t, t = s.setPost i { p with identity := id, identityMatch := s.judge i id } := ⟨_, rfl⟩
  have hself : t.post i = { p with identity := id, identityMatch := s.judge i id, corrupt := false } := by
    rw [ht, State.setPost_self]
  have htouch : s.TouchesPost t i := ht ▸ touchesPost_setPost i _ s
  obtain ⟨ps, ls, l, hl⟩ := htouch.frame
  have hwritten : s.writeJudged i p id
      = if s.judge i id = .differs ∧ ((s.post i).identityMatch ≠ .differs ∨ (s.post i).identity ≠ id) then
          t.recordFault (segmentSlot (postSegment i)) .wrongIdentity ((postDrop i).val + 1) ((id.getD 0).setWidth 32)
        else t := by rw [ht]; rfl
  rw [hwritten]
  split
  · obtain ⟨l', hl'⟩ := recordFault_frame (segmentSlot (postSegment i)) .wrongIdentity ((postDrop i).val + 1)
      ((id.getD 0).setWidth 32) t
    rw [hl']
    exact ⟨⟨ps, ls, _, by rw [hl]⟩, hself, htouch.posts⟩
  · exact ⟨⟨ps, ls, _, hl⟩, hself, htouch.posts⟩

/-- A directory word snooped, where the change bears on a post whose record is in order. -/
theorem directoryWritten_bears {i : Fin 256} {n : Fin 8} {v : Word} {s : State} {e : DirectoryEntry}
    (he : e = { words := put (s.entry i).words n v, valid := !s.readingDirectory && entryValid (put (s.entry i).words n v) })
    (hb : (s.entry i).bears e = true) (hc : (s.post i).corrupt = false) :
    directoryWritten i n v s
      = .ok () (((s.setEntry i e).syncPolled i).writeJudged i (s.post i) (s.post i).identity) := by
  have hread : readPost i (s.setEntry i e) = .ok (s.post i) (s.setEntry i e) := readPost_ok _ i hc
  simp only [directoryWritten, Op.bind_apply, Op.get_apply, Op.set_apply, ← he, hb, if_true, hread,
    Op.modify_apply]

theorem directoryWritten_quiet {i : Fin 256} {n : Fin 8} {v : Word} {s : State} {e : DirectoryEntry}
    (he : e = { words := put (s.entry i).words n v, valid := !s.readingDirectory && entryValid (put (s.entry i).words n v) })
    (hb : (s.entry i).bears e = false) : directoryWritten i n v s = .ok () (s.setEntry i e) := by
  simp only [directoryWritten, Op.bind_apply, Op.get_apply, Op.set_apply, ← he, hb, Bool.false_eq_true, if_false,
    Op.pure_apply]

/-- Settles O19: the entry is replaced, and a change that bears on the post judges it again. -/
theorem directoryWriteUpdatesShadowAndJudges : Obligations.DirectoryWriteUpdatesShadowAndJudges := by
  unfold Obligations.DirectoryWriteUpdatesShadowAndJudges
  intro s a d en i n h hen hd ha ht hreading hc
  obtain ⟨t, ht'⟩ : ∃ t, t = s.written (wordAddress a) d en := ⟨_, rfl⟩
  have htframe := ht'.trans (written_frame (wordAddress a) d en s)
  obtain ⟨words, hwords⟩ : ∃ w, w = put (s.entry i).words n (mergeWord en ((s.entry i).words.get n) d) := ⟨_, rfl⟩
  obtain ⟨e, he⟩ : ∃ e : DirectoryEntry, e = { words := words, valid := entryValid words } := ⟨_, rfl⟩
  have hentry : t.entry i = s.entry i := by rw [htframe]; rfl
  have hpost : t.post i = s.post i := by rw [htframe]; rfl
  have hread : t.readingDirectory = false := by rw [htframe]; exact hreading
  have het : e = {
      words := put (t.entry i).words n (mergeWord en ((s.entry i).words.get n) d)
      valid := !t.readingDirectory && entryValid (put (t.entry i).words n (mergeWord en ((s.entry i).words.get n) d)) } := by
    rw [hentry, hread, ← hwords, he]; rfl
  have hrow : s.hostAccess (.write a d en)
      = t.settle (directoryWritten i n (mergeWord en ((s.entry i).words.get n) d)) := by
    rw [hostWrite_reaches h hen ht, ht']
    unfold State.settle
    rw [snoop_directory ha (by rw [written_directoryAt]; exact hd), ← ht', hentry]
  cases hb : (s.entry i).bears e with
  | false =>
    rw [settle_ok _ _ _ (directoryWritten_quiet het (by rw [hentry]; exact hb))] at hrow
    have hnew : (t.setEntry i e).entry i = e := put_get_self _ _ _
    refine ⟨_, words, next_followUp hrow, hwords, ?_, ?_, ?_, ?_⟩
    · rw [htframe]; rfl
    · rw [htframe, he]; rfl
    · rw [hnew, hb, htframe]
      exact ⟨rfl, rfl, rfl⟩
    · rw [htframe]; rfl
  | true =>
    obtain ⟨ls, hls⟩ := syncPolled_frame i (t.setEntry i e)
    obtain ⟨⟨ps, ls', rs, hframe⟩, hself, hother⟩ := writeJudged_frame i (s.post i) (s.post i).identity
      ((t.setEntry i e).syncPolled i)
    have hruns := directoryWritten_bears het (by rw [hentry]; exact hb) (by rw [hpost]; exact hc)
    rw [settle_ok _ _ _ hruns, hpost] at hrow
    obtain ⟨u, hu⟩ : ∃ u, u = ((t.setEntry i e).syncPolled i).writeJudged i (s.post i) (s.post i).identity := ⟨_, rfl⟩
    rw [← hu] at hrow hframe hself hother
    have hjudge : ((t.setEntry i e).syncPolled i).entry i = e := by rw [hls]; exact put_get_self _ _ _
    have hmatch : ((t.setEntry i e).syncPolled i).judge i (s.post i).identity
        = match (s.post i).identity with
          | none => .unread
          | some x => if (entryValid words && entryConfigured words) = true then
              (if x = entryIdentity words then .same else .differs) else .unread := by
      unfold State.judge State.entryInUse
      rw [hjudge, he] <;> rfl
    have hposts : ∀ j, ((t.setEntry i e).syncPolled i).post j = s.post j := fun j => by rw [hls, htframe]; rfl
    rw [hls] at hframe
    have hnew : u.entry i = e := by rw [hframe]; exact put_get_self _ _ _
    refine ⟨u, words, next_followUp hrow, hwords, ?_, ?_, ?_, ?_⟩
    · rw [hframe, htframe]; rfl
    · rw [hframe, htframe, he]; rfl
    · rw [hnew, hb, if_pos rfl]
      refine ⟨?_, fun j hj => (hother j hj).trans (hposts j)⟩
      rw [hself, hmatch]
      simp only [hc] <;> rfl
    · rw [hframe, htframe]; rfl

end Sys2Proof.Machine
end

section
/-! SUPPORT. The write of the queue head, the release of the window set and the command taker (R7, R11, R13, R18, R19), with the
frame of the restart steps that can follow a refused command, and the statements about them. -/

namespace Sys2Proof.Machine

/-! ### The write of the queue head (R11, R13) -/

/-- A writer with nothing waiting appends nothing. -/
theorem flushWriter_idle {s : State} (hw : s.path.engineWaiting = []) (ht : s.path.taker = .idle) (hr : s.reports.steps = [])
    (w : Writer) : s.settle (flushWriter w) = s := by
  refine settle_ok _ _ _ ?_
  cases w with
  | engine =>
    have : s.engineWrites [] = s := by
      unfold State.engineWrites
      rw [hw]
      simp only [List.append_nil, flushWaiting]
      rw [← hw]
    simp only [flushWriter, Op.modify_apply, this]
  | taker =>
    have : s.flushTaker = s := by
      unfold State.flushTaker
      rw [ht]
      split <;> rfl
    simp only [flushWriter, Op.modify_apply, this]
  | report =>
    have : ({ s with reports := { s.reports with steps := [] } } : State) = s := by rw [← hr]
    simp only [flushWriter, flushReports, Op.bind_apply, Op.get_apply, Op.ite_apply, hr, serveSteps, Op.modify_apply,
      Op.pure_apply, this, ite_self]

theorem flushWriters_idle {s : State} (hw : s.path.engineWaiting = []) (ht : s.path.taker = .idle) (hr : s.reports.steps = []) :
    ∀ ws : List Writer, ws.foldl (fun s w => s.settle (flushWriter w)) s = s
  | [] => rfl
  | w :: ws => by rw [List.foldl_cons, flushWriter_idle hw ht hr w, flushWriters_idle hw ht hr ws]

/-- The state with the head of the queue in memory, before the waiting writers append. -/
def State.headWritten (s : State) (e : QueueEntry) (rest : List QueueEntry) : State :=
  { s with mem := Memory.write s.mem e.address bothLanes e.value, path := { s.path with queue := rest, partTurn := false } }

theorem queueHeadWritten_cons {s : State} {e : QueueEntry} {rest : List QueueEntry} (first : Writer)
    (h : s.path.queue = e :: rest) : s.queueHeadWritten first
      = ((writerOrder first).foldl (fun s w => s.settle (flushWriter w)) (s.headWritten e rest)).serveHeld := by
  unfold State.queueHeadWritten
  rw [h]
  rfl

/-- Settles O20: the writers that append keep memory, and with nothing waiting there is nothing to append or to serve. -/
theorem queueHeadReachesMemory : Obligations.QueueHeadReachesMemory := by
  unfold Obligations.QueueHeadReachesMemory
  intro s e rest first hq hheld
  refine ⟨⟨_, rfl, ?_⟩, fun hw ht hr => ?_⟩
  · have hflush := flushWriters_kept (writerOrder first) (s.headWritten e rest)
    rw [queueHeadWritten_cons first hq, serveHeld_none _ (hflush.held hheld), (followUp_kept _).mem, hflush.mem]
    rfl
  · refine next_followUp ?_
    rw [queueHeadWritten_cons first hq, flushWriters_idle (s := s.headWritten e rest) hw ht hr]
    exact serveHeld_none (s.headWritten e rest) hheld

/-! ### The release of the window set (R7) -/

/-- Settles O21: by the two branches of the release. -/
theorem windowSetReleasedInStandbyWhenQueueEmpty : Obligations.WindowSetReleasedInStandbyWhenQueueEmpty := by
  unfold Obligations.WindowSetReleasedInStandbyWhenQueueEmpty
  intro s
  have hrow {t : State} (h : windowSetReleased s = .ok () t) : exec .windowSetRelease s = .next t.followUp :=
    congrArg Host.Outcome.next (runEvent_ok s t _ h)
  refine ⟨fun hst hq hw hwin => ⟨_, hrow (congrArg (EStateM.Result.ok ()) (if_pos ?_)), rfl, rfl, rfl, fun k => ?_, rfl⟩,
    fun h => hrow (congrArg (EStateM.Result.ok ()) (if_neg ?_))⟩
  · simp only [hst, hq, hw, hwin, List.isEmpty_nil, beq_self_eq_true, Bool.and_self]
  · simp [Vector.get_eq_getElem]
  · simp only [Bool.and_eq_true, beq_iff_eq, List.isEmpty_iff]
    rintro ⟨⟨⟨hst, hq⟩, -⟩, -⟩
    exact h.elim (fun hne => hne hst) (fun hne => hne hq)

/-! ### The answer of a slot (R19) -/

theorem enqueue_length (q : List QueueEntry) (e : QueueEntry) : (enqueue q e).length ≤ q.length + 1 := by
  simpa [enqueue] using List.length_filter_le (fun x => x.address != e.address) q

theorem queueTakes_of_room {q : List QueueEntry} (a : Nat) (h : q.length < 32) : queueTakes q a = true := by
  simp only [queueTakes, Bool.or_eq_true, decide_eq_true_eq]
  exact .inr h

/-- Settles O23: with two places free both words are queued at once. -/
theorem answerQueuesResultThenConsumerIndex : Obligations.AnswerQueuesResultThenConsumerIndex := by
  unfold Obligations.AnswerQueuesResultThenConsumerIndex
  intro t k w result index hpaused hwin hroom hresult hindex
  obtain ⟨v, hv⟩ : ∃ v, v = { t.path with
      slots := put t.path.slots k { t.path.slots.get k with written := Vector.replicate 16 false }
      refused := t.path.refused.erase k
      taker := .result k (resultWord (t.path.slots.get k) (t.commandResult.getD .notRunning)) } := ⟨_, rfl⟩
  have hq : v.queue = t.path.queue := by rw [hv]
  have htakes : queueTakes t.path.queue (w.resultBase + 2 * k.val) = true := queueTakes_of_room _ (by omega)
  have hsecond : queueTakes (enqueue t.path.queue result) (Config.anchorAddress Config.commandConsumer.val) = true :=
    queueTakes_of_room _ (by have := enqueue_length t.path.queue result; omega)
  have hanswer : t.answerSlot k = { t with path := MemoryPath.releaseSlot { v with queue := enqueue v.queue result } k } := by
    rw [hresult, hv]
    change State.flushTaker _ = _
    unfold State.flushTaker
    refine (if_neg (Bool.eq_false_iff.mp hpaused)).trans ?_
    simp only [hwin, htakes, if_true]
    rfl
  rw [releaseSlot_takes _ k (by rw [hq]; exact hsecond)] at hanswer
  refine ⟨_, rfl, ?_, ?_, ?_, ?_, ?_, ?_, fun b => ?_, fun j hj => ?_, ?_⟩ <;> rw [hanswer]
  · rw [hq, hindex, hv]; rfl
  · rw [hv]
  · rw [hv]
  · rw [hv]
  · rw [hv, put_get_self]
  · rw [hv, put_get_self]
    simp [Vector.get_eq_getElem]
  · rw [hv]
    exact put_get_ne _ _ _ _ hj
  · rw [hv]

/-! ### Commands refused before their owner is asked (R18) -/

/-- The command row of a code that names a command. -/
theorem exec_commandOf {w : Vector Word 8} {i : Instr} (h : commandOf w = some i) (s : State) :
    exec i s = .next (s.runEvent (commandEvent i)) := by
  unfold commandOf at h
  split at h
  case h_20 => cases h
  all_goals
    obtain rfl := Option.some.inj h
    rfl

/-- A command outside RUN is answered, and nothing else happens. -/
def AnswersIdle (op : Op Unit) : Prop := ∀ s : State, s.inRun = false →
  ∃ r, (r = .notRunning ∨ r = .badArg) ∧ op s = .ok () { s with commandResult := some r }

theorem command_answersIdle {α : Type} (args : Option α) (act : α → Op Unit) : AnswersIdle (command args act) := by
  intro s h
  cases args with
  | none => exact ⟨.badArg, .inr rfl, command_badArg act s⟩
  | some a => exact ⟨.notRunning, .inl rfl, command_notRunning a act s h⟩

theorem commandEvent_answersIdle {w : Vector Word 8} {i : Instr} (h : commandOf w = some i) : AnswersIdle (commandEvent i) := by
  unfold commandOf at h
  split at h
  case h_20 => cases h
  all_goals
    obtain rfl := Option.some.inj h
    exact command_answersIdle _ _

/-! ### The restart steps leave the command's result alone (R189) -/

theorem relistFaults_frame (s : State) : ∃ l, s.relistFaults = { s with reports := { s.reports with list := l } } := by
  have hfold : ∀ (ks : List (Fin 9)) (s : State), ∃ l, ks.foldl (fun s k =>
      if (s.reports.slots.get k).isSome then s.report (slotOwner k) false false true else s) s
        = { s with reports := { s.reports with list := l } } := by
    intro ks
    induction ks with
    | nil => exact fun s => ⟨s.reports.list, rfl⟩
    | cons k ks ih =>
      intro s
      rw [List.foldl_cons]
      split
      · obtain ⟨l, hl⟩ := ih (s.report (slotOwner k) false false true)
        exact ⟨l, hl⟩
      · exact ih s
  exact hfold _ s

theorem restartFault_frame (b : Bool) (s : State) :
    ∃ x, s.restartFault b = { s with engine := { s.engine with outcomeFailed := x } } := by
  unfold State.restartFault
  split <;> exact ⟨_, rfl⟩

theorem engineWrites_frame (es : List QueueEntry) (s : State) : ∃ q w, s.engineWrites es
    = { s with path := { s.path with queue := q, engineWaiting := w } } :=
  ⟨(s.engineWrites es).path.queue, (s.engineWrites es).path.engineWaiting, rfl⟩

theorem stateWordIf_frame (p : Prop) [Decidable p] (s : State) : ∃ q w, (if p then s.writeStateWord else s)
    = { s with path := { s.path with queue := q, engineWaiting := w } } := by
  split
  · exact engineWrites_frame _ s
  · exact ⟨s.path.queue, s.path.engineWaiting, rfl⟩

/-- Step 4 empties the tables; the line sides and the report list are made anew, and the rest is as it was but for the outcome
and the state word. -/
theorem emptyTables_frame (s : State) : ∃ lines l q w x, s.emptyTables = { s with
    speech := s.speech.emptied, posts := s.posts.map Post.unlinked, lines := lines, calls := s.calls.emptied
    cluster := { s.cluster with records := Vector.replicate 16 none }
    reports := { s.reports with list := l, steps := [], startFaults := [] }
    path := { s.path with queue := q, engineWaiting := w }, engine := { s.engine with outcomeFailed := x } } := by
  unfold State.emptyTables
  extract_lets overflow speech _ t u v
  obtain ⟨x, hx⟩ := restartFault_frame speech.misread t
  obtain ⟨ls, hls⟩ := syncAllPolled_frame (t.restartFault speech.misread)
  have hu : u = { t with lines := ls, engine := { t.engine with outcomeFailed := x } } := hls.trans (by rw [hx])
  clear_value u
  obtain ⟨q, w, hv⟩ : ∃ q w, v = { u with path := { u.path with queue := q, engineWaiting := w } } :=
    stateWordIf_frame (overflow = true) u
  clear_value v
  obtain ⟨l, hl⟩ := relistFaults_frame { v with reports := { v.reports with list := [], steps := [], startFaults := [] } }
  exact ⟨ls, l, q, w, x, hl.trans (by rw [hv, hu])⟩

theorem beginDirectoryRead_frame (step : EngineStep) (s : State) : ∃ lines, s.beginDirectoryRead step = { s with
    lines := lines, directory := s.directory.map DirectoryEntry.invalidated
    path := { s.path with readWords := Config.directoryWords }, engine := { s.engine with step := step } } :=
  syncAllPolled_frame _

theorem restartPositions_frame (s : State) : ∃ ps x, s.restartPositions
    = { s with positions := ps, engine := { s.engine with outcomeFailed := x } } := by
  obtain ⟨x, hx⟩ := restartFault_frame (s.positions.toList.any fun x => x.corrupt)
    { s with positions := s.positions.map fun x => if x.corrupt then x else x.restarted s.time }
  exact ⟨_, x, hx⟩

/-- The restart steps that follow an event leave the engine state and the command's result. -/
theorem restartProceeds_result (s : State) :
    s.restartProceeds.engine.state = s.engine.state ∧ s.restartProceeds.commandResult = s.commandResult := by
  unfold State.restartProceeds
  split
  · obtain ⟨_, _, _, _, _, ht⟩ := emptyTables_frame s
    obtain ⟨_, _, hp⟩ := restartPositions_frame s.emptyTables
    obtain ⟨_, hl⟩ := beginDirectoryRead_frame .reloading s.emptyTables.restartPositions
    rw [hl, hp, ht]
    exact ⟨rfl, rfl⟩
  · exact ⟨rfl, rfl⟩

/-- What follows an event in RESTARTING leaves the command's result. -/
theorem followUp_commandResult_of_restarting (s : State) (h : s.engine.state = .restarting) :
    s.followUp.commandResult = s.commandResult := by
  have hrun : s.inRun = false := by simp [State.inRun, h]
  have hdispatch : s.dispatchIfDue = { s with dispatchDue := false } := by
    simp only [State.dispatchIfDue, hrun, Bool.and_false, Bool.false_eq_true, if_false]
  obtain ⟨hst, hres⟩ := restartProceeds_result { s with dispatchDue := false }
  have hstops : State.stoppingComplete (State.restartProceeds { s with dispatchDue := false }) = false := by
    simp [State.stoppingComplete, hst, h]
  simp only [State.followUp, hdispatch, State.stoppingEnds, hstops, Bool.false_eq_true, if_false, hres]

/-! ### The command taker (R18) -/

theorem takeCommand_taken {s : State} {k : Fin 64} (h : s.takeableSlot = some k) (hk : k ∉ s.path.refused) :
    s.takeCommand = (s.runEvent (judgeSlot (s.path.slots.get k))).answerSlot k := by
  simp only [State.takeCommand, h, List.contains_eq_mem, hk, decide_false, Bool.false_eq_true, if_false]

theorem takeCommand_refused {s : State} {k : Fin 64} (h : s.takeableSlot = some k) (hk : k ∈ s.path.refused) :
    s.takeCommand = ((s.refuseCommand (s.path.slots.get k)).followUp).answerSlot k := by
  simp only [State.takeCommand, h, List.contains_eq_mem, hk, decide_true, if_true]

/-- A slot that is answered by its judgement alone is answered so, whether or not it waited out a restart. -/
theorem takeCommand_answered {s : State} {k : Fin 64} {r : ResultCode} (h : s.takeableSlot = some k)
    (hr : judgeSlot (s.path.slots.get k) = answer r) :
    s.takeCommand = (State.followUp { s with commandResult := some r }).answerSlot k := by
  by_cases hk : k ∈ s.path.refused
  · rw [takeCommand_refused h hk]
    unfold State.refuseCommand
    rw [hr]
    rfl
  · rw [takeCommand_taken h hk, hr]
    rfl

/-- Settles O22: the judgement of the slot, then the command's own event. -/
theorem takerJudgesSlotAndCarriesOutCommand : Obligations.TakerJudgesSlotAndCarriesOutCommand := by
  unfold Obligations.TakerJudgesSlotAndCarriesOutCommand
  intro s k htake
  have hjudge (i : Instr) (hf : (s.path.slots.get k).framed = true) (hi : commandOf (s.path.slots.get k).words = some i) :
      judgeSlot (s.path.slots.get k) = commandEvent i := by
    simp only [judgeSlot, hf, if_true, hi]
  refine ⟨fun hf => ?framing, fun hf hnone => ?unknown, fun i hf hi hk => ?taken, fun i hf hi hk => ?refused⟩
  case framing => exact congrArg Host.Outcome.next (takeCommand_answered htake (by simp [judgeSlot, hf]))
  case unknown => exact congrArg Host.Outcome.next (takeCommand_answered htake (by simp [judgeSlot, hf, hnone]))
  case taken =>
    refine ⟨_, exec_commandOf hi s, congrArg Host.Outcome.next ?_⟩
    rw [takeCommand_taken htake hk, hjudge i hf hi]
  case refused =>
    obtain ⟨v, hv⟩ : ∃ v, v = { s with engine := { s.engine with state := .restarting } } := ⟨_, rfl⟩
    obtain ⟨r, hr, hop⟩ := commandEvent_answersIdle hi v (by rw [hv]; rfl)
    refine ⟨_, r, by rw [← hv]; exact (exec_commandOf hi v).trans (congrArg _ (runEvent_ok _ _ _ hop)), ?_, hr,
      congrArg Host.Outcome.next ?_⟩
    · rw [followUp_commandResult_of_restarting _ (by rw [hv])]
    · rw [takeCommand_refused htake hk]
      unfold State.refuseCommand
      rw [← hv, hjudge i hf hi, settle_ok _ _ _ hop]

/-- Settles O24: each row is a command, and its argument is out of range just when it is absent. -/
theorem commandsRefuseBadArgumentsAndIdleEngine : Obligations.CommandsRefuseBadArgumentsAndIdleEngine := by
  unfold Obligations.CommandsRefuseBadArgumentsAndIdleEngine
  intro s bad idle a b c hbad hidle
  have hrow {α : Type} (args : Option α) (act : α → Op Unit) {p : Prop} [Decidable p] (hp : p ↔ args = none)
      (h : args = none ∨ s.inRun = false) : (.next (s.runEvent (command args act)) : Host.Outcome State Fault Refusal)
        = .next (if p then bad else idle) := by
    cases args with
    | none => rw [if_pos (hp.mpr rfl), hbad, runEvent_ok _ _ _ (command_badArg act s)]
    | some x =>
      rw [if_neg fun hpp => Option.some_ne_none x (hp.mp hpp), hidle,
        runEvent_ok _ _ _ (command_notRunning x act s (h.resolve_left (Option.some_ne_none x)))]
  have hpost : (postArg a b).isNone = true ↔ postArg a b = none := Option.isNone_iff_eq_none
  have hseg : 8 ≤ a.toNat ↔ segmentArg a = none := by simp [segmentArg]
  have hpos : 16 ≤ a.toNat ↔ positionArg a = none := by simp [positionArg]
  have hzero (w : Word) : w = 0 ↔ w.toNat = 0 := by rw [← BitVec.toNat_inj]; rfl
  have hcall (w : Word) : w = 0 ↔ callArg w = none := by rw [hzero w]; simp [callArg]
  have hinc : a = 0 ∨ 256 ≤ a.toNat ↔ incidentArg a = none := by
    simp only [hzero, incidentArg, Bool.and_eq_true, decide_eq_true_eq, ite_eq_right_iff, reduceCtorEq, imp_false]
    omega
  have hboth {α β : Type} (x : Option α) (y : Option β) : x = none ∨ y = none ↔ bothArgs x y = none := by
    cases x <;> cases y <;> simp [bothArgs]
  have hpair : 16 ≤ a.toNat ∨ b = 0 ↔ bothArgs (positionArg a) (callArg b) = none := by rw [hpos, hcall, hboth]
  have hring : 16 ≤ a.toNat ∨ (postArg b c).isNone = true ↔ bothArgs (positionArg a) (postArg b c) = none := by
    rw [hpos, Option.isNone_iff_eq_none, hboth]
  refine ⟨fun i hi h => ?posts, fun i hi h => ?segments, fun h => ?drop, fun h => ?close, fun i hi h => ?positions,
    fun i hi h => ?pairs, fun h => ?callback⟩
  case posts =>
    simp only [List.mem_cons, List.not_mem_nil, or_false] at hi
    obtain rfl | rfl | rfl := hi <;> exact hrow (postArg a b) _ hpost h
  case segments =>
    simp only [List.mem_cons, List.not_mem_nil, or_false] at hi
    obtain rfl | rfl := hi <;> exact hrow (segmentArg a) _ hseg (h.imp_left hseg.mp)
  case drop => exact hrow (callArg a) _ (hcall a) (h.imp_left (hcall a).mp)
  case close => exact hrow (incidentArg a) _ hinc ((or_assoc.mpr h).imp_left hinc.mp)
  case positions =>
    simp only [List.mem_cons, List.not_mem_nil, or_false] at hi
    obtain rfl | rfl | rfl | rfl | rfl | rfl := hi <;> exact hrow (positionArg a) _ hpos (h.imp_left hpos.mp)
  case pairs =>
    have harg := (or_assoc.mpr h).imp_left hpair.mp
    simp only [List.mem_cons, List.not_mem_nil, or_false] at hi
    obtain rfl | rfl | rfl | rfl | rfl := hi <;> exact hrow (bothArgs (positionArg a) (callArg b)) _ hpair harg
  case callback =>
    refine hrow (bothArgs (positionArg a) (postArg b c)) _ hring ((or_assoc.mpr (h.imp_right ?_)).imp_left hring.mp)
    exact fun hor => hor.imp_left Option.isNone_iff_eq_none.mpr

end Sys2Proof.Machine
end

section
/-! SUPPORT. Start-up and class B faults (R6, R10, R180, R186 to R192): the request, the anchor read, the handing over of a fault,
the restart area, and the statements about them. -/

namespace Sys2Proof.Machine

/-! ### Writes of engine control that the queue takes at once (R11) -/

theorem engineWrites_takes {s : State} {e : QueueEntry} (hw : s.path.engineWaiting = [])
    (hq : queueTakes s.path.queue e.address = true) :
    s.engineWrites [e] = { s with path := { s.path with queue := enqueue s.path.queue e } } := by
  unfold State.engineWrites
  rw [hw]
  simp only [List.nil_append, flushWaiting, hq, if_true]
  rw [← hw]

/-- Settles O25: the request is acted on, or the event does nothing. -/
theorem startRequestBeginsAnchorRead : Obligations.StartRequestBeginsAnchorRead := by
  unfold Obligations.StartRequestBeginsAnchorRead
  intro s
  have hrow {t : State} (h : actOnStart s = .ok () t) : exec .startUp s = .next t.followUp :=
    congrArg Host.Outcome.next (runEvent_ok s t _ h)
  refine ⟨fun hreq hst hwin hw hq => ?acts, fun h => hrow (congrArg (EStateM.Result.ok ()) (if_neg ?waits))⟩
  case waits =>
    simp only [Bool.and_eq_true, beq_iff_eq, Option.isNone_iff_eq_none]
    rintro ⟨⟨hreq, hst⟩, hwin⟩
    simp [hreq, hst, hwin] at h
  case acts =>
    obtain ⟨t, ht⟩ : ∃ t, t = { s with
        engine := { s.engine with state := .starting, startRequest := false, step := .anchorRead }
        path := { s.path with readWords := 128 } } := ⟨_, rfl⟩
    have hword : t.writeStateWord = { t with path := { t.path with
        queue := enqueue t.path.queue { address := Config.anchorAddress 1, value := t.stateWord } } } :=
      engineWrites_takes (by rw [ht]; exact hw) (by rw [ht]; exact hq)
    have hacts : actOnStart s = .ok () t.writeStateWord.reportEngine := by
      refine (congrArg (EStateM.Result.ok ()) (if_pos ?_)).trans ?_
      · simp [hreq, hst, hwin]
      · rw [ht]; rfl
    rw [hword] at hacts
    refine ⟨_, hrow hacts, ?_, ?_, ?_⟩
    · rw [ht]; rfl
    · refine (queuedValue_enqueue _ _ _).trans ((if_pos rfl).trans (congrArg some ?_))
      rw [ht]; rfl
    · rw [ht]; rfl

/-! ### Class B faults (R186 to R192) -/

theorem line_map (f : LineSide → LineSide) (s : State) (l : LineId) :
    State.line { s with lines := s.lines.map f } l = f (s.line l) := by
  simp [State.line, Vector.get_eq_getElem]

theorem held_off_or_halting (x : LineSide) : x.held.state = .off ∨ x.held.state = .halting := by
  unfold LineSide.held
  split
  · exact .inl (eq_of_beq ‹_›)
  · split
    · exact .inl rfl
    · exact .inr rfl

/-- The fault is kept and the clear begins. -/
def State.clearBegun (s : State) (f : ClassB) : State := (s.keepFault f).beginClear

theorem clearBegun_lines (s : State) (f : ClassB) (l : LineId) :
    ((s.clearBegun f).line l).state = .off ∨ ((s.clearBegun f).line l).state = .halting := by
  have : (s.clearBegun f).line l = (s.line l).held := line_map LineSide.held s l
  rw [this]
  exact held_off_or_halting _

/-- Settles O28: by the engine state. -/
theorem classBFaultStartsRestart : Obligations.ClassBFaultStartsRestart := by
  unfold Obligations.ClassBFaultStartsRestart
  intro s f
  refine ⟨fun hst => ?run, fun hst => ?restarting, fun hst => ?ignored, fun hst => ⟨fun hc => ?clearing, fun hc => ?clears⟩⟩
  case run =>
    have hclass : s.classB f = State.setEngineState .restarting { s.clearBegun f with engine := { (s.clearBegun f).engine with
        history := nextHistory s.engine.history s.time
        restartCount := saturate255 s.engine.restartCount
        outcomeFailed := (nextHistory s.engine.history s.time).length == 3 } } := by
      unfold State.classB
      rw [hst]
      rfl
    refine ⟨_, rfl, ?_⟩
    rw [hclass]
    exact ⟨rfl, rfl, rfl, rfl, rfl, rfl, rfl, clearBegun_lines s f, rfl, rfl⟩
  case restarting =>
    unfold State.classB
    rw [hst]
  case ignored =>
    unfold State.classB
    obtain hst | hst := hst <;> rw [hst]
  case clearing =>
    unfold State.classB
    obtain hst | hst := hst <;> rw [hst] <;> exact if_pos hc
  case clears =>
    have hclass : s.classB f = { s.clearBegun f with engine := { (s.clearBegun f).engine with outcomeFailed := true } } := by
      unfold State.classB
      obtain hst | hst := hst <;> rw [hst] <;> exact if_neg (Bool.eq_false_iff.mp hc)
    refine ⟨_, rfl, ?_⟩
    rw [hclass]
    refine ⟨rfl, clearBegun_lines s f, ?_, rfl⟩
    change (match s.engine.state with
      | .standby | .starting | .stopping | .failed => true
      | .run | .restarting => false) = true
    obtain hst | hst := hst <;> rw [hst]

/-! ### The polled sets (R33, R34) -/

/-- Of the line sides the last-exchange times alone may differ. -/
def State.PollsOnly (s t : State) : Prop :=
  (∃ ls, t = { s with lines := ls }) ∧ ∀ l, t.line l = { s.line l with lastExchange := (t.line l).lastExchange }

theorem State.PollsOnly.refl (s : State) : s.PollsOnly s := ⟨⟨s.lines, rfl⟩, fun _ => rfl⟩

theorem State.PollsOnly.trans (s t u : State) (h : s.PollsOnly t) (k : t.PollsOnly u) : s.PollsOnly u := by
  obtain ⟨⟨ls, rfl⟩, hl⟩ := h
  obtain ⟨⟨ks, rfl⟩, kl⟩ := k
  exact ⟨⟨ks, rfl⟩, fun l => by rw [kl l, hl l]⟩

theorem updateLine_line (l k : LineId) (f : LineSide → LineSide) (s : State) :
    (s.updateLine l f).line k = if lineIndex k = lineIndex l then f (s.line l) else s.line k := by
  simp only [State.line, State.updateLine, put_get]

theorem syncPolledSide_pollsOnly (i : Fin 256) (side : Side) (s : State) : s.PollsOnly (s.syncPolledSide i side) := by
  unfold State.syncPolledSide
  extract_lets l t t'
  split
  · exact .refl s
  · refine ⟨⟨_, rfl⟩, fun k => ?_⟩
    rw [updateLine_line]
    split
    next h => rw [show s.line k = s.line l by unfold State.line; rw [h]]
    next => rfl

theorem syncPolled_pollsOnly (i : Fin 256) (s : State) : s.PollsOnly (s.syncPolled i) :=
  .trans _ _ _ (syncPolledSide_pollsOnly i .near s) (syncPolledSide_pollsOnly i .far _)

theorem syncAllPolled_pollsOnly (s : State) : s.PollsOnly s.syncAllPolled :=
  keeps_foldl .refl .trans _ (fun s i => syncPolled_pollsOnly i s) _ s

theorem beginDirectoryRead_pollsOnly (step : EngineStep) (s : State) : State.PollsOnly { s with
    directory := s.directory.map DirectoryEntry.invalidated
    path := { s.path with readWords := Config.directoryWords }
    engine := { s.engine with step := step } } (s.beginDirectoryRead step) := syncAllPolled_pollsOnly _

/-! ### The anchor read (R6, R10, R180) -/

theorem memoryAnchor_eq {m : List Host.Cell} {a : Vector Word 128}
    (h : ∀ n : Fin 128, a.get n = Memory.word m (Config.anchorBase + 2 * n.val)) : memoryAnchor m = a := by
  refine Vector.ext fun n hn => ?_
  have := h ⟨n, hn⟩
  rw [Vector.get_eq_getElem] at this
  simpa [memoryAnchor, Config.anchorAddress] using this.symm

/-- The anchor read with nothing waiting for the memory port: the shadow takes what memory holds, and its layout is judged. -/
theorem anchorRead_runs {s : State} {a : Vector Word 128} (hstep : s.engine.step = .anchorRead) (hq : s.path.queue = [])
    (hw : s.path.engineWaiting = []) (ha : memoryAnchor s.mem = a) {t : State}
    (ht : t = { s with path := { s.path with anchor := a, partTurn := false, readWords := 0 } }) :
    anchorRead s = .ok () (if validateAnchor a = .ok then t.anchorValid else t.anchorInvalid (validateAnchor a)) := by
  have hdry : (s.engine.step == .anchorRead && s.queueDry) = true := by simp [hstep, State.queueDry, hq, hw]
  have hread : ({ s.readDone with path := { s.readDone.path with anchor := memoryAnchor s.readDone.mem } } : State) = t := by
    rw [ht, ← ha]
    rfl
  have hdone : memoryAnchor s.readDone.mem = a := ha
  unfold anchorRead
  rw [Op.modify_apply, if_pos hdry]
  dsimp only
  rw [hread, hdone]
  generalize validateAnchor a = reason
  cases reason <;> rfl

/-- An anchor that validates: windows, clamped parameters and their flag, and the directory read under way. -/
theorem anchorValid_frame (s : State) : ∃ lines reports q w c, s.anchorValid = { s with
      lines := lines, reports := reports, directory := s.directory.map DirectoryEntry.invalidated
      path := { s.path with windows := some (layoutOf s.path.anchor), anchor := clampAnchor s.path.anchor
                            readWords := Config.directoryWords, queue := q, engineWaiting := w }
      engine := { s.engine with reason := .ok, step := .directoryRead
                                clamped := !decide (clampAnchor s.path.anchor = s.path.anchor), lastChange := c } }
    ∧ ∀ l, s.anchorValid.line l = { s.line l with lastExchange := (s.anchorValid.line l).lastExchange } := by
  obtain ⟨a, ha⟩ : ∃ a, a = s.path.anchor := ⟨_, rfl⟩
  obtain ⟨t, ht⟩ : ∃ t, t = { s with
      path := { s.path with windows := some (layoutOf a), anchor := clampAnchor a }
      engine := { s.engine with reason := .ok } } := ⟨_, rfl⟩
  obtain ⟨u, hu'⟩ : ∃ u, u = if s.engine.reason != .ok then t.writeStateWord else t := ⟨_, rfl⟩
  obtain ⟨v, hv'⟩ : ∃ v, v = u.setClamped false := ⟨_, rfl⟩
  obtain ⟨w, hw'⟩ : ∃ w, w = if clampAnchor a = a then v else v.setClamped true := ⟨_, rfl⟩
  have hvalid : s.anchorValid = w.beginDirectoryRead .directoryRead := by
    rw [hw', hv', hu', ht, ha]
    rfl
  obtain ⟨q₁, w₁, hu⟩ : ∃ q w, u = { t with path := { t.path with queue := q, engineWaiting := w } } := by
    rw [hu']
    exact stateWordIf_frame _ t
  obtain ⟨q₂, w₂, r₂, c₂, hv⟩ := setClamped_frame false u
  rw [← hv'] at hv
  obtain ⟨q₃, w₃, r₃, c₃, hw⟩ : ∃ q w₃ rs c, w = { v with
      path := { v.path with queue := q, engineWaiting := w₃ }, reports := rs
      engine := { v.engine with clamped := !decide (clampAnchor a = a), lastChange := c } } := by
    rw [hw']
    by_cases hsame : clampAnchor a = a
    · have hclamped : v.engine.clamped = false := by rw [hv]
      rw [if_pos hsame, decide_eq_true hsame, Bool.not_true, ← hclamped]
      exact ⟨v.path.queue, v.path.engineWaiting, v.reports, v.engine.lastChange, rfl⟩
    · obtain ⟨q, w', rs, c, h⟩ := setClamped_frame true v
      rw [if_neg hsame, decide_eq_false hsame, Bool.not_false]
      exact ⟨q, w', rs, c, h⟩
  obtain ⟨⟨ls, hb⟩, hlines⟩ := beginDirectoryRead_pollsOnly .directoryRead w
  have hws : w.lines = s.lines := by rw [hw, hv, hu, ht]
  rw [← ha, hvalid]
  refine ⟨ls, r₃, q₃, w₃, c₃, hb.trans ?_, fun l => (hlines l).trans ?_⟩
  · rw [hw, hv, hu, ht]
  · simp only [State.line, hws]

theorem invalidated_entry (s : State) (i : Fin 256) :
    ((s.directory.map DirectoryEntry.invalidated).get i).valid = false := by simp [Vector.get_eq_getElem, DirectoryEntry.invalidated]

theorem clampAnchor_get (a : Vector Word 128) (n : Fin 128) :
    (clampAnchor a).get n = if isParameter n.val then clampParameter n.val (a.get n) else a.get n := by
  simp [clampAnchor, Vector.get_eq_getElem]

/-- Settles O26: the layout is refused or taken, and no access waits to be served. -/
theorem anchorReadIsValidatedAndClamped : Obligations.AnchorReadIsValidatedAndClamped := by
  unfold Obligations.AnchorReadIsValidatedAndClamped
  intro s a hstep hq hw hheld ha
  obtain ⟨t, ht⟩ : ∃ t, t = { s with path := { s.path with anchor := a, partTurn := false, readWords := 0 } } := ⟨_, rfl⟩
  have hruns := anchorRead_runs hstep hq hw (memoryAnchor_eq ha) ht
  have hrow {u : State} (h : anchorRead s = .ok () u) (hu : u.path.heldAccesses = []) :
      exec .anchorReadDone s = .next u.followUp := by
    change Host.Outcome.next (s.settle anchorRead).serveHeld.followUp = _
    rw [settle_ok _ _ _ h, serveHeld_none _ hu]
  by_cases hv : validateAnchor a = .ok
  · rw [if_pos hv] at hruns
    obtain ⟨ls, rs, q, w, c, hframe, hlines⟩ := anchorValid_frame t
    have hclamp : t.anchorValid.path.anchor = clampAnchor a := by rw [hframe, ht]
    refine ⟨t.anchorValid, hrow hruns (by rw [hframe, ht]; exact hheld), ?_, fun h => absurd hv h, fun _ => ⟨?_, ?_, ?_, fun i => ?_,
      fun n => ?_, ?_⟩, fun l => ?_, ?_, ?_⟩
    · rw [hframe, hv]
    · rw [hframe, ht]
    · rw [hframe]
    · rw [hframe, ht]
    · rw [hframe, ht]; exact invalidated_entry _ _
    · rw [hclamp, clampAnchor_get]
    · have hflag : t.anchorValid.engine.clamped = !decide (clampAnchor a = a) := by rw [hframe, ht]
      have hext : clampAnchor a = a ↔ ∀ n : Fin 128, (clampAnchor a).get n = a.get n :=
        ⟨fun h n => by rw [h], fun h => Vector.ext fun n hn => h ⟨n, hn⟩⟩
      rw [hclamp, hflag, Bool.not_eq_true', decide_eq_false_iff_not, hext, not_forall]
    · have hline : t.line l = s.line l := by rw [ht]; rfl
      exact (hlines l).trans (by rw [hline])
    · rw [hframe, ht]; exact hheld
    · rw [hframe, ht]
  · rw [if_neg hv] at hruns
    have hinvalid : t.anchorInvalid (validateAnchor a) = State.setEngineState .standby { t with engine := { t.engine with
        reason := validateAnchor a, step := .idle } } := rfl
    refine ⟨_, hrow hruns (by rw [ht]; exact hheld), rfl, fun _ => ⟨rfl, rfl, ?_, ?_, ?_⟩, fun h => absurd h hv, fun l => ?_, ?_, ?_⟩
    · rw [ht]; rfl
    · rw [ht]; rfl
    · rw [ht]; rfl
    · rw [ht]; rfl
    · rw [ht]; exact hheld
    · rw [ht]; rfl

/-! ### The restart area (R15, R188, R191) -/

/-- Words written at even addresses from a base on. -/
def State.writeWords (base : Nat) (f : Fin 8 → Word) (ns : List (Fin 8)) (s : State) : State :=
  ns.foldl (fun s n => s.writeMemory (base + 2 * n.val) (f n)) s

section WriteWords

variable (base : Nat) (f : Fin 8 → Word)

theorem writeWords_frame : ∀ (ns : List (Fin 8)) (s : State), s.writeWords base f ns = { s with mem := (s.writeWords base f ns).mem }
  | [], _ => rfl
  | n :: ns, s => writeWords_frame ns (s.writeMemory (base + 2 * n.val) (f n))

/-- A byte of none of the words is as it was. -/
theorem writeWords_get_ne {b : Nat} : ∀ (ns : List (Fin 8)) (s : State),
    (∀ n ∈ ns, b ≠ base + 2 * n.val ∧ b ≠ base + 2 * n.val + 1) → Memory.get (s.writeWords base f ns).mem b = Memory.get s.mem b
  | [], _, _ => rfl
  | n :: ns, s, h => by
    obtain ⟨hlo, hhi⟩ := h n List.mem_cons_self
    exact (writeWords_get_ne ns _ fun m hm => h m (List.mem_cons_of_mem _ hm)).trans
      (Memory.get_write_ne _ b bothLanes (f n) (fun _ => hlo) fun _ => hhi)

/-- Each word written is read back. -/
theorem writeWords_word {n : Fin 8} {ns : List (Fin 8)} {s : State} (hnd : ns.Nodup) (hn : n ∈ ns)
    (hwf : Memory.wf s.mem = true) : Memory.word (s.writeWords base f ns).mem (base + 2 * n.val) = f n := by
  induction ns generalizing s with
  | nil => cases hn
  | cons k ns ih =>
    obtain ⟨hk, hnd⟩ := List.nodup_cons.mp hnd
    have hwf' : Memory.wf (s.writeMemory (base + 2 * k.val) (f k)).mem = true :=
      Memory.write_wf (base + 2 * k.val) bothLanes (f k) hwf
    obtain hnk | hn := List.mem_cons.mp hn
    · subst hnk
      have hne (m : Fin 8) (hm : m ∈ ns) : m.val ≠ n.val := fun e => hk (Fin.ext e ▸ hm)
      have hget (b : Nat) (hb : b = base + 2 * n.val ∨ b = base + 2 * n.val + 1) :
          Memory.get (s.writeWords base f (n :: ns)).mem b = Memory.get (s.writeMemory (base + 2 * n.val) (f n)).mem b :=
        writeWords_get_ne base f ns _ fun m hm => by have := hne m hm; omega
      have hself := Memory.word_write_self (base + 2 * n.val) (f n) hwf
      unfold Memory.word at hself ⊢
      rw [hget _ (.inl rfl), hget _ (.inr rfl)]
      exact hself
    · exact ih hnd hn hwf'

end WriteWords

theorem writeRestartArea_eq (s : State) : ∃ m, s.writeRestartArea = { s with mem := m }
    ∧ (Memory.wf s.mem = true → ∀ n : Fin 8, Memory.word m (0xFFFFF0 + 2 * n.val) = s.engine.area.get n)
    ∧ ∀ b, b < 0xFFFFF0 ∨ 0x1000000 ≤ b → Memory.get m b = Memory.get s.mem b := by
  have hfold : ∀ (ns : List (Fin 8)) (t : State), t.engine.area = s.engine.area →
      ns.foldl (fun s n => s.writeMemory (Config.anchorAddress (Config.restartArea + n.val)) (s.engine.area.get n)) t
        = t.writeWords 0xFFFFF0 s.engine.area.get ns := by
    intro ns
    induction ns with
    | nil => exact fun t _ => rfl
    | cons n ns ih =>
      intro t ht
      have haddr : Config.anchorAddress (Config.restartArea + n.val) = 0xFFFFF0 + 2 * n.val := by
        unfold Config.anchorAddress Config.anchorBase Config.restartArea
        omega
      rw [List.foldl_cons, haddr, ht]
      exact ih _ ht
  have harea : s.writeRestartArea = s.writeWords 0xFFFFF0 s.engine.area.get (List.finRange 8) := hfold _ s rfl
  refine ⟨_, harea.trans (writeWords_frame _ _ _ s), fun hwf n => ?_, fun b hb => ?_⟩
  · exact writeWords_word _ _ (List.nodup_finRange 8) (List.mem_finRange n) hwf
  · exact writeWords_get_ne _ _ _ s fun n _ => by have := n.isLt; omega

/-- One access held and no reason to wait: it is served, and none is left. -/
theorem serveHeld_one {s : State} {x : HostAccess} (h : s.path.heldAccesses = [x]) (hw : s.accessWaits = false)
    (hturn : s.path.partTurn = false) :
    s.serveHeld = State.settle { s with path := { s.path with heldAccesses := [] } } (serveAccess x) := by
  have hgrant : s.grantRead = s := by simp [State.grantRead, hturn]
  rw [State.serveHeld, h, State.serveHeldList, hw]
  simp only [Bool.false_eq_true, if_false, hgrant, State.serveHeldList]

/-- A write that is no trespass, to a word that nothing snoops. -/
theorem serveWrite_unsnooped {a : BitVec 24} {d : Word} {en : Enables} {s : State} (hen : en.some = true)
    (ht : s.trespasses (wordAddress a) = false) (ha : anchorWordAt (wordAddress a) = none)
    (hd : s.directoryAt (wordAddress a) = none) (hs : s.slotAt (wordAddress a) = none) :
    serveWrite a d en s = .ok () { s with mem := Memory.write s.mem (wordAddress a) en d } := by
  have hsnoop : snoop (wordAddress a) d en { s with mem := Memory.write s.mem (wordAddress a) en d }
      = .ok () { s with mem := Memory.write s.mem (wordAddress a) en d } := snoop_none ha hd hs
  simp only [serveWrite, Op.bind_apply, Op.get_apply, Op.ite_apply, Op.set_apply, ht, enables_some hen, not_true_eq_false,
    Bool.false_eq_true, if_false, hsnoop]

/-- Settles O29: the area's words, then the held accesses. -/
theorem restartAreaIsWrittenAfterDrain : Obligations.RestartAreaIsWrittenAfterDrain := by
  unfold Obligations.RestartAreaIsWrittenAfterDrain
  intro s
  obtain ⟨t, ht⟩ : ∃ t, t = { s with
      engine := { s.engine with step := .linesHalting }, path := { s.path with partTurn := false } } := ⟨_, rfl⟩
  have harea (hstep : s.engine.step = .areaWriting) : s.areaWritten = t.serveHeld := by
    rw [ht]
    exact if_pos hstep
  have hturn : t.path.partTurn = false := by rw [ht]
  have hwaits : t.accessWaits = false := by rw [ht]; rfl
  have hdone : State.accessDone { t with path := { t.path with heldAccesses := [] } } = { s with
      engine := { s.engine with step := .linesHalting }
      path := { s.path with heldAccesses := [], partTurn := decide (24 ≤ s.path.queue.length) } } := by
    have hpart : t.partReadWaiting = false := by rw [ht]; rfl
    unfold State.accessDone
    rw [show State.partReadWaiting { t with path := { t.path with heldAccesses := [] } } = t.partReadWaiting from rfl, hpart,
      Bool.or_false, ht]
    rfl
  refine ⟨fun hstep hq hw hwf => ?drained, fun hstep hheld => ?none, fun a en hstep hheld => ?read,
    fun a d en hstep hheld hen htr ha hd hs => ?write⟩
  case drained =>
    obtain ⟨m, hm, hwords, hrest⟩ := writeRestartArea_eq { s with engine := { s.engine with
      area := s.restartArea, step := .areaWriting } }
    have hruns : drained s = .ok () _ :=
      (congrArg (EStateM.Result.ok ()) (if_pos (by simp [hstep, State.queueDry, hq, hw]))).trans
        (congrArg (EStateM.Result.ok ()) hm)
    exact ⟨_, congrArg Host.Outcome.next (runEvent_ok _ _ _ hruns), rfl, rfl, hwords hwf, hrest, rfl⟩
  case none =>
    refine next_followUp ?_
    rw [harea hstep, serveHeld_none _ (by rw [ht]; exact hheld), ht]
  case read =>
    refine next_followUp ?_
    rw [harea hstep, serveHeld_one (by rw [ht]; exact hheld) hwaits hturn]
    refine (settle_ok _ (State.serveRead a en _) _ rfl).trans ?_
    rw [hdone]
    rfl
  case write =>
    refine next_followUp ?_
    rw [harea hstep, serveHeld_one (by rw [ht]; exact hheld) hwaits hturn]
    have hserved : State.settle { t with path := { t.path with heldAccesses := [] } } (serveAccess (.write a d en))
        = (State.accessDone { t with path := { t.path with heldAccesses := [] } }).settle (serveWrite a d en) := rfl
    rw [hserved, hdone]
    exact settle_ok _ _ _ (serveWrite_unsnooped hen htr ha hd hs)

end Sys2Proof.Machine
end

section
/-! SUPPORT. Commands and timers that change one record: READY and the wrap timer, CLOSE_INCIDENT and the window timer, the
stable and restore timers, TEST_POST and the re-announcement timer (R60, R72, R84, R105, R123, R125, R141, R142). -/

namespace Sys2Proof.Machine

/-- The row of a command in RUN with its argument in range. -/
theorem next_command {α : Type} {s u : State} {act : α → Op Unit} {args : Option α} {a : α} (hrun : s.inRun = true)
    (ha : args = some a) (h : act a { s with commandResult := some .notRunning } = .ok () u) :
    (.next (s.runEvent (command args act)) : Host.Outcome State Fault Refusal) = .next u.followUp := by
  rw [ha, runEvent_command hrun h]

/-- The row of an event that no fault cuts short. -/
theorem next_event {s u : State} {op : Op Unit} (h : op s = .ok () u) :
    (.next (s.runEvent op) : Host.Outcome State Fault Refusal) = .next u.followUp := by rw [runEvent_ok s u op h]

/-! ### READY and the wrap timer (R141, R142) -/

theorem freePosition_writes {s : State} {p : Fin 16} (h : (s.position p).corrupt = false) : freePosition p s = .ok () { s with
    positions := put s.positions p { (s.position p).idle .free with freeSince := s.time }
    reports := { s.reports with list := markObject s.reports.list (.position p) true true false s.time }
    dispatchDue := s.dispatchDue || (s.position p).held.isEmpty } := by
  rw [freePosition_ok p s h, placePosition_eq p (x := { (s.position p).idle .free with freeSince := s.time }) h]
  rfl

theorem readyPosition_refused {s : State} {p : Fin 16} (h : (s.position p).corrupt = false)
    (hst : (s.position p).state ≠ .wrapup) : readyPosition p s = .ok () { s with commandResult := some .badState } := by
  simp only [readyPosition, Op.bind_apply, readPosition_ok s p h, if_neg hst, answer_apply]

theorem readyPosition_frees {s : State} {p : Fin 16} (h : (s.position p).corrupt = false)
    (hst : (s.position p).state = .wrapup) :
    readyPosition p s = freePosition p { s with commandResult := some .done } := by
  simp only [readyPosition, Op.bind_apply, readPosition_ok s p h, if_pos hst, answer_apply]

/-- Settles O41: READY and the timer both free the position. -/
theorem wrapupEndsByReadyOrTimer : Obligations.WrapupEndsByReadyOrTimer := by
  unfold Obligations.WrapupEndsByReadyOrTimer
  intro s w p hw hc
  refine ⟨fun hrun hst => ?_, fun hrun hst => ?_, fun hst hdue => ?_⟩
  · exact next_command hrun hw (readyPosition_refused (s := { s with commandResult := some .notRunning }) hc hst)
  · exact next_command hrun hw ((readyPosition_frees (s := { s with commandResult := some .notRunning }) hc hst).trans
      (freePosition_writes hc))
  · exact next_event ((positionTimer_due p _ _ _ s hst hdue hc).trans (freePosition_writes hc))

/-! ### CLOSE_INCIDENT and the window timer (R123 to R125) -/

/-- An incident written and reported, its check code in order. -/
theorem incidentWritten_eq (k : Fin 16) {x : Incident} (h : x.corrupt = false) (s : State) :
    (s.setIncident k x).reportIncident k = { s with
      cluster := { s.cluster with records := put s.cluster.records k (some x) }
      reports := { s.reports with list := markObject s.reports.list (.incident k) true true false s.time } } := by
  have hx : ({ x with corrupt := false } : Incident) = x := by rw [← h]
  simp only [State.setIncident, hx]
  rfl

theorem closeIncident_gone {s : State} {n : Nat} (h : s.incidentNumbered n = none) :
    closeIncident n s = .ok () { s with commandResult := some .gone } := by
  simp only [closeIncident, Op.bind_apply, Op.get_apply, h, answer_apply]

/-- What CLOSE_INCIDENT does with the record it finds, by the record's state. -/
theorem closeIncident_found {s : State} {n : Nat} {k : Fin 16} {x : Incident} (h : s.incidentNumbered n = some k)
    (hx : s.incident k = some x) (hc : x.corrupt = false) :
    (x.state = .closed → closeIncident n s = .ok () { s with commandResult := some .gone })
    ∧ (x.state = .quiet → closeIncident n s = .ok () { s with commandResult := some .badState })
    ∧ (x.state = .opened → closeIncident n s
        = .ok () ((State.setIncident k (x.becomeQuiet .command) { s with commandResult := some .done }).reportIncident k)) := by
  refine ⟨fun hst => ?_, fun hst => ?_, fun hst => ?_⟩ <;>
    simp only [closeIncident, Op.bind_apply, Op.get_apply, h, readIncident_ok s k x hx hc, hst, answer_apply, Op.modify_apply]

/-- The incident as its window's end or the command leaves it. -/
theorem becomeQuiet_eq (x : Incident) (q : QuietCause) : x.becomeQuiet q = { x with
    state := if x.live = 0 then .closed else .quiet
    quietCause := some q
    closeCause := if x.live = 0 then some q.close else x.closeCause
    windowTimer := none } := by
  unfold Incident.becomeQuiet Incident.closeIfEmpty
  by_cases hlive : x.live = 0
  · rw [if_pos (by simp [hlive]), if_pos hlive, if_pos hlive]
    rfl
  · rw [if_neg (by simp [hlive]), if_neg hlive, if_neg hlive]

/-- Settles O38: the command and the timer make the same change with their own cause. -/
theorem openIncidentBecomesQuietOrCloses : Obligations.OpenIncidentBecomesQuietOrCloses := by
  unfold Obligations.OpenIncidentBecomesQuietOrCloses
  intro s w n k x hsound
  have hchecked (hx : s.incident k = some x) : x.corrupt = false := by
    simpa [hx] using hsound.incidents k
  have hquiet (hx : s.incident k = some x) (q : QuietCause) : (x.becomeQuiet q).corrupt = false := by
    rw [becomeQuiet_eq]
    exact hchecked hx
  refine ⟨fun hw => ?badArg, fun hrun hw hn => ?gone, fun hrun hw hn hx => ?found, fun hx hst hdue => ?expires⟩
  case badArg =>
    change Host.Outcome.next (s.runEvent (command (incidentArg w) closeIncident)) = _
    rw [hw]
    exact next_event (command_badArg _ _)
  case gone => exact next_command hrun hw (closeIncident_gone hn)
  case found =>
    obtain ⟨hclosed, hquieted, hopened⟩ :=
      closeIncident_found (s := { s with commandResult := some .notRunning }) hn hx (hchecked hx)
    cases hst : x.state with
    | closed => exact next_command hrun hw (hclosed hst)
    | quiet => exact next_command hrun hw (hquieted hst)
    | opened =>
      refine next_command hrun hw ((hopened hst).trans ?_)
      rw [incidentWritten_eq k (hquiet hx .command), becomeQuiet_eq]
      rfl
  case expires =>
    refine next_event (op := windowExpires k) ?_
    have hany : (s.incident k).any (fun x => x.windowDue s.time) = true := by simp [hx, Incident.windowDue, hst, hdue]
    simp only [windowExpires, Op.bind_apply, Op.get_apply, Op.ite_apply, hany, if_true, readIncident_ok s k x hx (hchecked hx),
      Op.modify_apply]
    rw [incidentWritten_eq k (hquiet hx .expired), becomeQuiet_eq]
    rfl

/-! ### The stable and restore timers (R72, R84) -/

theorem setSegment_frame (g : Fin 8) (x : Segment) (s : State) : ∃ l, s.setSegment g x = { s with
    segments := put s.segments g x, reports := { s.reports with list := l } } := by
  unfold State.setSegment
  split
  · exact ⟨_, rfl⟩
  · exact ⟨_, rfl⟩

theorem updateLine_line_ne {l k : LineId} (f : LineSide → LineSide) (s : State) (h : k ≠ l) :
    (s.updateLine l f).line k = s.line k := by
  rw [updateLine_line, if_neg fun hi => h (lineIndex_injective hi)]

/-- Settles O36: each timer writes its segment, and the restore timer asks for the probe. -/
theorem stableAndRestoreTimersAct : Obligations.StableAndRestoreTimersAct := by
  unfold Obligations.StableAndRestoreTimersAct
  intro s g
  refine ⟨fun hst hdue => ?stable, fun b hb hdue hst hrun => ?restore⟩
  case stable =>
    refine next_event (op := stableExpires g) ?_
    simp only [stableExpires, Op.bind_apply, Op.get_apply, Op.ite_apply, Op.set_apply, hst, hdue, and_self, if_true]
    rfl
  case restore =>
    have hmeasured : s.measuredBreak g { b with restoreTimer := none } = { b with restoreTimer := none } := by
      unfold State.measuredBreak
      rw [hb]
      exact if_pos (by simp [Break.sameLimits])
    obtain ⟨l, hl⟩ := setSegment_frame g { s.segment g with broken := some { b with restoreTimer := none } } s
    obtain ⟨t, ht⟩ : ∃ t, t = s.setBreak g { b with restoreTimer := none } := ⟨_, rfl⟩
    have hframe : t = { s with
        segments := put s.segments g { s.segment g with broken := some { b with restoreTimer := none } }
        reports := { s.reports with list := l } } := by
      rw [ht, State.setBreak, hmeasured, hl]
    have hruns : restoreExpires g s = .ok ()
        (t.updateLine (nearOf g) fun x => { x with probe := some (b.farLimit.getD b.firstRun) }) := by
      have hrun' : t.inRun = s.inRun := by rw [hframe]; rfl
      simp only [restoreExpires, Op.bind_apply, Op.get_apply, hb, Op.ite_apply, hdue, if_true, Op.set_apply, ← ht, hrun, hst,
        ne_eq, not_false_eq_true, and_self, Op.modify_apply]
    refine ⟨_, next_event hruns, by rw [State.updateLine_self], ?_, fun l hl => ?_, fun k hk => ?_, ?_⟩
    · rw [hframe]
      exact congrArg Segment.broken (put_get_self _ _ _)
    · rw [updateLine_line_ne _ _ hl, hframe]
      rfl
    · rw [hframe]
      exact put_get_ne _ _ _ _ hk
    · rw [hframe]
      rfl

/-! ### TEST_POST (R60) -/

/-- A post with a command pending has its drop on the service list of its own side (R32). -/
theorem syncService_mem {i : Fin 256} {s : State} (h : (s.post i).commands ≠ []) :
    postDrop i ∈ ((s.syncService i).line (s.lineOf i)).service := by
  unfold State.syncService
  rw [State.updateLine_self, if_neg (by simpa using h)]
  split
  · simpa using ‹(s.line (s.lineOf i)).service.contains (postDrop i) = true›
  · simp

/-- A command pended puts the post's drop on the service list of its own side (R32). -/
theorem pend_service {i : Fin 256} {kind : CommandKind} {call : Option Nat} {s u : State} (hc : (s.post i).corrupt = false)
    (h : pend i kind call s = .ok () u) : postDrop i ∈ (u.line (s.lineOf i)).service := by
  obtain ⟨t, ht⟩ : ∃ t, t = s.loseTest i ((s.post i).commands.any PendingCommand.isTest) := ⟨_, rfl⟩
  obtain ⟨l, hl⟩ : ∃ l, l = pendList (s.post i).commands { kind, call } := ⟨_, rfl⟩
  have hne : l ≠ [] := by
    rw [hl]
    unfold pendList
    split
    · simp
    · repeat' split
      all_goals simp
  rw [pend_ok i kind call s hc, ← ht, ← hl] at h
  obtain rfl : t.setCommands i l = u := (EStateM.Result.ok.inj h).2
  have hpost : (t.setPost i { t.post i with commands := l }).post i = { t.post i with commands := l, corrupt := false } :=
    State.setPost_self ..
  have hside : (t.setPost i { t.post i with commands := l }).lineOf i = s.lineOf i := by
    unfold State.lineOf
    rw [hpost, ht, State.loseTest_self _ _ _ hc]
  have hmem := syncService_mem (s := t.setPost i { t.post i with commands := l }) (by rw [hpost]; exact hne)
  rwa [hside] at hmem

/-- Settles O33: the three rows of TEST_POST. -/
theorem testPostPendsTest : Obligations.TestPostPendsTest := by
  unfold Obligations.TestPostPendsTest
  intro s g d i hrun hc hw
  have hread : readPost i { s with commandResult := some .notRunning }
      = .ok (s.post i) { s with commandResult := some .notRunning } := readPost_ok _ i hc
  refine ⟨fun hst => ?badState, fun hst hbusy => ?busy, fun hst hcall hdef hcmd => ?pends⟩
  case badState =>
    refine next_command hrun hw ?_
    simp only [testPost, Op.bind_apply, hread, Op.ite_apply, if_pos hst, answer_apply]
  case busy =>
    refine next_command hrun hw ?_
    simp only [testPost, Op.bind_apply, hread, Op.ite_apply, hst, ne_eq, not_true_eq_false, if_false, if_pos hbusy,
      answer_apply]
  case pends =>
    obtain ⟨t, ht⟩ : ∃ t, t = State.setPost i { s.post i with testCancelled := false } { s with commandResult := some .done } :=
      ⟨_, rfl⟩
    have hset : State.TouchesPost { s with commandResult := some .done } t i := ht ▸ touchesPost_setPost i _ _
    have hself : t.post i = { s.post i with testCancelled := false } := by
      rw [ht, State.setPost_self]
      simp only [hc]
    obtain ⟨u, hu, htouch, hpost⟩ := pend_touchesPost i .test none t (by rw [hself]; exact hc)
    have hruns : testPost i { s with commandResult := some .notRunning } = .ok () u := by
      have hno : ¬ ((s.post i).liveCall.isSome = true ∨ (s.post i).deferred = true ∨ (s.post i).commands ≠ []) := by
        simp [hcall, hdef, hcmd]
      simp only [testPost, Op.bind_apply, hread, Op.ite_apply, if_neg (not_not.mpr hst), if_neg hno, answer_apply,
        Op.modify_apply]
      rw [← hu, ht]
    have htrans := hset.trans htouch
    obtain ⟨ps, ls, l, hframe⟩ := htrans.frame
    refine ⟨u, next_command hrun hw hruns, by rw [hframe], ?_, ?_, htrans.posts, by rw [hframe]⟩
    · rw [hpost, State.postPended, hself]
      simp [hcmd]
    · have hline : t.lineOf i = s.lineOf i := by unfold State.lineOf; rw [hself]
      rw [← hline]
      exact pend_service (by rw [hself]; exact hc) hu

/-! ### The re-announcement timer (R105) -/

theorem TouchesPost_call {s u : State} {i : Fin 256} (h : s.TouchesPost u i) (r : Fin 64) : u.call r = s.call r := by
  obtain ⟨ps, ls, l, rfl⟩ := h.frame
  rfl

/-- PLAY STILL_WAITING is pended to the post of each call of a list, the posts being distinct. -/
theorem reannounceCalls_run (l : List (Fin 64)) : ∀ t : State,
    (∀ r ∈ l, ∃ c, t.call r = some c ∧ c.corrupt = false ∧ (t.post c.post).corrupt = false) →
    (l.map (fun r => (t.call r).map Call.post)).Nodup →
    ∃ u, l.forM reannounceCall t = .ok ⟨⟩ u
      ∧ (∃ ps ls list, u = { t with posts := ps, lines := ls, reports := { t.reports with list := list } })
      ∧ (∀ r ∈ l, ∀ c, t.call r = some c → u.post c.post = t.postPended c.post (.play .stillWaiting) (some c.number))
      ∧ ∀ i, (∀ r ∈ l, ∀ c, t.call r = some c → c.post ≠ i) → u.post i = t.post i := by
  induction l with
  | nil => exact fun t _ _ => ⟨t, rfl, ⟨_, _, _, rfl⟩, fun r hr => absurd hr List.not_mem_nil, fun i _ => rfl⟩
  | cons r l ih =>
    intro t hl hnd
    obtain ⟨c, hr, hc, hp⟩ := hl r List.mem_cons_self
    obtain ⟨hfirst, hnd⟩ := List.nodup_cons.mp (List.map_cons ▸ hnd)
    have hne (q : Fin 64) (hq : q ∈ l) (d : Call) (hd : t.call q = some d) : d.post ≠ c.post := fun e =>
      hfirst (by rw [hr, Option.map_some, ← e, ← Option.map_some (f := Call.post), ← hd]
                 exact List.mem_map_of_mem (f := fun q => (t.call q).map Call.post) hq)
    obtain ⟨v, hv, htouch, hpost⟩ := pend_touchesPost c.post (.play .stillWaiting) (some c.number) t hp
    have hcall (q : Fin 64) : v.call q = t.call q := TouchesPost_call htouch q
    obtain ⟨u, hu, ⟨ps, ls, list, hframe⟩, hpended, hother⟩ := ih v (fun q hq => by
        obtain ⟨d, hd, hdc, hdp⟩ := hl q (List.mem_cons_of_mem _ hq)
        exact ⟨d, (hcall q).trans hd, hdc, by rw [htouch.posts _ (hne q hq d hd)]; exact hdp⟩)
      (by simpa only [hcall] using hnd)
    obtain ⟨ps', ls', list', hvframe⟩ := htouch.frame
    refine ⟨u, ?_, ⟨ps, ls, list, by rw [hframe, hvframe]⟩, fun q hq d hd => ?_, fun i hi => ?_⟩
    · simp only [List.forM_eq_forM, List.forM_cons, Op.bind_apply, reannounceCall, withCall_ok t r c _ hr hc, hv] at hu ⊢
      exact hu
    · obtain rfl | hq := List.mem_cons.mp hq
      · obtain rfl : c = d := Option.some.inj (hr.symm.trans hd)
        rw [hother c.post fun q hq d hd => hne q hq d ((hcall q).symm.trans hd), hpost]
      · rw [hpended q hq d ((hcall q).trans hd), State.postPended, htouch.posts _ (hne q hq d hd), State.postPended]
    · rw [hother i fun q hq d hd => hi q (List.mem_cons_of_mem _ hq) d ((hcall q).symm.trans hd),
        htouch.posts i fun e => hi r List.mem_cons_self c hr e.symm]

/-- The interval is 0 ticks just where it is 0 s. -/
theorem reannounceExpiry_eq (s : State) :
    s.reannounceExpiry = if s.parameter 44 = 0 then none else some (s.after (s.parameter 44 * 100)) := by
  unfold State.reannounceExpiry State.reannounceTicks ticksOfSeconds
  by_cases h : s.parameter 44 = 0
  · rw [if_pos (by omega), if_pos h]
  · rw [if_neg (by omega), if_neg h]

/-- Settles O39: the timer restarts, and every queued call's post is told. -/
theorem reannouncementPlaysStillWaiting : Obligations.ReannouncementPlaysStillWaiting := by
  unfold Obligations.ReannouncementPlaysStillWaiting
  intro s hsound hdue hsome hnd
  obtain ⟨t, ht⟩ : ∃ t, t = { s with calls := { s.calls with reannounce := s.reannounceExpiry } } := ⟨_, rfl⟩
  have hcall (r : Fin 64) : t.call r = s.call r := by rw [ht]; rfl
  have hpost (i : Fin 256) : t.post i = s.post i := by rw [ht]; rfl
  obtain ⟨u, hu, ⟨ps, ls, list, hframe⟩, hpended, hother⟩ := reannounceCalls_run s.calls.queue t
    (fun r hr => by
      obtain ⟨c, hc⟩ := Option.isSome_iff_exists.mp (hsome r hr)
      exact ⟨c, (hcall r).trans hc, hsound.call_checked hc, by rw [hpost]; exact hsound.posts _⟩)
    (by simpa only [hcall] using hnd)
  have hruns : reannounceExpires s = .ok () u := by
    simp only [reannounceExpires, Op.bind_apply, Op.get_apply, Op.ite_apply, hdue, if_true, Op.set_apply]
    rw [← hu, ht]
  refine ⟨u, next_event hruns, ?_, fun r hr c hc => ?_, fun i hi => ?_, by rw [hframe, ht]⟩
  · rw [hframe, ht, ← reannounceExpiry_eq]
  · rw [hpended r hr c ((hcall r).trans hc), State.postPended, hpost, State.postPended]
  · rw [hother i fun r hr c hc => hi r hr c ((hcall r).symm.trans hc), hpost]

end Sys2Proof.Machine
end

section
/-! SUPPORT. The ending step of a call (R99, R100) for every cause: its parts put together for a call that waits without a
channel, for one on offer and for one with a party. -/

namespace Sys2Proof.Machine

/-! ### What a change of posts leaves of the line sides -/

/-- Every line side is as it was but for its service list and its last-exchange times. -/
def State.LinesServe (s u : State) : Prop :=
  ∀ l, ∃ polls service, u.line l = { s.line l with lastExchange := polls, service := service }

theorem State.LinesServe.of_lines {s u : State} (h : u.lines = s.lines) : s.LinesServe u :=
  fun l => ⟨_, _, by rw [State.line, h]; rfl⟩

theorem State.LinesServe.refl (s : State) : s.LinesServe s := .of_lines rfl

theorem State.LinesServe.trans {s t u : State} (h : s.LinesServe t) (k : t.LinesServe u) : s.LinesServe u := fun l => by
  obtain ⟨_, _, ht⟩ := h l
  obtain ⟨_, _, hu⟩ := k l
  exact ⟨_, _, hu.trans (by rw [ht])⟩

theorem updateLine_linesServe (k : LineId) (f : LineSide → LineSide) (s : State)
    (h : ∀ x, ∃ polls service, f x = { x with lastExchange := polls, service := service }) :
    s.LinesServe (s.updateLine k f) := fun l => by
  by_cases hl : l = k
  · obtain ⟨polls, service, hf⟩ := h (s.line l)
    subst hl
    exact ⟨polls, service, ((updateLine_line l l f s).trans (if_pos rfl)).trans hf⟩
  · exact ⟨_, _, updateLine_line_ne f s hl⟩

theorem syncPolledSide_linesServe (i : Fin 256) (side : Side) (s : State) : s.LinesServe (s.syncPolledSide i side) := by
  unfold State.syncPolledSide
  extract_lets l t t'
  split
  · exact .refl s
  · exact updateLine_linesServe l _ s fun x => ⟨_, _, rfl⟩

theorem syncPolled_linesServe (i : Fin 256) (s : State) : s.LinesServe (s.syncPolled i) :=
  (syncPolledSide_linesServe i .near s).trans (syncPolledSide_linesServe i .far _)

theorem setPost_linesServe (i : Fin 256) (p : Post) (s : State) : s.LinesServe (s.setPost i p) := by
  simp only [State.setPost]
  split
  · exact (State.LinesServe.of_lines rfl).trans (syncPolled_linesServe i _)
  · exact (State.LinesServe.of_lines rfl).trans (syncPolled_linesServe i _)

theorem syncService_linesServe (i : Fin 256) (s : State) : s.LinesServe (s.syncService i) :=
  updateLine_linesServe _ _ s fun x => by
    split
    · exact ⟨_, _, rfl⟩
    · split
      · exact ⟨x.lastExchange, x.service, rfl⟩
      · exact ⟨_, _, rfl⟩

theorem loseTest_linesServe (i : Fin 256) (lost : Bool) (s : State) : s.LinesServe (s.loseTest i lost) := by
  simp only [State.loseTest]
  split
  · split
    · exact .of_lines rfl
    · exact setPost_linesServe i _ s
  · exact .refl s

theorem setCommands_linesServe (i : Fin 256) (l : List PendingCommand) (s : State) : s.LinesServe (s.setCommands i l) :=
  (setPost_linesServe i _ s).trans (syncService_linesServe i _)

theorem pend_linesServe {i : Fin 256} {kind : CommandKind} {call : Option Nat} {s t : State}
    (h : (s.post i).corrupt = false) (hp : pend i kind call s = .ok () t) : s.LinesServe t := by
  rw [pend_ok i kind call s h, EStateM.Result.ok.injEq] at hp
  rw [← hp.2]
  exact (loseTest_linesServe i _ s).trans (setCommands_linesServe i _ _)

/-! ### The post and the incident of an ended call -/

/-- The post of an ended call: it no longer names the call, and where the end asks for it a RELEASE is pended (R99, R100). -/
def State.postEnded (s : State) (c : Call) (release : Bool) : Post :=
  if release then s.postReleased c
  else { s.post c.post with
    liveCall := if (s.post c.post).liveCall = some c.number then none else (s.post c.post).liveCall }

theorem postEnded_corrupt (s : State) (c : Call) (release : Bool) :
    (s.postEnded c release).corrupt = (s.post c.post).corrupt := by
  cases release <;> rfl

theorem postEnded_congr {s v : State} {c : Call} {release : Bool} (h : v.post c.post = s.post c.post) :
    v.postEnded c release = s.postEnded c release := by
  unfold State.postEnded State.postReleased State.postPended
  rw [h]

theorem forgetCall_writes (c : Call) (s : State) (h : (s.post c.post).corrupt = false) :
    ∃ t, (if (s.post c.post).liveCall = some c.number then s.setPost c.post { s.post c.post with liveCall := none } else s) = t
      ∧ s.TouchesPost t c.post ∧ s.LinesServe t ∧ t.post c.post = s.postEnded c false := by
  refine ⟨_, rfl, ?_, ?_, ?_⟩
  · split
    · exact touchesPost_setPost _ _ s
    · exact .refl s _
  · split
    · exact setPost_linesServe _ _ s
    · exact .refl s
  · by_cases hl : (s.post c.post).liveCall = some c.number
    · rw [if_pos hl, State.setPost_self]; simp [State.postEnded, hl, h]
    · simp [State.postEnded, hl]

theorem endPost_runs (c : Call) (release : Bool) (s : State) (h : (s.post c.post).corrupt = false) :
    ∃ t, (if release = true then pend c.post .release (some c.number) else pure ())
        (if (s.post c.post).liveCall = some c.number then s.setPost c.post { s.post c.post with liveCall := none } else s)
        = .ok () t
      ∧ s.TouchesPost t c.post ∧ s.LinesServe t ∧ t.post c.post = s.postEnded c release := by
  obtain ⟨w, hw, hwt, hwl, hwp⟩ := forgetCall_writes c s h
  rw [hw]
  cases release
  case false => exact ⟨w, by simp, hwt, hwl, hwp⟩
  case true =>
    have hcode : (w.post c.post).corrupt = false := by rw [hwp]; exact h
    obtain ⟨t, hp, ht, he⟩ := pend_touchesPost c.post .release (some c.number) w hcode
    refine ⟨t, by simpa using hp, hwt.trans ht, hwl.trans (pend_linesServe hcode hp), ?_⟩
    rw [he, State.postPended, hwp]
    rfl

/-! ### The incident of an ended member (R122, R124) -/

/-- What the ends of its members leave of an incident: fewer live members, perhaps another lead, and CLOSED where a QUIET
one has none left. -/
structure Incident.Fades (x y : Incident) : Prop where
  live : y.live ≤ x.live
  frame : y = { x with
    state := y.state, closeCause := y.closeCause, live := y.live, lead := y.lead, leadAnswered := y.leadAnswered }
  state : y.state = x.state ∧ y.closeCause = x.closeCause
    ∨ x.state = .quiet ∧ y.state = .closed ∧ y.live = 0 ∧ y.closeCause = x.quietCause.map QuietCause.close

theorem Incident.Fades.refl (x : Incident) : x.Fades x := ⟨le_rfl, rfl, .inl ⟨rfl, rfl⟩⟩

theorem Incident.Fades.trans {x y z : Incident} (h : x.Fades y) (k : y.Fades z) : x.Fades z where
  live := k.live.trans h.live
  frame := by
    have hy := h.frame
    have hz := k.frame
    rw [hy] at hz
    exact hz
  state := by
    rcases k.state with ⟨hst, hcc⟩ | ⟨hq, hst, hl, hcc⟩
    · rcases h.state with ⟨hst', hcc'⟩ | ⟨hq', hst', hl', hcc'⟩
      · exact .inl ⟨hst.trans hst', hcc.trans hcc'⟩
      · exact .inr ⟨hq', hst.trans hst', Nat.le_zero.mp (hl' ▸ k.live), hcc.trans hcc'⟩
    · rcases h.state with ⟨hst', _⟩ | ⟨_, hst', _⟩
      · have hquiet : y.quietCause = x.quietCause := by rw [h.frame]
        exact .inr ⟨hst'.symm.trans hq, hst, hl, by rw [hcc, hquiet]⟩
      · exact absurd (hst'.symm.trans hq) (by decide)

/-- Every incident record fades. -/
def State.FadesIncidents (s u : State) : Prop :=
  ∀ k x, s.incident k = some x → ∃ y, u.incident k = some y ∧ x.Fades y

theorem State.FadesIncidents.of_cluster {s u : State} (h : u.cluster = s.cluster) : s.FadesIncidents u :=
  fun k x hx => ⟨x, by rw [← hx, State.incident, h]; rfl, .refl x⟩

theorem State.FadesIncidents.trans {s t u : State} (h : s.FadesIncidents t) (k : t.FadesIncidents u) :
    s.FadesIncidents u := fun j x hx => by
  obtain ⟨y, hy, hxy⟩ := h j x hx
  obtain ⟨z, hz, hyz⟩ := k j y hy
  exact ⟨z, hz, hxy.trans hyz⟩

theorem closeIfEmpty_fades {x y : Incident} (hl : y.live ≤ x.live) (hf : y = { x with
    live := y.live, lead := y.lead, leadAnswered := y.leadAnswered }) : x.Fades y.closeIfEmpty := by
  have hst : y.state = x.state := by rw [hf]
  have hcc : y.closeCause = x.closeCause := by rw [hf]
  have hquiet : y.quietCause = x.quietCause := by rw [hf]
  by_cases h : (y.state == .quiet && y.live == 0) = true
  · have hclose : y.closeIfEmpty = { y with state := .closed, closeCause := y.quietCause.map QuietCause.close } := if_pos h
    simp only [Bool.and_eq_true, beq_iff_eq] at h
    rw [hclose]
    refine ⟨hl, ?_, .inr ⟨hst.symm.trans h.1, rfl, h.2, congrArg (Option.map QuietCause.close) hquiet⟩⟩
    rw [hf]
  · have hclose : y.closeIfEmpty = y := if_neg h
    rw [hclose]
    refine ⟨hl, ?_, .inl ⟨hst, hcc⟩⟩
    rw [hst, hcc]
    exact hf

theorem setIncident_fades {s : State} {k : Fin 16} {x y : Incident} (hx : s.incident k = some x) (hc : x.corrupt = false)
    (h : x.Fades y) : s.FadesIncidents ((s.setIncident k y).reportIncident k) := fun j z hz => by
  have hrep : ((s.setIncident k y).reportIncident k).incident j = (s.setIncident k y).incident j := rfl
  rw [hrep]
  by_cases hj : j = k
  · subst hj
    have hzx : z = x := Option.some.inj (hz.symm.trans hx)
    have hy : y.corrupt = false := by rw [h.frame]; exact hc
    refine ⟨y, ?_, hzx ▸ h⟩
    rw [State.setIncident_self, ← hy]
  · exact ⟨z, by rw [State.setIncident_ne k j y s hj]; exact hz, .refl z⟩

theorem memberEnded_fades {c : Call} {s t : State} (h : ∀ k x, s.incident k = some x → x.corrupt = false)
    (ht : memberEnded c s = .ok () t) : s.FadesIncidents t := by
  rw [memberEnded] at ht
  simp only [Op.bind_apply, Op.get_apply] at ht
  cases hk : c.incident.bind s.liveIncident with
  | none =>
    simp only [hk, Op.pure_apply, EStateM.Result.ok.injEq, true_and] at ht
    exact .of_cluster (by rw [ht])
  | some k =>
    cases hx : s.incident k with
    | none =>
      simp only [hk, Op.bind_apply, readIncident_free s k hx, Op.pure_apply, EStateM.Result.ok.injEq, true_and] at ht
      exact .of_cluster (by rw [ht])
    | some x =>
      simp only [hk, Op.bind_apply, readIncident_ok s k x hx (h k x hx), Op.set_apply, EStateM.Result.ok.injEq,
        true_and] at ht
      rw [← ht]
      refine setIncident_fades hx (h k x hx) (closeIfEmpty_fades ?_ ?_)
      · split <;> exact Nat.sub_le _ _
      · split <;> rfl

/-! ### The tail of the ending step -/

/-- What the end of a call leaves of its record, its post and its incident, once its channel is freed and its positions have
been seen to. -/
structure State.FinishesRecord (v w : State) (r : Fin 64) (c : Call) (cause : EndCause) (release : Bool) : Prop where
  frame : ∃ ps ls k l, w = { v with
    posts := ps, lines := ls, cluster := k, reports := { v.reports with list := l }
    calls := { v.calls with records := put v.calls.records r (some (c.endedBy cause)) } }
  post : w.post c.post = v.postEnded c release
  lines : v.LinesServe w
  reports : v.KeepsReports w
  touches : ∀ p k, v.TouchesOnly w r p c.post k
  incidents : v.FadesIncidents w

/-- Some position is in speech with the call, or will be (R86). -/
def CallState.inSpeech (st : CallState) : Prop := st = .connecting ∨ st = .active ∨ st = .retrieving

/-- Where a segment holds no break, no restore waits for the calls of its FAR-side posts (R86). -/
theorem farCallLeft_unbroken {g : Fin 8} {s : State} (h : s.broken g = none) : farCallLeft g s = .ok () s := by
  simp only [farCallLeft, Op.bind_apply, Op.get_apply, h, Op.pure_apply]

/-- The ending step for a call whose end lets no restore of a break take place: what the channel map and the positions do,
then its record, its post and its incident, and last the judgement of overflow and the report (R99, R100). -/
theorem endCall_finishes_of {s t v : State} {r : Fin 64} {c d : Call} {cause : EndCause} (hr : s.call r = some c)
    (hc : c.corrupt = false) (hended : c.state ≠ .ended)
    (hfree : (if c.channel.isSome = true then freeCallChannel r else pure ()) (s.recordEnded r c cause) = .ok () t)
    (hpos : endPositions c cause t = .ok () v) (hd : v.call r = some d)
    (hdc : { d with parties := [], holder := none, corrupt := false } = c.endedBy cause)
    (hp : (v.post c.post).corrupt = false)
    (hstays : c.state.inSpeech → (v.post c.post).side = .far → ∀ w : State, w.engine = v.engine → w.segments = v.segments →
      farCallLeft (postSegment c.post) w = .ok () w)
    (hi : ∀ k x, v.incident k = some x → x.corrupt = false) :
    ∃ w, endCall r cause s = .ok () ((if c.state = .queued then w.judgeOverflow else w).reportCall r)
      ∧ v.FinishesRecord w r c cause (cause.releases c.state (v.post c.post).state) := by
  obtain ⟨v', hv'⟩ : ∃ v', v' = v.setCall r { d with parties := [], holder := none } := ⟨_, rfl⟩
  have hmod : v.modifyCall r (fun c => { c with parties := [], holder := none }) = v' := by
    simp only [State.modifyCall, hd, hv']
  have hrec : v' = { v with calls := { v.calls with records := put v.calls.records r (some (c.endedBy cause)) } } := by
    rw [← hdc]; exact hv'
  have hpost : v'.post c.post = v.post c.post := by rw [hrec]; rfl
  have hread := readPost_ok v' c.post (by rw [hpost]; exact hp)
  obtain ⟨x, hpend, hx, hxl, hxp⟩ := endPost_runs c (cause.releases c.state (v.post c.post).state) v'
    (by rw [hpost]; exact hp)
  obtain ⟨ps, ls, l, hxf⟩ := hx.frame
  obtain ⟨w, hmem, hw⟩ := memberEnded_sound c x (by rw [hxf, hrec]; exact hi)
  obtain ⟨k, l', hwf⟩ := hw.1
  have hfar (hcond : (c.state = .connecting ∨ c.state = .active ∨ c.state = .retrieving) ∧ (v'.post c.post).side = .far) :
      farCallLeft (postSegment c.post) (if c.state = .queued then w.judgeOverflow else w)
        = .ok () (if c.state = .queued then w.judgeOverflow else w) := by
    obtain ⟨hst, hside⟩ := hcond
    have hwaits : c.state ≠ .queued := by rcases hst with e | e | e <;> simp [e]
    rw [if_neg hwaits]
    exact hstays hst ((congrArg Post.side hpost).symm.trans hside) w (by rw [hwf, hxf, hrec]) (by rw [hwf, hxf, hrec])
  refine ⟨w, ?ends, ⟨ps, ls, k, l', by rw [hwf, hxf, hrec]⟩, ?post, ?lines, ?reports, fun p k => ?touches, ?incidents⟩
  case ends =>
    unfold endCall
    rw [withCall_ok s r c _ hr hc, if_neg hended]
    simp only [State.recordEnded] at hfree
    cases hch : c.channel.isSome
    case' false =>
      simp only [hch, Bool.false_eq_true, if_false, Op.pure_apply, EStateM.Result.ok.injEq, true_and] at hfree
    case' true => simp only [hch, if_true] at hfree
    all_goals
      rw [← hpost] at hpend
      simp only [Bool.false_eq_true, if_true, if_false, Op.bind_apply, Op.modify_apply, hfree, hpos, hmod, hread]
      cases hrel : cause.releases c.state (v'.post c.post).state
      case' false => simp only [hrel, Bool.false_eq_true, if_false, Op.pure_apply, EStateM.Result.ok.injEq, true_and] at hpend
      case' true => simp only [hrel, if_true] at hpend
      all_goals
        by_cases hcond : (c.state = .connecting ∨ c.state = .active ∨ c.state = .retrieving) ∧ (v'.post c.post).side = .far
        · simp only [Bool.false_eq_true, if_true, if_false, Op.bind_apply, Op.modify_apply, hpend, hmem, if_pos hcond,
            hfar hcond]
        · simp only [Bool.false_eq_true, if_true, if_false, Op.bind_apply, Op.modify_apply, hpend, hmem, if_neg hcond]
  case post => rw [hwf]; exact hxp.trans (by rw [hrec]; rfl)
  case lines =>
    refine State.LinesServe.trans (.of_lines (by rw [hrec])) (hxl.trans (.of_lines ?_))
    rw [hwf]
  case reports =>
    have hkeeps : v.KeepsReports v' := by rw [hrec]; exact .refl v
    exact hkeeps.trans (hx.reports.trans hw.2)
  case touches =>
    have hset := touchesOnly_setCall r p c.post k { d with parties := [], holder := none } v
    rw [← hv'] at hset
    exact (hset.trans (hx.touchesOnly r p k)).trans (hw.touchesOnly r p k)
  case incidents =>
    have hfirst : v.FadesIncidents x := .of_cluster (by rw [hxf, hrec])
    exact hfirst.trans (memberEnded_fades (by rw [hxf, hrec]; exact hi) hmem)

/-- The ending step where the post is on the NEAR side or its segment holds no break. -/
theorem endCall_finishes {s t v : State} {r : Fin 64} {c d : Call} {cause : EndCause} (hr : s.call r = some c)
    (hc : c.corrupt = false) (hended : c.state ≠ .ended)
    (hfree : (if c.channel.isSome = true then freeCallChannel r else pure ()) (s.recordEnded r c cause) = .ok () t)
    (hpos : endPositions c cause t = .ok () v) (hd : v.call r = some d)
    (hdc : { d with parties := [], holder := none, corrupt := false } = c.endedBy cause)
    (hp : (v.post c.post).corrupt = false)
    (hnear : c.state.inSpeech → (v.post c.post).side = .near ∨ v.broken (postSegment c.post) = none)
    (hi : ∀ k x, v.incident k = some x → x.corrupt = false) :
    ∃ w, endCall r cause s = .ok () ((if c.state = .queued then w.judgeOverflow else w).reportCall r)
      ∧ v.FinishesRecord w r c cause (cause.releases c.state (v.post c.post).state) := by
  refine endCall_finishes_of hr hc hended hfree hpos hd hdc hp (fun hst hside w _ hseg => ?_) hi
  have hunbroken : v.broken (postSegment c.post) = none :=
    (hnear hst).resolve_left fun e => Side.noConfusion (e.symm.trans hside)
  refine farCallLeft_unbroken ?_
  rw [← hunbroken, State.broken, State.broken, State.segment, State.segment, hseg]

/-! ### The end of a call, by the state it is in -/

/-- What the ending step leaves of an ended call, but for its positions and its channel: its record, its post, the queue,
overflow and the reports, and whatever it does not touch (R99, R100, R104). -/
structure State.EndsCall (s u : State) (r : Fin 64) (c : Call) (p : Fin 16) (k : Fin 32) (cause : EndCause) : Prop where
  frame : ∃ ps pos ls cl sp pa en cs rs d, u = { s with
    posts := ps, positions := pos, lines := ls, cluster := cl, speech := sp, path := pa, engine := en, calls := cs
    reports := { s.reports with list := rs }, dispatchDue := d }
  call : u.call r = some (c.endedBy cause)
  post : u.post c.post = s.postEnded c (cause.releases c.state (s.post c.post).state)
  lines : s.LinesServe u
  reported : u.Reported (.call r)
  reports : s.KeepsReports u
  queue : u.calls.queue = if c.state = .queued then s.calls.queue.erase r else s.calls.queue
  overflow : u.calls.overflow =
    if c.state = .queued then s.overflowAt (s.calls.queue.erase r).length else s.calls.overflow
  touches : s.TouchesOnly u r p c.post k

theorem recordEnded_touches (r : Fin 64) (p : Fin 16) (i : Fin 256) (k : Fin 32) (c : Call) (cause : EndCause) (s : State) :
    s.TouchesOnly (s.recordEnded r c cause) r p i k := by
  unfold State.recordEnded
  split
  · exact (touchesOnly_setCall r p i k _ s).trans (touchesOnly_leaveQueue r p i k r _)
  · exact touchesOnly_setCall r p i k _ s

theorem recordEnded_reports (r : Fin 64) (c : Call) (cause : EndCause) (s : State) :
    s.KeepsReports (s.recordEnded r c cause) := by
  have hset : s.KeepsReports (s.setCall r { c with state := .ended, endCause := some cause }) := fun _ h => h
  unfold State.recordEnded
  split
  · exact hset.trans (keepsReports_report .engine true false false _)
  · exact hset

/-- Overflow is judged by the flag and the two marks (R104). -/
theorem overflowAt_congr {s u : State} (hflag : u.calls.overflow = s.calls.overflow) (hanchor : u.path.anchor = s.path.anchor)
    (n : Nat) : u.overflowAt n = s.overflowAt n := by
  have hword (m : Fin 128) : u.parameter m = s.parameter m := by rw [State.parameter, State.anchorWord, hanchor]; rfl
  have hhigh : u.highMark = s.highMark := hword 42
  have hlow : u.lowMark = s.lowMark := by simp only [State.lowMark, hhigh, hword 43]
  rw [State.overflowAt, State.overflowAt, hflag, hhigh, hlow]

/-- The end of a call put together: from the state in which its channel and its positions have been seen to. -/
theorem endsCall_of_finishes {s v w : State} {r : Fin 64} {c : Call} {p : Fin 16} {k : Fin 32} {cause : EndCause}
    (hv : ∃ pos sp cs rs d, v = { s with
      positions := pos, speech := sp, calls := cs, reports := { s.reports with list := rs }, dispatchDue := d })
    (hqueue : v.calls.queue = if c.state = .queued then s.calls.queue.erase r else s.calls.queue)
    (hover : v.calls.overflow = s.calls.overflow) (hreports : s.KeepsReports v) (htouch : s.TouchesOnly v r p c.post k)
    (hw : v.FinishesRecord w r c cause (cause.releases c.state (v.post c.post).state)) :
    s.EndsCall ((if c.state = .queued then w.judgeOverflow else w).reportCall r) r c p k cause := by
  obtain ⟨pos, sp, cs, rs, d, hvf⟩ := hv
  obtain ⟨⟨ps, ls, cl, rs', hwf⟩, hpost, hlines, hrep, htouchw, _⟩ := hw
  obtain ⟨ra, pa, en, rs'', hx⟩ := judgedIf_frame (c.state = .queued) w
  have hjudged : w.KeepsReports (if c.state = .queued then w.judgeOverflow else w) := by
    split
    · exact keepsReports_judgeOverflow w
    · exact .refl w
  have htouchj : w.TouchesOnly (if c.state = .queued then w.judgeOverflow else w) r p c.post k := by
    split
    · exact touchesOnly_judgeOverflow r p c.post k w
    · exact .refl r p c.post k w
  obtain ⟨x, hxdef⟩ : ∃ x, x = if c.state = .queued then w.judgeOverflow else w := ⟨_, rfl⟩
  rw [← hxdef] at hx hjudged htouchj ⊢
  have hvpost : v.post c.post = s.post c.post := by rw [hvf]; rfl
  constructor
  case frame => rw [hx, hwf, hvf]; exact ⟨_, _, _, _, _, _, _, _, _, _, rfl⟩
  case call => rw [hx, hwf]; exact put_get_self _ _ _
  case post =>
    rw [← hvpost]
    have hkeep : (x.reportCall r).post c.post = w.post c.post := by rw [hx]; rfl
    exact hkeep.trans (hpost.trans (postEnded_congr hvpost))
  case lines =>
    refine State.LinesServe.trans (.of_lines (by rw [hvf])) (hlines.trans (.of_lines ?_))
    rw [hx]
    rfl
  case reported => exact reportBoth_reported _ x
  case reports => exact hreports.trans (hrep.trans (hjudged.trans (keepsReports_report (.call r) true true false x)))
  case queue => rw [hx, ← hqueue, hwf]; rfl
  case overflow =>
    rw [hx, hwf]
    by_cases hq : c.state = .queued
    · have herase : v.calls.queue = s.calls.queue.erase r := hqueue.trans (if_pos hq)
      simp only [if_pos hq, ← herase]
      exact overflowAt_congr hover (by rw [hvf]) _
    · simp only [if_neg hq]; exact hover
  case touches =>
    exact ((htouch.trans (htouchw p k)).trans htouchj).trans (touchesOnly_report r p c.post k (.call r) true true false x)

end Sys2Proof.Machine
end

section
/-! SUPPORT. The end of a call for every cause, by the state it is in: waiting without a channel, on offer, or with a party
(R99, R138, R139, R148). -/

namespace Sys2Proof.Machine

/-! ### A call that waits -/

theorem endPositions_waiting_reports {c : Call} {cause : EndCause} {s v : State} (hv : endPositions c cause s = .ok () v)
    (hst : c.state = .queued ∨ c.state = .held ∨ c.state = .reserved) (h : ∀ p, (s.position p).corrupt = false) :
    s.KeepsReports v := by
  have same (he : endPositions c cause s = .ok () s) : s.KeepsReports v := by
    obtain rfl : s = v := by simpa [he] using hv
    exact .refl s
  rcases hst with hq | hh | hres
  · exact same (by simp [endPositions, hq])
  · cases hp : c.holder with
    | none => exact same (by simp [endPositions, hh, hp])
    | some p =>
      have he : endPositions c cause s = dropHeld p c.number s := by simp only [endPositions, hh, hp]
      obtain rfl := (EStateM.Result.ok.inj ((he.trans (dropHeld_ok p c.number s (h p))).symm.trans hv)).2
      exact placePosition_keepsReports p _ s
  · exact same (by simp [endPositions, hres])

theorem endPositions_held_reported {c : Call} {cause : EndCause} {s v : State} {p : Fin 16}
    (hv : endPositions c cause s = .ok () v) (hst : c.state = .held) (hp : c.holder = some p)
    (h : ∀ p, (s.position p).corrupt = false) : v.Reported (.position p) := by
  have he : endPositions c cause s = dropHeld p c.number s := by simp only [endPositions, hst, hp]
  obtain rfl := (EStateM.Result.ok.inj ((he.trans (dropHeld_ok p c.number s (h p))).symm.trans hv)).2
  exact placePosition_reported p _ s

theorem endCall_waits {s : State} {r : Fin 64} {c : Call} (cause : EndCause) (p : Fin 16) (k : Fin 32) (h : s.Sound)
    (hr : s.call r = some c) (hst : c.state = .queued ∨ c.state = .held ∨ c.state = .reserved) (hch : c.channel = none)
    (hholder : ∀ q, c.state = .held → c.holder = some q → q = p) :
    ∃ u, endCall r cause s = .ok () u ∧ s.EndsCall u r c p k cause ∧ (∀ q, u.position q = s.heldDropped c q)
      ∧ u.speech = s.speech ∧ (∀ q, c.state = .held → c.holder = some q → u.Reported (.position q)) := by
  obtain ⟨l, hm⟩ := recordEnded_frame r c cause s
  obtain ⟨v, hpos, ⟨ps, l', d, hv⟩, hvp⟩ := endPositions_waiting c cause (s.recordEnded r c cause) hst
    (by rw [hm]; exact h.positions)
  have hc := h.call_checked hr
  have hkeeps : (s.recordEnded r c cause).KeepsReports v := endPositions_waiting_reports hpos hst (by rw [hm]; exact h.positions)
  have hended : c.state ≠ .ended ∧ ¬ c.state.inSpeech := by
    rcases hst with e | e | e <;> simp [e, CallState.inSpeech]
  obtain ⟨w, hend, hw⟩ := endCall_finishes (s := s) (v := v)
    (d := { c with state := .ended, endCause := some cause, corrupt := false }) hr hc hended.1
    (by rw [hch]; rfl) hpos (by rw [hv, hm]; exact put_get_self _ _ _) (by simp [Call.endedBy, hch, hc])
    (by rw [hv, hm]; exact h.posts _) (fun e => absurd e hended.2) (by rw [hv, hm]; exact fun _ _ => h.incident_checked)
  have htouch : (s.recordEnded r c cause).TouchesOnly v r p c.post k := by
    have hpositions (q : Fin 16) (hq : q ≠ p) : v.position q = (s.recordEnded r c cause).position q := by
      rw [hvp, State.heldDropped, if_neg fun e => hq (hholder q e.1 e.2)]
    rw [hv] at hpositions ⊢
    exact { State.TouchesOnly.refl r p c.post k _ with positions := hpositions }
  refine ⟨_, hend, endsCall_of_finishes ?_ ?_ ?_ ((recordEnded_reports r c cause s).trans hkeeps)
    ((recordEnded_touches r p c.post k c cause s).trans htouch) hw, fun q => ?_, ?_, fun q hheld hq => ?_⟩
  · rw [hv, hm]; exact ⟨_, _, _, _, _, rfl⟩
  · rw [hv, hm]
  · rw [hv, hm]
  · obtain ⟨⟨_, _, _, _, hwf⟩, -⟩ := hw
    obtain ⟨_, _, _, _, hx⟩ := judgedIf_frame (c.state = .queued) w
    have hvq := hvp q
    rw [hx, hwf]
    rw [hm] at hvq
    exact hvq
  · obtain ⟨⟨_, _, _, _, hwf⟩, -⟩ := hw
    obtain ⟨_, _, _, _, hx⟩ := judgedIf_frame (c.state = .queued) w
    rw [hx, hwf, hv, hm]
    rfl
  · obtain ⟨-, -, -, hrep, -⟩ := hw
    have hqueued : c.state ≠ .queued := by simp [hheld]
    rw [if_neg hqueued]
    exact keepsReports_report (.call r) true true false w _ (hrep _ (endPositions_held_reported hpos hheld hq
      (by rw [hm]; exact h.positions)))

/-! ### A call on offer, or with a party -/

theorem channelFreed_reports (s : State) (r : Fin 64) (c : Call) (p : Fin 16) (ch : Fin 4) :
    s.KeepsReports (s.channelFreed r c p ch) := by
  obtain ⟨sp, hsp⟩ := closedTo_frame s p ⟨postSegment c.post, ch⟩
  have hclosed : s.KeepsReports (s.closedTo p ⟨postSegment c.post, ch⟩) := by rw [hsp]; exact .refl s
  exact hclosed.trans fun o ho => keepsReports_report (.segment (postSegment c.post)) true false false _ o ho

/-- The end of a call that holds a channel, with one position that the end sees to: its channel is FREE, the position is as
given, and its connection to that channel is gone (R99, R153). -/
theorem endCall_placed {s : State} {r : Fin 64} {c : Call} {p : Fin 16} {ch : Fin 4} {st : ChannelState} {y : Position}
    (cause : EndCause) (h : s.Sound) (hr : s.call r = some c) (hended : c.state ≠ .ended) (hqueued : c.state ≠ .queued)
    (hch : s.HoldsChannel c ch st) (hst : st ≠ .free) (ho : s.othersOn p ⟨postSegment c.post, ch⟩ = 0)
    (hnear : c.state.inSpeech → (s.post c.post).side = .near ∨ s.broken (postSegment c.post) = none) (hy : y.corrupt = false)
    (hpos : ∀ t : State, t.positions = s.positions → t.time = s.time → t.path = s.path →
      endPositions c cause t = .ok () (t.placePosition p y)) :
    ∃ u, endCall r cause s = .ok () u ∧ s.EndsCall u r c p (channelIndex (postSegment c.post) ch) cause
      ∧ u.position p = y ∧ (s.speech.connections.get p = some ⟨postSegment c.post, ch⟩ → u.Connected p none)
      ∧ u.channel (channelIndex (postSegment c.post) ch) = Channel.freed ∧ u.Reported (.position p) := by
  have hc := h.call_checked hr
  obtain ⟨t, ht⟩ : ∃ t, t = s.endingFreed r c cause p ch := ⟨_, rfl⟩
  obtain ⟨sp, l, htf⟩ := endingFreed_frame s r c cause p ch
  have hfreed : freeCallChannel r (s.setCall r (c.ending cause)) = .ok () t := by
    rw [ht]
    exact freeCallChannel_channelFreed (State.setCall_self r _ s) rfl hch hst (h.crosspoints p) ho
  rw [← ht] at htf
  obtain ⟨v, hv⟩ : ∃ v, v = t.placePosition p y := ⟨_, rfl⟩
  obtain ⟨ps, l', d, hvf⟩ := placePosition_frame p y t
  rw [← hv] at hvf
  have hplaced : endPositions c cause t = .ok () v := by
    rw [hv]; exact hpos t (by rw [htf]) (by rw [htf]) (by rw [htf])
  have hrecord : s.recordEnded r c cause = s.setCall r (c.ending cause) := by
    rw [State.recordEnded, if_neg hqueued]; rfl
  obtain ⟨w, hend, hw⟩ := endCall_finishes (s := s) (v := v) (t := t) hr hc hended
    (by rw [hch.1, hrecord]; exact hfreed) hplaced (by rw [hvf, htf]; exact put_get_self _ _ _) (ending_endedBy cause hc)
    (by rw [hvf, htf]; exact h.posts _) (fun e => by rw [hvf, htf]; exact hnear e)
    (by rw [hvf, htf]; exact fun _ _ => h.incident_checked)
  have hreports : s.KeepsReports v := by
    have hst : s.KeepsReports t := by
      rw [ht]
      exact (show s.KeepsReports (s.setCall r (c.ending cause)) from fun _ e => e).trans (channelFreed_reports _ r _ p ch)
    rw [hv]
    exact hst.trans (placePosition_keepsReports p y t)
  have htouch : s.TouchesOnly v r p c.post (channelIndex (postSegment c.post) ch) := by
    have hst := (touchesOnly_setCall r p c.post (channelIndex (postSegment c.post) ch) (c.ending cause) s).trans
      (channelFreed_touches _ r (c.ending cause) p ch)
    rw [hv, ht]
    exact hst.trans (touchesOnly_placePosition r p _ _ _ _)
  have hends := endsCall_of_finishes (s := s) (by rw [hvf, htf]; exact ⟨_, _, _, _, _, rfl⟩)
    (by rw [hvf, htf, if_neg hqueued]) (by rw [hvf, htf]) hreports htouch hw
  obtain ⟨⟨ps', ls, cl, l'', hwf⟩, -, -, hrep, -⟩ := hw
  rw [if_neg hqueued] at hend hends
  refine ⟨_, hend, hends, ?position, fun hconn => ?connected, ?channel, ?reported⟩
  case position => rw [hwf, hv]; exact (State.placePosition_self _ _ _).trans (position_checked hy)
  case connected =>
    have hdisc : t.Connected p none := by
      rw [ht]
      exact channelFreed_disconnected (s := s.setCall r (c.ending cause)) (c := c.ending cause) hconn (h.crosspoints p)
    rw [hwf, hvf]; exact hdisc
  case channel =>
    have hfree : t.channel (channelIndex (postSegment c.post) ch) = Channel.freed := by
      rw [ht]; exact channelFreed_channel _ r (c.ending cause) p ch
    rw [hwf, hvf]; exact hfree
  case reported =>
    refine keepsReports_report (.call r) true true false w _ (hrep _ ?_)
    rw [hv]; exact placePosition_reported p y t

/-- The end of a call with one party, in speech or ringing (R139, R148). -/
theorem endCall_party {s : State} {r : Fin 64} {c : Call} {p : Fin 16} {ch : Fin 4} {st : ChannelState}
    (cause : EndCause) (h : s.Sound) (hr : s.call r = some c) (hparty : c.state.hasParty) (hps : c.parties = [p])
    (hch : s.HoldsChannel c ch st) (hst : st ≠ .free) (ho : s.othersOn p ⟨postSegment c.post, ch⟩ = 0)
    (hnear : c.state.inSpeech → (s.post c.post).side = .near ∨ s.broken (postSegment c.post) = none) :
    ∃ u, endCall r cause s = .ok () u ∧ s.EndsCall u r c p (channelIndex (postSegment c.post) ch) cause
      ∧ u.position p = s.partyFreed c p
      ∧ (s.speech.connections.get p = some ⟨postSegment c.post, ch⟩ → u.Connected p none)
      ∧ u.channel (channelIndex (postSegment c.post) ch) = Channel.freed ∧ u.Reported (.position p) := by
  have hended : c.state ≠ .ended ∧ c.state ≠ .queued := by rcases hparty with e | e | e | e <;> simp [e]
  refine endCall_placed cause h hr hended.1 hended.2 hch hst ho hnear ((partyFreed_corrupt s c p).trans (h.positions p))
    fun t hpos htime hpath => ?_
  have hposition : t.position p = s.position p := by rw [State.position, hpos]; rfl
  rw [endPositions_onlyParty cause t hparty hps (by rw [hposition]; exact h.positions p)]
  have hfreed : t.partyFreed c p = s.partyFreed c p := by
    have hwrap : t.wrapTicks = s.wrapTicks := by
      rw [State.wrapTicks, State.parameter, State.anchorWord, hpath]; rfl
    have hafter (n : Nat) : t.after n = s.after n := by rw [State.after, htime]; rfl
    simp only [State.partyFreed, State.wrappedUp, hwrap, hafter, hposition, htime]
  rw [hfreed]

/-- The position that an offer ended by its call's end leaves (R138). -/
def State.offerEnded (s : State) (p : Fin 16) (n : Nat) (outcome : OfferOutcome) : Position :=
  { (s.position p).idle .free with freeSince := s.time, lastOffer := some { call := n, outcome := outcome } }

/-- The end of an OFFERED call (R138). -/
theorem endCall_onOffer {s : State} {r : Fin 64} {c : Call} {p : Fin 16} {ch : Fin 4} (cause : EndCause) (h : s.Sound)
    (hr : s.call r = some c) (hoffered : c.state = .offered) (hps : c.parties = [p]) (hch : s.HoldsChannel c ch .reserved)
    (ho : s.othersOn p ⟨postSegment c.post, ch⟩ = 0) :
    ∃ u, endCall r cause s = .ok () u ∧ s.EndsCall u r c p (channelIndex (postSegment c.post) ch) cause
      ∧ u.position p = s.offerEnded p c.number cause.offerOutcome
      ∧ (s.speech.connections.get p = some ⟨postSegment c.post, ch⟩ → u.Connected p none)
      ∧ u.channel (channelIndex (postSegment c.post) ch) = Channel.freed ∧ u.Reported (.position p) := by
  refine endCall_placed cause h hr (by simp [hoffered]) (by simp [hoffered]) hch (by decide) ho
    (fun e => by simp [CallState.inSpeech, hoffered] at e) (h.positions p) fun t hpos htime hpath => ?_
  have hposition : t.position p = s.position p := by rw [State.position, hpos]; rfl
  have hoffer := endOffer_ok p c.number cause.offerOutcome t (by rw [hposition]; exact h.positions p)
  have he : endPositions c cause t = endOffer p c.number cause.offerOutcome t := by
    simp [endPositions, hoffered, hps, hoffer]
  rw [he, hoffer, hposition, htime]
  rfl

end Sys2Proof.Machine
end

section
/-! SUPPORT. DECLINE and the offer timer (R136, R137), RELEASE by the only party (R140), the end of a ringing callback (R148),
and the obligations about them. -/

namespace Sys2Proof.Machine

/-- An operation that answers goes on in the state it leaves. -/
theorem Op.bind_ok {α β : Type} {x : Op α} {f : α → Op β} {s t : State} {a : α} (h : x s = .ok a t) :
    (x >>= f) s = f a t := by
  rw [Op.bind_apply, h]

/-! ### A call returned to the queue (R96, R136) -/

theorem insertBySequence_length (s : State) (r : Fin 64) (l : List (Fin 64)) :
    (s.insertBySequence r l).length = l.length + 1 := by
  induction l with
  | nil => rfl
  | cons q l ih =>
    rw [State.insertBySequence]
    split
    · rfl
    · rw [List.length_cons, ih, List.length_cons]

/-- The place in the queue is read from the arrival sequences alone. -/
theorem insertBySequence_congr {s u : State} (h : ∀ q, u.sequenceOf q = s.sequenceOf q) (r : Fin 64) (l : List (Fin 64)) :
    u.insertBySequence r l = s.insertBySequence r l := by
  induction l with
  | nil => rfl
  | cons q l ih => simp only [State.insertBySequence, h, ih]

/-- What an offer's end leaves of a call that returns to the queue: its record, the queue, overflow, its channel and the
reports (R104, R136, R153). -/
structure State.ReturnsCall (s u : State) (r : Fin 64) (c : Call) (p : Fin 16) (ch : Fin 4) : Prop where
  frame : ∃ sp pa en cs rs, u = { s with
    speech := sp, path := pa, engine := en, calls := cs, reports := { s.reports with list := rs }, dispatchDue := true }
  call : u.call r = some { c with state := .queued, parties := [], channel := none, corrupt := false }
  queue : u.calls.queue = s.insertBySequence r s.calls.queue
  overflow : u.calls.overflow = s.overflowAt (s.calls.queue.length + 1)
  anchor : u.path.anchor = s.path.anchor
  channel : u.channel (channelIndex (postSegment c.post) ch) = Channel.freed
  reported : u.Reported (.call r)
  reports : s.KeepsReports u
  touches : s.TouchesOnly u r p c.post (channelIndex (postSegment c.post) ch)

theorem returnOffer_returns {s : State} {r : Fin 64} {c : Call} {p : Fin 16} {ch : Fin 4} (hr : s.call r = some c)
    (hc : c.corrupt = false) (hch : s.HoldsChannel c ch .reserved) (hstuck : s.speech.stuck.get p = none)
    (ho : s.othersOn p ⟨postSegment c.post, ch⟩ = 0) :
    ∃ u, returnOffer r s = .ok () u ∧ s.ReturnsCall u r c p ch := by
  obtain ⟨t, ht⟩ : ∃ t, t = s.channelFreed r c p ch := ⟨_, rfl⟩
  have hfree := freeCallChannel_channelFreed (p := p) hr hc hch (by decide) hstuck ho
  obtain ⟨sp, l, htf⟩ := channelFreed_frame s r c p ch
  have hreports := channelFreed_reports s r c p ch
  have htouch := channelFreed_touches s r c p ch
  have hchannel := channelFreed_channel s r c p ch
  rw [← ht] at hfree htf hreports htouch hchannel
  obtain ⟨d, hd⟩ : ∃ d : Call, d = { c with state := .queued, parties := [], channel := none, corrupt := false } := ⟨_, rfl⟩
  have htr : t.call r = some { c with channel := none, corrupt := false } := by rw [htf]; exact put_get_self _ _ _
  obtain ⟨v, hv⟩ : ∃ v, v = (t.setCall r d).reportCall r := ⟨_, rfl⟩
  have hmod : (t.modifyCall r (fun c => { c with state := .queued, parties := [] })).reportCall r = v := by
    rw [hv, State.modifyCall, htr, hd]
  obtain ⟨q, hq⟩ : ∃ q, q = v.insertBySequence r v.calls.queue := ⟨_, rfl⟩
  obtain ⟨j, hj⟩ : ∃ j, j = v.joinQueue r := ⟨_, rfl⟩
  have hjf : j = ({ v with calls := { v.calls with queue := q } } : State).reportCounts := by rw [hj, hq]; rfl
  obtain ⟨ra, pa, en, l', hx⟩ := judgedIf_frame True j
  rw [if_pos trivial, if_pos trivial] at hx
  have hvcall (k : Fin 64) : v.call k = if k = r then some d else s.call k := by
    by_cases hk : k = r
    · subst hk; rw [if_pos rfl, hv, hd]; exact put_get_self _ _ _
    · rw [if_neg hk, hv, htf]; simp [State.call, State.setCall, State.reportCall, State.reportBoth, State.report, hk]
  have hsequence (k : Fin 64) : v.sequenceOf k = s.sequenceOf k := by
    by_cases hk : k = r
    · subst hk; simp only [State.sequenceOf, hvcall, hr, if_pos, hd]
    · simp only [State.sequenceOf, hvcall, if_neg hk]
  have hvqueue : v.calls.queue = s.calls.queue := by rw [hv, htf]; rfl
  have hqs : q = s.insertBySequence r s.calls.queue := by rw [hq, hvqueue, insertBySequence_congr hsequence]
  have hvj : v.KeepsReports j := by rw [hjf]; exact fun o e => keepsReports_report .engine true false false _ o e
  have hkeeps : s.KeepsReports v := by
    rw [hv]
    exact hreports.trans fun o e => keepsReports_report (.call r) true true false _ o e
  refine ⟨j.judgeOverflow.wantDispatch, ?runs, ?returns⟩
  case runs =>
    simp only [returnOffer, Op.bind_apply, hfree, Op.modify_apply, State.returnToQueue, hmod, ← hj]
  case returns =>
    constructor
    case frame => rw [hx, hjf, hv, htf]; exact ⟨_, _, _, _, _, rfl⟩
    case call => rw [hx, hjf, ← hd]; exact (hvcall r).trans (if_pos rfl)
    case queue => rw [hx, hjf]; exact hqs
    case overflow =>
      have hlen : j.calls.queue.length = s.calls.queue.length + 1 := by
        rw [hjf]; exact (congrArg List.length hqs).trans (insertBySequence_length s r _)
      have hover : j.overflowAt (s.calls.queue.length + 1) = s.overflowAt (s.calls.queue.length + 1) :=
        overflowAt_congr (by rw [hjf, hv, htf]; rfl) (by rw [hjf, hv, htf]; rfl) _
      rw [hx]
      exact (congrArg j.overflowAt hlen).trans hover
    case anchor =>
      have hjudge := (touchesOnly_judgeOverflow r p c.post (channelIndex (postSegment c.post) ch) j).path.1
      have hjs : j.path.anchor = s.path.anchor := by rw [hjf, hv, htf]; rfl
      exact hjudge.trans hjs
    case channel => rw [hx, hjf, hv]; exact hchannel
    case reported =>
      refine keepsReports_judgeOverflow j _ (hvj _ ?_)
      rw [hv]; exact reportBoth_reported (.call r) _
    case reports => exact hkeeps.trans (hvj.trans (keepsReports_judgeOverflow j))
    case touches =>
      have htv : t.TouchesOnly v r p c.post (channelIndex (postSegment c.post) ch) := by
        rw [hv]
        exact (touchesOnly_setCall r p c.post _ d t).trans (touchesOnly_report r p c.post _ (.call r) true true false _)
      have hvjt : v.TouchesOnly j r p c.post (channelIndex (postSegment c.post) ch) := by
        rw [hjf]
        exact { State.TouchesOnly.refl r p c.post _ v with }
      exact (((htouch.trans htv).trans hvjt).trans (touchesOnly_judgeOverflow r p c.post _ j)).trans
        (touchesOnly_wantDispatch r p c.post _ _)

/-- What the end of an offer leaves once its call has returned to the queue and its position has been written. -/
structure State.EndsOffer (s u : State) (r : Fin 64) (c : Call) (p : Fin 16) (ch : Fin 4) (y : Position) : Prop where
  result : u.commandResult = s.commandResult
  call : u.call r = some { c with state := .queued, parties := [], channel := none, corrupt := false }
  queue : u.calls.queue = s.insertBySequence r s.calls.queue
  overflow : u.calls.overflow = s.overflowAt (s.calls.queue.length + 1)
  channel : u.channel (channelIndex (postSegment c.post) ch) = Channel.freed
  position : u.position p = y
  reportedCall : u.Reported (.call r)
  reportedPosition : u.Reported (.position p)
  posts : u.posts = s.posts
  dispatch : u.dispatchDue = true
  cluster : u.cluster = s.cluster
  touches : s.TouchesOnly u r p c.post (channelIndex (postSegment c.post) ch)

theorem State.ReturnsCall.placed {s v : State} {r : Fin 64} {c : Call} {p : Fin 16} {ch : Fin 4} {y : Position}
    (h : s.ReturnsCall v r c p ch) (hy : y.corrupt = false) : s.EndsOffer (v.placePosition p y) r c p ch y := by
  obtain ⟨sp, pa, en, cs, rs, hv⟩ := h.frame
  obtain ⟨u, hu⟩ : ∃ u, u = v.placePosition p y := ⟨_, rfl⟩
  have huf := hu.trans (placePosition_eq p hy v)
  have hreported := placePosition_reported p y v
  have hkeeps := placePosition_keepsReports p y v
  have htouch := touchesOnly_placePosition r p c.post (channelIndex (postSegment c.post) ch) y v
  rw [← hu] at hreported hkeeps htouch ⊢
  constructor
  case result => rw [huf, hv]
  case call => rw [huf]; exact h.call
  case queue => rw [huf]; exact h.queue
  case overflow => rw [huf]; exact h.overflow
  case channel => rw [huf]; exact h.channel
  case position => rw [huf]; exact put_get_self _ _ _
  case reportedCall => exact hkeeps _ h.reported
  case reportedPosition => exact hreported
  case posts => rw [huf, hv]
  case dispatch => rw [huf, hv]; rfl
  case cluster => rw [huf, hv]
  case touches => exact h.touches.trans htouch

/-! ### DECLINE (R137) -/

/-- The result of a DECLINE of a call that is not on offer to the position (R137). -/
def State.declineRefusal (s : State) (p : Fin 16) (n : Nat) : ResultCode :=
  if ((s.position p).offered n).isSome then .badState else if s.liveCall n = none then .gone else .badState

theorem declineCall_refused {s : State} (h : s.Sound) {p : Fin 16} {n : Nat}
    (hst : ¬ ((s.position p).state = .offered ∧ (s.position p).current = some n)) :
    declineCall (p, n) s = .ok () { s with commandResult := some (s.declineRefusal p n) } := by
  have hnow : (s.position p).offeredNow n = false := by simpa [Position.offeredNow] using hst
  simp only [declineCall, Op.bind_apply, readPosition_ok s p (h.positions p), hnow, Bool.false_eq_true, if_false,
    State.declineRefusal]
  split
  · rfl
  · exact refuseCall_ok h n

/-- A call that a position has declined. -/
def Call.declined (c : Call) (p : Fin 16) : Call :=
  { c with declinedBy := if c.declinedBy.contains p then c.declinedBy else c.declinedBy ++ [p] }

/-- The state once an offer timer is gone and the decline stands in the call's record. -/
def State.offerDeclined (s : State) (p : Fin 16) (r : Fin 64) (c : Call) : State :=
  (s.setPositionTimers p { s.position p with offerTimer := none }).setCall r (c.declined p)

theorem declineCall_declines {s v : State} (h : s.Sound) {p : Fin 16} {n : Nat} {r : Fin 64} {c : Call}
    (hst : (s.position p).state = .offered) (hcur : (s.position p).current = some n) (hl : s.liveCall n = some (r, c))
    (hv : returnOffer r (State.offerDeclined { s with commandResult := some .done } p r c) = .ok () v) :
    declineCall (p, n) s = .ok () (v.placePosition p { (s.position p).toFree v.time with lastOffer := none }) := by
  have hnow : (s.position p).offeredNow n = true := by simp [Position.offeredNow, hst, hcur]
  have hdone := h.withResult (some .done)
  have htimer := removeOfferTimer_ok p _ (hdone.positions p)
  have hlive := withLive_sound (hdone.setPositionTimers p { s.position p with offerTimer := none }) hl
  simp only [declineCall, Op.bind_apply, readPosition_ok s p (h.positions p), hnow, if_true, declineOffer, answer_apply]
  rw [htimer]
  exact (hlive _).trans ((Op.bind_ok (Op.modify_apply _ _)).trans ((Op.bind_ok hv).trans rfl))

/-! ### The offer timer (R136) -/

theorem liveCall_numbered {s : State} {n : Nat} {r : Fin 64} {c : Call} (h : s.liveCall n = some (r, c)) :
    s.callNumbered n = some r := by
  simp only [State.liveCall, Option.bind_eq_some_iff] at h
  obtain ⟨q, hq, d, -, h⟩ := h
  split at h
  · cases h
  · rwa [← (Prod.mk.inj (Option.some.inj h)).1]

theorem timedOut_corrupt (x : Position) (n limit : Nat) (now : Time) : (x.timedOut n limit now).corrupt = x.corrupt := by
  simp only [Position.timedOut]
  split <;> rfl

theorem offerExpires_returns {s v : State} {p : Fin 16} {n : Nat} {r : Fin 64} {c : Call} (h : s.Sound)
    (hst : (s.position p).state = .offered) (hdue : timerDue s.time (s.position p).offerTimer = true)
    (hcur : (s.position p).current = some n) (hl : s.liveCall n = some (r, c))
    (hv : returnOffer r (s.setPositionTimers p { s.position p with offerTimer := none }) = .ok () v) :
    offerExpires p s = .ok ()
      (v.placePosition p ((s.position p).timedOut c.number v.positionMissLimit v.time)) := by
  have hr := (liveCall_eq_some hl).1
  have htimer := removeOfferTimer_ok p s (h.positions p)
  obtain ⟨t, ht⟩ : ∃ t, t = s.setPositionTimers p { s.position p with offerTimer := none } := ⟨_, rfl⟩
  rw [← ht] at hv htimer
  have hnum : (s.position p).current.bind t.callNumbered = some r := by
    rw [hcur, ht]; exact liveCall_numbered hl
  rw [offerExpires, positionTimer_due p _ _ _ s hst hdue (h.positions p)]
  simp only [Op.bind_apply, htimer, Op.get_apply, hnum]
  rw [withCall_ok t r c _ (by rw [ht]; exact hr) (h.call_checked hr)]
  exact (Op.bind_ok hv).trans rfl

/-- Settles O43: an offer that ends gives its call back to the queue; what is left of the position is the decline's, or the
timer's. -/
theorem offerEndsByDeclineOrTimer : Obligations.OfferEndsByDeclineOrTimer := by
  intro s w v p n h hw hv
  have hasked := h.withResult (some .notRunning)
  have ha : bothArgs (positionArg w) (callArg v) = some (p, n) := by rw [hw, hv]; rfl
  refine ⟨fun hrun hno => ⟨s.declineRefusal p n, next_command hrun ha (declineCall_refused hasked hno), ?named, ?other⟩,
    fun r c ch hst hcur hl hch ho => ⟨fun hrun => ?declines, fun hdue => ?expires⟩⟩
  case named =>
    rintro ⟨o, ho, rfl⟩
    simp only [State.declineRefusal, offered_of_lastOffer ho, Option.isSome_some, if_true]
  case other =>
    intro hno
    simp only [State.declineRefusal, offered_eq_none hno, Option.isSome_none, Bool.false_eq_true, if_false]
  case declines =>
    obtain ⟨hr, -, rfl⟩ := liveCall_eq_some hl
    have hc := h.call_checked hr
    obtain ⟨t, ht⟩ : ∃ t, t = State.offerDeclined { s with commandResult := some .done } p r c := ⟨_, rfl⟩
    have htr : t.call r = some (c.declined p) := by
      rw [ht]; exact (State.setCall_self r _ _).trans (by rw [← hc]; rfl)
    obtain ⟨y, hy, hreturns⟩ := returnOffer_returns (p := p) (ch := ch) htr hc (by rw [ht]; exact hch)
      (by rw [ht]; exact h.crosspoints p) (by rw [ht]; exact ho)
    have htime : y.time = s.time := hreturns.touches.port.1.trans (by rw [ht]; rfl)
    have hends := hreturns.placed (y := { (s.position p).toFree y.time with lastOffer := none }) (h.positions p)
    have hts : s.TouchesOnly t r p c.post (channelIndex (postSegment c.post) ch) := by
      rw [ht]
      exact touchesOnly_withResult ((touchesOnly_setPositionTimers r p _ _ _ _).trans (touchesOnly_setCall r p _ _ _ _))
    have hseq (k : Fin 64) : t.sequenceOf k = s.sequenceOf k := by
      by_cases hk : k = r
      · subst hk; simp only [State.sequenceOf, htr, hr]; rfl
      · simp only [State.sequenceOf, hts.calls k hk]
    have hruns := declineCall_declines hasked hst hcur hl (v := y) (by rw [← hy, ht])
    refine ⟨y.placePosition p { (s.position p).toFree y.time with lastOffer := none }, next_command hrun ha hruns, ?_, ?_,
      ?_, ?_,
      hends.channel, ?_, hends.reportedCall, hends.reportedPosition, ?_, hends.dispatch, ?_, hts.trans hends.touches⟩
    · rw [hends.result, ht]; rfl
    · rw [hends.call]
      simp only [Call.declined, List.contains_iff_mem, hc]
    · rw [hends.queue, insertBySequence_congr hseq, ht]; rfl
    · rw [hends.overflow, ht]; rfl
    · rw [hends.position, htime]; rfl
    · rw [hends.posts, ht]; rfl
    · rw [hends.cluster, ht]; rfl
  case expires =>
    obtain ⟨hr, -, rfl⟩ := liveCall_eq_some hl
    have hc := h.call_checked hr
    obtain ⟨t, ht⟩ : ∃ t, t = s.setPositionTimers p { s.position p with offerTimer := none } := ⟨_, rfl⟩
    have htr : t.call r = some c := by rw [ht]; exact hr
    obtain ⟨y, hy, hreturns⟩ := returnOffer_returns (p := p) (ch := ch) htr hc (by rw [ht]; exact hch)
      (by rw [ht]; exact h.crosspoints p) (by rw [ht]; exact ho)
    have htime : y.time = s.time := hreturns.touches.port.1.trans (by rw [ht]; rfl)
    have hlimit : y.positionMissLimit = s.positionMissLimit := by
      rw [State.positionMissLimit, State.parameter, State.anchorWord, hreturns.anchor, ht]; rfl
    have hends := hreturns.placed (y := (s.position p).timedOut c.number y.positionMissLimit y.time)
      ((timedOut_corrupt _ _ _ _).trans (h.positions p))
    have hts : s.TouchesOnly t r p c.post (channelIndex (postSegment c.post) ch) := by
      rw [ht]; exact touchesOnly_setPositionTimers r p _ _ _ _
    refine ⟨_, next_event (op := offerExpires p) (offerExpires_returns h hst hdue hcur hl (by rw [← hy, ht])), ?_, ?_, ?_,
      hends.channel, ?_, hends.reportedCall, hends.reportedPosition, ?_, hends.dispatch, ?_, hts.trans hends.touches⟩
    · rw [hends.call]; simp only [hc]
    · rw [hends.queue, insertBySequence_congr (s := s) (fun q => by rw [ht]; rfl), ht]; rfl
    · rw [hends.overflow, ht]; rfl
    · rw [hends.position, htime, hlimit]; rfl
    · rw [hends.posts, ht]; rfl
    · rw [hends.cluster, ht]; rfl

/-! ### RELEASE, and the ring timer (R140, R148) -/

/-- Settles O44: RELEASE of an ACTIVE position by the only party is the ending step; a position that is neither ACTIVE nor
DIALLING is refused. -/
theorem releaseByOnlyPartyEndsCall : Obligations.ReleaseByOnlyPartyEndsCall := by
  intro s w p hrun h hw
  have hasked := h.withResult (some .notRunning)
  refine ⟨fun hact hdial => exec_release_run hrun hw (releasePosition_badState hasked hact hdial),
    fun n r c ch st hst hcur hl hspeech hps hch hfree ho hconn hnear _ => ?_⟩
  obtain ⟨hr, -, rfl⟩ := liveCall_eq_some hl
  have hparty : c.state.hasParty := by rcases hspeech with e | e | e <;> simp [CallState.hasParty, e]
  have hring : c.state ≠ .ringing := by rcases hspeech with e | e | e <;> simp [e]
  obtain ⟨u, hu, hends⟩ := endCall_onlyParty (cause := .clearedByOperator) (h.withResult (some .done)) hr hparty hps hch hfree
    ho hnear fun _ => rfl
  refine ⟨u, exec_release_run hrun hw ((releasePosition_ends hasked hcur hl hst (by simp [hps])).trans hu), hends.result,
    hends.call, ?_, hends.connected hconn, hends.channel, hends.post, hends.queue, hends.overflow, hends.reportedCall,
    hends.reportedPosition, touchesOnly_withResult hends.touches⟩
  exact hends.position.trans (if_neg hring)

theorem ringExpires_ends {s : State} {p : Fin 16} {n : Nat} {r : Fin 64} {c : Call} (h : s.Sound)
    (hst : (s.position p).state = .dialling) (hdue : timerDue s.time (s.position p).ringTimer = true)
    (hcur : (s.position p).current = some n) (hl : s.liveCall n = some (r, c)) :
    ringExpires p s = endCall r .noAnswer (s.setPositionTimers p { s.position p with ringTimer := none }) := by
  have htimer := removeRingTimer_ok p s (h.positions p)
  obtain ⟨t, ht⟩ : ∃ t, t = s.setPositionTimers p { s.position p with ringTimer := none } := ⟨_, rfl⟩
  rw [← ht] at htimer ⊢
  have hnum : (s.position p).current.bind t.callNumbered = some r := by
    rw [hcur, ht]; exact liveCall_numbered hl
  rw [ringExpires, positionTimer_due p _ _ _ s hst hdue (h.positions p)]
  simp only [Op.bind_apply, htimer, Op.get_apply, hnum]

/-- Settles O45: RELEASE and the ring timer are the ending step of a call whose only party is ringing. -/
theorem ringingCallbackEndsByTimerOrRelease : Obligations.RingingCallbackEndsByTimerOrRelease := by
  intro s w p n r c ch h hw hst hcur hl hring hps hch ho _ _ i hi hreleased hexpired
  obtain ⟨hr, -, rfl⟩ := liveCall_eq_some hl
  have hparty : c.state.hasParty := by simp [CallState.hasParty, hring]
  have hquiet : ¬ c.state.inSpeech := by simp [CallState.inSpeech, hring]
  have hwaits : ¬ c.state = .queued := by simp [hring]
  rcases List.mem_pair.mp hi with rfl | rfl
  · have hrun := hreleased rfl
    obtain ⟨u, hu, hends, hposition, -, hchannel, hreported⟩ := endCall_party .clearedByOperator (h.withResult (some .done))
      hr hparty hps hch (by decide) ho fun e => absurd e hquiet
    obtain ⟨_, _, _, _, _, _, _, _, _, _, hframe⟩ := hends.frame
    refine ⟨u, exec_release_run hrun hw ((releasePosition_dialling (h.withResult (some .notRunning)) hcur hl hst).trans hu),
      ?_, ?_, hposition.trans (if_pos hring), hchannel, hends.post, ?_, ?_, hends.reported, hreported,
      touchesOnly_withResult hends.touches⟩
    · rw [if_pos rfl]; exact hends.call
    · rw [if_pos rfl, hframe]
    · exact hends.queue.trans (if_neg hwaits)
    · exact hends.overflow.trans (if_neg hwaits)
  · obtain ⟨t, ht⟩ : ∃ t, t = s.setPositionTimers p { s.position p with ringTimer := none } := ⟨_, rfl⟩
    have htimer : t.position p = { s.position p with ringTimer := none } := by
      rw [ht, State.setPositionTimers_self]
      exact position_checked (x := { s.position p with ringTimer := none }) (h.positions p)
    obtain ⟨u, hu, hends, hposition, -, hchannel, hreported⟩ := endCall_party (s := t) (p := p) (ch := ch) .noAnswer
      (by rw [ht]; exact h.setPositionTimers p _) (by rw [ht]; exact hr) hparty hps (by rw [ht]; exact hch) (by decide)
      (by rw [ht]; exact ho) fun e => absurd e hquiet
    obtain ⟨_, _, _, _, _, _, _, _, _, _, hframe⟩ := hends.frame
    have hdiffers : Instr.ringTimerExpiry p ≠ Instr.release w := fun e => Instr.noConfusion e
    have hruns := ringExpires_ends h hst (hexpired rfl) hcur hl
    rw [← ht, hu] at hruns
    refine ⟨u, next_event (op := ringExpires p) hruns, ?_, ?_, ?_, hchannel, ?_, ?_, ?_, hends.reported, hreported, ?_⟩
    · rw [if_neg hdiffers]; exact hends.call
    · rw [if_neg hdiffers, hframe, ht]; rfl
    · rw [hposition, State.partyFreed, if_pos hring, htimer, ht]; rfl
    · rw [hends.post, ht]; rfl
    · rw [hends.queue, if_neg hwaits, ht]; rfl
    · rw [hends.overflow, if_neg hwaits, ht]; rfl
    · have hts := touchesOnly_setPositionTimers r p c.post (channelIndex (postSegment c.post) ch)
        { s.position p with ringTimer := none } s
      rw [← ht] at hts
      exact hts.trans hends.touches

end Sys2Proof.Machine
end

section
/-! SUPPORT. HOLD, RETRIEVE and CALLBACK in each state of the position and the call (R146, R157, R158), and the obligations
about them. -/

namespace Sys2Proof.Machine

/-! ### HOLD (R157) -/

section Hold

variable {s : State} {p : Fin 16} {n : Nat} {r : Fin 64} {c : Call} (h : s.Sound)
include h

theorem holdCall_notActive (hst : (s.position p).state ≠ .active) :
    holdCall p s = .ok () { s with commandResult := some .badState } := by
  simp only [holdCall, Op.bind_apply, readPosition_ok s p (h.positions p), if_neg hst, answer_apply]

variable (hst : (s.position p).state = .active) (hcur : (s.position p).current = some n) (hl : s.liveCall n = some (r, c))
include hst hcur hl

theorem holdCall_badState (hno : c.state ≠ .active ∨ c.parties.length = 2) :
    holdCall p s = .ok () { s with commandResult := some .badState } := by
  simp only [holdCall, Op.bind_apply, readPosition_ok s p (h.positions p), if_pos hst, currentRecord_live h hcur hl]
  by_cases hactive : c.state = .active
  · rw [if_neg (not_not_intro hactive), if_pos (hno.resolve_left (not_not_intro hactive)), answer_apply]
  · rw [if_pos hactive, answer_apply]

variable (hactive : c.state = .active) (hps : c.parties.length ≠ 2)
include hactive hps

theorem holdCall_busy (hheld : (s.position p).held.length = 2) :
    holdCall p s = .ok () { s with commandResult := some .busy } := by
  simp only [holdCall, Op.bind_apply, readPosition_ok s p (h.positions p), if_pos hst, currentRecord_live h hcur hl,
    if_neg (not_not_intro hactive), if_neg hps, if_pos hheld, answer_apply]

theorem holdCall_holds (hheld : (s.position p).held.length ≠ 2) : holdCall p s = holdActive p r c s := by
  simp only [holdCall, Op.bind_apply, readPosition_ok s p (h.positions p), if_pos hst, currentRecord_live h hcur hl,
    if_neg (not_not_intro hactive), if_neg hps, if_neg hheld]

end Hold

/-- A call that a position holds. -/
def Call.heldBy (c : Call) (p : Fin 16) : Call := { c with state := .held, holder := some p, parties := [] }

/-- The state once a call is HELD and its channel is freed (R157). -/
def State.callHeld (s : State) (p : Fin 16) (r : Fin 64) (c : Call) (ch : Fin 4) : State :=
  ((s.setCall r (c.heldBy p)).reportCall r).channelFreed r (c.heldBy p) p ch

theorem holdActive_holds {s : State} {p : Fin 16} {r : Fin 64} {c : Call} {ch : Fin 4} {u : State} (h : s.Sound)
    (hr : s.call r = some c) (hch : s.HoldsChannel c ch .inUse) (ho : s.othersOn p ⟨postSegment c.post, ch⟩ = 0)
    (hnear : (s.post c.post).side = .near)
    (hu : pend c.post (.play .hold) (some c.number)
      ((State.callHeld { s with commandResult := some .done } p r c ch).placePosition p
        { (s.position p).toFree s.time with held := (s.position p).held ++ [c.number] }) = .ok () u) :
    holdActive p r c s = .ok () u := by
  obtain ⟨t, ht⟩ : ∃ t, t = (State.setCall r (c.heldBy p) { s with commandResult := some .done }).reportCall r := ⟨_, rfl⟩
  have hhc : (c.heldBy p).corrupt = false := h.call_checked (c := c) hr
  have htr : t.call r = some (c.heldBy p) := by
    rw [ht]; exact (put_get_self _ _ _).trans (by rw [← hhc])
  have hread := readPost_ok t c.post (by rw [ht]; exact h.posts _)
  have hside : ¬ (t.post c.post).side = .far := by rw [ht]; exact fun e => Side.noConfusion (hnear.symm.trans e)
  have hfree := freeCallChannel_channelFreed (s := t) (c := c.heldBy p) (p := p) (ch := ch) (st := .inUse) htr hhc
    (by rw [ht]; exact hch) (by decide) (by rw [ht]; exact h.crosspoints p) (by rw [ht]; exact ho)
  obtain ⟨v, hv⟩ : ∃ v, v = t.channelFreed r (c.heldBy p) p ch := ⟨_, rfl⟩
  obtain ⟨_, _, hvf⟩ := channelFreed_frame t r (c.heldBy p) p ch
  rw [← hv] at hfree hvf
  have hvp : v.position p = s.position p := by rw [hvf, ht]; rfl
  have htime : v.time = s.time := by rw [hvf, ht]; rfl
  have hcall : State.callHeld { s with commandResult := some .done } p r c ch = v := by rw [State.callHeld, hv, ht]
  rw [hcall, ← hvp, ← htime] at hu
  have hposition := readPosition_ok v p (by rw [hvp]; exact h.positions p)
  rw [holdActive]
  refine (Op.bind_ok (answer_apply _ _)).trans ((Op.bind_ok (Op.modify_apply _ _)).trans ?_)
  have hset : State.reportCall r (State.setCall r { c with state := .held, holder := some p, parties := [] }
      { s with commandResult := some .done }) = t := by rw [ht]; rfl
  rw [hset]
  refine (Op.bind_ok hread).trans ?_
  rw [if_neg hside]
  refine (Op.bind_ok (Op.pure_apply _ _)).trans ((Op.bind_ok hfree).trans ((Op.bind_ok hposition).trans
    ((Op.bind_ok (Op.modify_apply _ _)).trans hu)))

/-- Settles O49: a position that is not ACTIVE, a call that is not, or has two parties, and a full held list are refused;
otherwise the call is HELD, its channel and its position are freed, and PLAY HOLD is pended. -/
theorem holdFreesChannelAndPosition : Obligations.HoldFreesChannelAndPosition := by
  intro s w p hrun h hw
  have hasked := h.withResult (some .notRunning)
  refine ⟨fun hst => next_command hrun hw (holdCall_notActive hasked hst), fun n r c hst hcur hl =>
    ⟨fun hno => next_command hrun hw (holdCall_badState hasked hst hcur hl hno),
      fun hactive hps hheld => next_command hrun hw (holdCall_busy hasked hst hcur hl hactive hps hheld),
      fun ch hactive hps hheld hch ho hconn hnear => ?_⟩⟩
  obtain ⟨hr, -, rfl⟩ := liveCall_eq_some hl
  have hhc : (c.heldBy p).corrupt = false := h.call_checked (c := c) hr
  obtain ⟨k, hk⟩ : ∃ k, k = channelIndex (postSegment c.post) ch := ⟨_, rfl⟩
  obtain ⟨t, ht⟩ : ∃ t, t = (State.setCall r (c.heldBy p) { s with commandResult := some .done }).reportCall r := ⟨_, rfl⟩
  obtain ⟨v, hv⟩ : ∃ v, v = State.callHeld { s with commandResult := some .done } p r c ch := ⟨_, rfl⟩
  have hvt : v = t.channelFreed r (c.heldBy p) p ch := by rw [hv, ht]; rfl
  obtain ⟨sp, l, hvf⟩ := channelFreed_frame t r (c.heldBy p) p ch
  rw [← hvt] at hvf
  obtain ⟨y, hy⟩ : ∃ y : Position, y = { (s.position p).toFree s.time with held := (s.position p).held ++ [c.number] } :=
    ⟨_, rfl⟩
  have hyc : y.corrupt = false := by rw [hy]; exact h.positions p
  obtain ⟨x, hx⟩ : ∃ x, x = v.placePosition p y := ⟨_, rfl⟩
  have hxf := hx.trans (placePosition_eq p hyc v)
  obtain ⟨u, hu, htouch, hup⟩ := pend_touchesPost c.post (.play .hold) (some c.number) x
    (by rw [hxf, hvf, ht]; exact h.posts _)
  obtain ⟨ps, ls, l', huf⟩ := htouch.frame
  have htreport : t.Reported (.call r) := by rw [ht]; exact reportBoth_reported (.call r) _
  have hvx : v.KeepsReports x := by rw [hx]; exact placePosition_keepsReports p y v
  have htv : t.KeepsReports v := by rw [hvt]; exact channelFreed_reports t r (c.heldBy p) p ch
  have hruns := holdActive_holds (ch := ch) (u := u) hasked hr hch ho hnear (by
    have hpended := hu
    rw [hx, hv, hy] at hpended
    exact hpended)
  refine ⟨u, next_command hrun hw ((holdCall_holds hasked hst hcur hl hactive (by simp [hps]) hheld).trans hruns),
    ?_, ?_, ?_, ?_, ?_, ?_, htouch.reports _ (hvx _ (htv _ htreport)), ?_, ?_, ?_, ?_, ?_, ?_⟩
  · rw [huf, hxf, hvf, ht]; rfl
  · rw [huf, hxf, hvf]; exact (put_get_self _ _ _).trans (by rw [← hhc]; rfl)
  · rw [huf, hxf, hy]; exact put_get_self _ _ _
  · rw [huf, hxf, hvt]; exact channelFreed_channel t r (c.heldBy p) p ch
  · have hdisc : v.Connected p none := by
      rw [hvt]
      exact channelFreed_disconnected (by rw [ht]; exact hconn) (by rw [ht]; exact h.crosspoints p)
    rw [huf, hxf]; exact hdisc
  · rw [hup, hxf, hvf, ht]; rfl
  · exact htouch.reports _ (by rw [hx]; exact placePosition_reported p y v)
  · rw [huf, hxf, hvf, ht]; rfl
  · rw [huf, hxf, hvf, ht]; rfl
  · rw [huf, hxf, hvf, ht]; rfl
  · rw [huf, hxf, hvf]; rfl
  · have hst' : s.TouchesOnly t r p c.post (channelIndex (postSegment c.post) ch) := by
      rw [ht]
      exact touchesOnly_withResult ((touchesOnly_setCall r p _ _ _ _).trans
        (touchesOnly_report r p _ _ (.call r) true true false _))
    have htv' := channelFreed_touches t r (c.heldBy p) p ch
    have hvx' := touchesOnly_placePosition r p c.post (channelIndex (postSegment c.post) ch) y v
    rw [← hvt] at htv'
    rw [← hx] at hvx'
    exact ((hst'.trans htv').trans hvx').trans (htouch.touchesOnly r p _)

/-! ### A position connected to a call (R154, R155) -/

/-- What a connection of a call's only party leaves: the connection and the CONNECT pended to the call's post. -/
structure State.ConnectsCall (t u : State) (r : Fin 64) (c : Call) (p : Fin 16) (ch : Fin 4) : Prop where
  frame : ∃ ps ls sp l, u = { t with posts := ps, lines := ls, speech := sp, reports := { t.reports with list := l } }
  channels : u.speech.channels = t.speech.channels
  connected : u.Connected p (some ⟨postSegment c.post, ch⟩)
  post : u.post c.post = t.postPended c.post (.connect ch) (some c.number)
  reports : t.KeepsReports u
  touches : t.TouchesOnly u r p c.post (channelIndex (postSegment c.post) ch)

theorem connectCall_connects {t : State} {r : Fin 64} {c : Call} {p : Fin 16} {ch : Fin 4} (hr : t.call r = some c)
    (hc : c.corrupt = false) (hps : c.parties = [p]) (hch : t.HoldsChannel c ch .reserved)
    (hnone : t.speech.connections.get p = none) (ho : t.othersOn p ⟨postSegment c.post, ch⟩ = 0)
    (hstuck : t.speech.stuck.get p = none) (hpost : (t.post c.post).corrupt = false) :
    ∃ u, connectCall p r t = .ok () u ∧ t.ConnectsCall u r c p ch := by
  have hreq := connectRequest_onlyParty hr hc hps hch hnone ho hstuck
  obtain ⟨w, hw⟩ : ∃ w, w = t.setConnection p (some ⟨postSegment c.post, ch⟩) := ⟨_, rfl⟩
  have htw := touchesOnly_setConnection r p c.post (channelIndex (postSegment c.post) ch) (some ⟨postSegment c.post, ch⟩) t
  rw [← hw] at hreq htw
  have hwr : w.call r = some c := by rw [hw]; exact hr
  obtain ⟨u, hpend, htouch, hup⟩ := pend_touchesPost c.post (.connect ch) (some c.number) w (by rw [hw]; exact hpost)
  obtain ⟨ps, ls, l, hu⟩ := htouch.frame
  have hkeeps : t.KeepsReports w := by rw [hw]; exact .refl t
  refine ⟨u, ?runs, ⟨ps, ls, _, l, by rw [hu, hw]; rfl⟩, by rw [hu, hw]; rfl, ?connected, by rw [hup, hw]; rfl,
    hkeeps.trans htouch.reports, htw.trans (htouch.touchesOnly r p _)⟩
  case runs => simp only [connectCall, Op.bind_apply, hreq, withCall_ok w r c _ hwr hc, hch.1, hpend]
  case connected =>
    rw [hu, hw]
    exact ⟨State.setConnection_self .., setConnection_crosspoint p _ t hstuck⟩

/-! ### RETRIEVE (R158) -/

section Retrieve

variable {s : State} {p : Fin 16} {n : Nat} {r : Fin 64} {c : Call} (h : s.Sound)
include h

theorem retrieveCall_gone (hl : s.liveCall n = none) :
    retrieveCall (p, n) s = .ok () { s with commandResult := some .gone } := by
  simp only [retrieveCall, Op.bind_apply, liveRecord_sound h, hl, answer_apply]

variable (hl : s.liveCall n = some (r, c))
include hl

theorem retrieveCall_badState (hno : c.state ≠ .held ∨ c.holder ≠ some p) :
    retrieveCall (p, n) s = .ok () { s with commandResult := some .badState } := by
  simp only [retrieveCall, Op.bind_apply, liveRecord_sound h, hl, if_pos hno, answer_apply]

variable (hst : c.state = .held) (hholder : c.holder = some p)
include hst hholder

theorem retrieveCall_busy (hbusy : (s.position p).state ≠ .free) :
    retrieveCall (p, n) s = .ok () { s with commandResult := some .busy } := by
  have hheld : ¬ (c.state ≠ .held ∨ c.holder ≠ some p) := by simp [hst, hholder]
  simp only [retrieveCall, Op.bind_apply, liveRecord_sound h, hl, if_neg hheld, readPosition_ok s p (h.positions p),
    Op.get_apply, if_pos hbusy, answer_apply]

variable (hfree : (s.position p).state = .free)
include hfree

theorem retrieveCall_noChannel (hf : s.freeChannel (postSegment c.post) = none) :
    retrieveCall (p, n) s = .ok () { s with commandResult := some .noChannel } := by
  have hheld : ¬ (c.state ≠ .held ∨ c.holder ≠ some p) := by simp [hst, hholder]
  simp only [retrieveCall, Op.bind_apply, liveRecord_sound h, hl, if_neg hheld, readPosition_ok s p (h.positions p),
    Op.get_apply, if_neg (not_not_intro hfree), hf, Option.isNone_none, if_true, answer_apply]

theorem retrieveCall_retrieves {ch : Fin 4} (hf : s.freeChannel (postSegment c.post) = some ch) :
    retrieveCall (p, n) s = retrieveHeld p (s.position p) r c s := by
  have hheld : ¬ (c.state ≠ .held ∨ c.holder ≠ some p) := by simp [hst, hholder]
  simp only [retrieveCall, Op.bind_apply, liveRecord_sound h, hl, if_neg hheld, readPosition_ok s p (h.positions p),
    Op.get_apply, if_neg (not_not_intro hfree), hf, Option.isNone_some, Bool.false_eq_true, if_false]

end Retrieve

/-- A HELD call taken up again by its holder. -/
def Call.retrievedBy (c : Call) (p : Fin 16) (ch : Fin 4) : Call :=
  { c with state := .retrieving, parties := [p], holder := none, channel := some ch }

/-- The state once a HELD call is RETRIEVING and its holder ACTIVE with it, but for the connection (R158). -/
def State.callRetrieved (s : State) (p : Fin 16) (r : Fin 64) (c : Call) (ch : Fin 4) : State :=
  (((s.channelReserved r c ch).setCall r (c.retrievedBy p ch)).reportCall r).setPosition p
    { (s.position p).cleared with state := .active, current := some c.number, held := (s.position p).held.erase c.number }

theorem channelReserved_frame (s : State) (r : Fin 64) (c : Call) (ch : Fin 4) :
    ∃ chs rec l, s.channelReserved r c ch = { s with
      speech := { s.speech with channels := chs }, reports := { s.reports with list := l }
      calls := { s.calls with records := rec } } :=
  ⟨_, _, _, rfl⟩

theorem callRetrieved_frame (s : State) (p : Fin 16) (r : Fin 64) (c : Call) (ch : Fin 4) :
    ∃ pos chs rec l, s.callRetrieved p r c ch = { s with
      positions := pos, speech := { s.speech with channels := chs }, reports := { s.reports with list := l }
      calls := { s.calls with records := rec } } := by
  obtain ⟨chs, rec, l, hy⟩ := channelReserved_frame s r c ch
  rw [State.callRetrieved, hy]
  exact ⟨_, _, _, _, rfl⟩

theorem retrieveHeld_connects {s : State} (h : s.Sound) {p : Fin 16} {r : Fin 64} {c : Call} {ch : Fin 4}
    (hr : s.call r = some c) (hf : s.freeChannel (postSegment c.post) = some ch)
    (hheld : s.channelHeldBy c.number = none) : retrieveHeld p (s.position p) r c s
      = connectCall p r (State.callRetrieved { s with commandResult := some .done } p r c ch) := by
  have hdone := h.withResult (some .done)
  have hreserve := reserveChannel_ok (postSegment c.post) r { s with commandResult := some .done } c ch hr
    (h.call_checked hr) hheld hf (hdone.channels _)
  obtain ⟨y, hy⟩ : ∃ y, y = State.channelReserved { s with commandResult := some .done } r c ch := ⟨_, rfl⟩
  have hyr : y.call r = some { c with channel := some ch, corrupt := false } := by
    rw [hy]; exact State.setCall_self r _ _
  have hmod : (y.modifyCall r (fun c => { c with state := .retrieving, parties := [p], holder := none })).reportCall r
      = (y.setCall r (c.retrievedBy p ch)).reportCall r := by
    rw [State.modifyCall, hyr]; rfl
  rw [retrieveHeld]
  refine (Op.bind_ok (answer_apply _ _)).trans ((Op.bind_ok hreserve).trans ((Op.bind_ok (Op.modify_apply _ _)).trans
    ((Op.bind_ok (Op.modify_apply _ _)).trans ?_)))
  rw [State.callRetrieved, ← hy, ← hmod, hy]
  rfl

/-- Settles O50: the first row of the table that applies refuses the call; where none does it has a channel reserved, its
holder is ACTIVE with it, and the connection is made. -/
theorem retrieveReconnectsHeldCall : Obligations.RetrieveReconnectsHeldCall := by
  intro s w v p n hrun h hw hv
  have hasked := h.withResult (some .notRunning)
  have ha : bothArgs (positionArg w) (callArg v) = some (p, n) := by rw [hw, hv]; rfl
  refine ⟨fun hl => next_command hrun ha (retrieveCall_gone hasked hl), fun r c hl =>
    ⟨fun hno => next_command hrun ha (retrieveCall_badState hasked hl hno),
      fun hst hholder hbusy => next_command hrun ha (retrieveCall_busy hasked hl hst hholder hbusy),
      fun hst hholder hfree => ⟨fun hf => next_command hrun ha (retrieveCall_noChannel hasked hl hst hholder hfree hf),
        fun ch hf hheld hnone ho => ?_⟩⟩⟩
  obtain ⟨hr, -, rfl⟩ := liveCall_eq_some hl
  have hc := h.call_checked hr
  obtain ⟨d, hd⟩ : ∃ d, d = c.retrievedBy p ch := ⟨_, rfl⟩
  have hdc : d.corrupt = false := by rw [hd]; exact hc
  obtain ⟨y, hy⟩ : ∃ y, y = State.channelReserved { s with commandResult := some .done } r c ch := ⟨_, rfl⟩
  obtain ⟨x, hx⟩ : ∃ x : Position, x = { (s.position p).cleared with
    state := .active, current := some c.number, held := (s.position p).held.erase c.number } := ⟨_, rfl⟩
  obtain ⟨t, ht⟩ : ∃ t, t = State.callRetrieved { s with commandResult := some .done } p r c ch := ⟨_, rfl⟩
  have htf : t = ((y.setCall r d).reportCall r).setPosition p x := by rw [ht, hy, hd, hx]; rfl
  have hychannel : y.channel (channelIndex (postSegment c.post) ch) =
      { state := .reserved, call := some c.number, corrupt := false } := by
    rw [hy]; exact State.setChannel_self _ _ _ _
  have htr : t.call r = some d := by
    rw [htf]; exact (put_get_self _ _ _).trans (by rw [← hdc])
  have htx : t.position p = x := by
    rw [htf]; exact (State.setPosition_self p _ _).trans (position_checked (by rw [hx]; exact h.positions p))
  have htouch : s.TouchesOnly t r p c.post (channelIndex (postSegment c.post) ch) := by
    have hsy := touchesOnly_withResult (x := some .done) (channelReserved_touches { s with commandResult := some .done } p r c ch)
    rw [← hy] at hsy
    rw [htf]
    exact ((hsy.trans (touchesOnly_setCall r p _ _ _ _)).trans (touchesOnly_report r p _ _ (.call r) true true false _)).trans
      (touchesOnly_setPosition r p _ _ _ _)
  have hreported : t.Reported (.call r) ∧ t.Reported (.position p) := by
    rw [htf]
    exact ⟨keepsReports_report (.position p) true true false _ _ (reportBoth_reported (.call r) _),
      reportBoth_reported (.position p) _⟩
  obtain ⟨pos, chs, rec, l, hframe⟩ := callRetrieved_frame { s with commandResult := some .done } p r c ch
  rw [← ht] at hframe
  have hdpost : d.post = c.post := by rw [hd]; rfl
  have hdnumber : d.number = c.number := by rw [hd]; rfl
  obtain ⟨u, hu, hconn⟩ := connectCall_connects (t := t) (c := d) (p := p) (ch := ch) htr hdc (by rw [hd]; rfl)
    ⟨by rw [hd]; rfl, by rw [hdpost, hdnumber, htf]; exact hychannel⟩ (by rw [hframe]; exact hnone)
    (by rw [hdpost, hframe]; exact ho)
    (by rw [hframe]; exact h.crosspoints p) (by rw [hdpost, hframe]; exact h.posts c.post)
  obtain ⟨ps, ls, sp, l, huf⟩ := hconn.frame
  have hruns := retrieveHeld_connects (p := p) hasked hr hf hheld
  have hconnects := (retrieveCall_retrieves hasked hl hst hholder hfree hf).trans hruns
  rw [ht] at hu
  refine ⟨u, next_command hrun ha (hconnects.trans hu), ?_, ?_, ?_, ?_, ?_, ?_, hconn.reports _ hreported.1, hconn.reports _ hreported.2,
    ?_, ?_, ?_, ?_⟩
  · rw [huf, hframe]
  · rw [huf, ← Call.retrievedBy, ← hd]; exact htr
  · rw [huf]; exact htx.trans (by rw [hx]; rfl)
  · rw [State.channel, hconn.channels, htf]; exact hychannel
  · rw [← hdpost]; exact hconn.connected
  · rw [← hdpost, ← hdnumber, hconn.post, hframe]; rfl
  · rw [huf, hframe]
  · rw [huf, hframe]
  · rw [huf, hframe]
  · rw [← hdpost] at htouch ⊢; exact htouch.trans hconn.touches

end Sys2Proof.Machine
end

section
/-! SUPPORT. CALLBACK in each state of the position, the post and the call table (R146), and the obligation about it. -/

namespace Sys2Proof.Machine

/-! ### CALLBACK refused -/

/-- A post that a callback may ring: PRESENT on an ACTIVE segment, without a live call and not deferred (R146). -/
def State.ringable (s : State) (i : Fin 256) : Prop :=
  (s.post i).state = .present ∧ (s.segment (postSegment i)).state = .active ∧ (s.post i).liveCall = none
    ∧ (s.post i).deferred = false

theorem ringable_iff (s : State) (i : Fin 256) : s.ringable i ↔ ¬ ((s.post i).state ≠ .present
    ∨ (s.segment (postSegment i)).state ≠ .active ∨ (s.post i).liveCall.isSome = true ∨ (s.post i).deferred = true) := by
  simp only [State.ringable, not_or, not_not, Bool.not_eq_true, Option.isSome_eq_false_iff, Option.isNone_iff_eq_none]

section Answers

variable {s : State} {p : Fin 16} {i : Fin 256} (h : s.Sound)
include h

theorem callbackPost_busy (he : (s.position p).eligible = false) :
    callbackPost (p, i) s = .ok () { s with commandResult := some .busy } := by
  have hno : ¬ (s.position p).eligible = true := by simp [he]
  simp only [callbackPost, Op.bind_apply, readPosition_ok s p (h.positions p), if_pos hno, answer_apply]

variable (he : (s.position p).eligible = true)
include he

theorem callbackPost_badState (hno : ¬ s.ringable i) :
    callbackPost (p, i) s = .ok () { s with commandResult := some .badState } := by
  have hbad := not_not.mp fun e => hno ((ringable_iff s i).mpr e)
  simp only [callbackPost, Op.bind_apply, readPosition_ok s p (h.positions p), if_neg (not_not_intro he), Op.get_apply,
    readPost_ok s i (h.posts i), if_pos hbad, answer_apply]

variable (hready : s.ringable i)
include hready

theorem callbackPost_noChannel (hf : s.freeChannel (postSegment i) = none) :
    callbackPost (p, i) s = .ok () { s with commandResult := some .noChannel } := by
  simp only [callbackPost, Op.bind_apply, readPosition_ok s p (h.positions p), if_neg (not_not_intro he), Op.get_apply,
    readPost_ok s i (h.posts i), if_neg ((ringable_iff s i).mp hready), hf, Option.isNone_none, if_true, answer_apply]

theorem callbackPost_tableFull (hf : (s.freeChannel (postSegment i)).isSome = true) (hfull : s.freeCall = none) :
    callbackPost (p, i) s = .ok () { s with commandResult := some .tableFull } := by
  have hsome : ¬ (s.freeChannel (postSegment i)).isNone = true := by
    rw [Option.isNone_iff_eq_none]; exact Option.isSome_iff_ne_none.mp hf
  simp only [callbackPost, Op.bind_apply, readPosition_ok s p (h.positions p), if_neg (not_not_intro he), Op.get_apply,
    readPost_ok s i (h.posts i), if_neg ((ringable_iff s i).mp hready), if_neg hsome, hfull, answer_apply]

theorem callbackPost_rings {r : Fin 64} (hf : (s.freeChannel (postSegment i)).isSome = true) (hfree : s.freeCall = some r) :
    callbackPost (p, i) s = createCallback p (s.position p) i r s := by
  have hsome : ¬ (s.freeChannel (postSegment i)).isNone = true := by
    rw [Option.isNone_iff_eq_none]; exact Option.isSome_iff_ne_none.mp hf
  simp only [callbackPost, Op.bind_apply, readPosition_ok s p (h.positions p), if_neg (not_not_intro he), Op.get_apply,
    readPost_ok s i (h.posts i), if_neg ((ringable_iff s i).mp hready), if_neg hsome, hfree]

end Answers

/-! ### The callback made -/

/-- The record of a callback as it is first filled (R146 step 1). -/
def State.callbackRecord (s : State) (p : Fin 16) (i : Fin 256) : Call :=
  { Call.fresh s.nextCallNumber.1 i .callback .ringing with
    arrivalTime := some s.time, far := (s.post i).side == .far, parties := [p] }

/-- The state once a record has been filled for a callback (R146 step 1). -/
def State.callbackFilled (s : State) (p : Fin 16) (i : Fin 256) (r : Fin 64) : State :=
  ((s.takeRecord r i .callback .ringing).modifyCall r (fun c =>
    { c with arrivalTime := some s.time, far := (s.post i).side == .far, parties := [p] })).reportCall r

theorem callbackFilled_eq (s : State) (p : Fin 16) (i : Fin 256) (r : Fin 64) : s.callbackFilled p i r =
    ((s.takeRecord r i .callback .ringing).setCall r (s.callbackRecord p i)).reportCall r := by
  have hr : (s.takeRecord r i .callback .ringing).call r
      = some { Call.fresh s.nextCallNumber.1 i .callback .ringing with corrupt := false } := put_get_self _ _ _
  rw [State.callbackFilled, State.modifyCall, hr]
  rfl

theorem callbackFilled_frame (s : State) (p : Fin 16) (i : Fin 256) (r : Fin 64) : ∃ rec l, s.callbackFilled p i r = { s with
    reports := { s.reports with list := l }
    calls := { s.calls with records := rec, nextNumber := s.nextCallNumber.2 } } := by
  rw [callbackFilled_eq]
  exact ⟨_, _, rfl⟩

theorem callbackFilled_call (s : State) (p : Fin 16) (i : Fin 256) (r : Fin 64) :
    (s.callbackFilled p i r).call r = some (s.callbackRecord p i) := by
  rw [callbackFilled_eq]
  exact put_get_self _ _ _

theorem callbackFilled_reported (s : State) (p : Fin 16) (i : Fin 256) (r : Fin 64) :
    (s.callbackFilled p i r).Reported (.call r) := by
  rw [callbackFilled_eq]
  exact reportBoth_reported (.call r) _

theorem touchesOnly_takeRecord (r : Fin 64) (p : Fin 16) (j : Fin 256) (k : Fin 32) (i : Fin 256) (kind : CallKind)
    (st : CallState) (s : State) : s.TouchesOnly (s.takeRecord r i kind st) r p j k :=
  have hcounter : s.TouchesOnly { s with calls := { s.calls with nextNumber := s.nextCallNumber.2 } } r p j k :=
    { State.TouchesOnly.refl r p j k s with }
  (hcounter.trans (touchesOnly_setCall r p j k (Call.fresh s.nextCallNumber.1 i kind st) _)).trans
    (touchesOnly_report r p j k .engine true false false _)

theorem callbackFilled_touches (s : State) (p : Fin 16) (i : Fin 256) (r : Fin 64) (k : Fin 32) :
    s.TouchesOnly (s.callbackFilled p i r) r p i k := by
  rw [callbackFilled_eq]
  exact ((touchesOnly_takeRecord r p i k i .callback .ringing s).trans (touchesOnly_setCall r p i k _ _)).trans
    (touchesOnly_report r p i k (.call r) true true false _)

/-- A DIALLING position (R146 step 4). -/
def State.dialling (s : State) (p : Fin 16) (n : Nat) : Position :=
  { (s.position p).cleared with state := .dialling, current := some n, ringTimer := some (s.after s.ringTicks) }

/-- The state once a callback has its channel, its post and its position, but for the RING (R146 steps 2 to 4). -/
def State.callbackPlaced (s : State) (p : Fin 16) (i : Fin 256) (r : Fin 64) (ch : Fin 4) : State :=
  let t := (s.callbackFilled p i r).channelReserved r (s.callbackRecord p i) ch
  (t.setPost i { t.post i with liveCall := some s.nextCallNumber.1 }).setPosition p (s.dialling p s.nextCallNumber.1)

/-- What a callback leaves before its RING is pended. -/
structure State.PlacesCallback (s v : State) (p : Fin 16) (i : Fin 256) (r : Fin 64) (ch : Fin 4) : Prop where
  frame : ∃ ps ls pos chs rec l, v = { s with
    posts := ps, lines := ls, positions := pos, speech := { s.speech with channels := chs }
    reports := { s.reports with list := l }
    calls := { s.calls with records := rec, nextNumber := s.nextCallNumber.2 } }
  call : v.call r = some { s.callbackRecord p i with channel := some ch }
  post : v.post i = { s.post i with liveCall := some s.nextCallNumber.1 }
  position : v.position p = s.dialling p s.nextCallNumber.1
  channel : v.channel (channelIndex (postSegment i) ch)
    = { state := .reserved, call := some s.nextCallNumber.1, corrupt := false }
  reportedCall : v.Reported (.call r)
  reportedPosition : v.Reported (.position p)
  touches : s.TouchesOnly v r p i (channelIndex (postSegment i) ch)

theorem callbackPlaced_places {s : State} (h : s.Sound) (p : Fin 16) (i : Fin 256) (r : Fin 64) (ch : Fin 4) :
    s.PlacesCallback (s.callbackPlaced p i r ch) p i r ch := by
  obtain ⟨a, ha⟩ : ∃ a, a = s.callbackFilled p i r := ⟨_, rfl⟩
  obtain ⟨rec, l, haf⟩ := callbackFilled_frame s p i r
  have htouch := callbackFilled_touches s p i r (channelIndex (postSegment i) ch)
  have hreported := callbackFilled_reported s p i r
  rw [← ha] at haf htouch hreported
  obtain ⟨t, ht⟩ : ∃ t, t = a.channelReserved r (s.callbackRecord p i) ch := ⟨_, rfl⟩
  obtain ⟨chs, rec', l', htf⟩ := channelReserved_frame a r (s.callbackRecord p i) ch
  have hat : a.KeepsReports t := by
    rw [ht]; exact fun o e => keepsReports_report (.segment (postSegment i)) true false false _ o e
  have htouch' := channelReserved_touches a p r (s.callbackRecord p i) ch
  rw [← ht] at htf htouch'
  have htr : t.call r = some { s.callbackRecord p i with channel := some ch } := by rw [ht]; exact put_get_self _ _ _
  have htch : t.channel (channelIndex (postSegment i) ch)
      = { state := .reserved, call := some s.nextCallNumber.1, corrupt := false } := by
    rw [ht]; exact State.setChannel_self _ _ _ _
  have htp : t.post i = s.post i := by rw [htf, haf]; rfl
  obtain ⟨w, hw⟩ : ∃ w, w = t.setPost i { t.post i with liveCall := some s.nextCallNumber.1 } := ⟨_, rfl⟩
  have htouch'' := touchesPost_setPost i { t.post i with liveCall := some s.nextCallNumber.1 } t
  have hwp : w.post i = { s.post i with liveCall := some s.nextCallNumber.1 } := by
    rw [hw, State.setPost_self, htp]; simp [h.posts i]
  rw [← hw] at htouch''
  obtain ⟨ps, ls, l'', hwf⟩ := htouch''.frame
  have hplaced : s.callbackPlaced p i r ch = w.setPosition p (s.dialling p s.nextCallNumber.1) := by
    simp only [State.callbackPlaced, ← ha, ← ht, ← hw]
  have hchecked : (s.dialling p s.nextCallNumber.1).corrupt = false := h.positions p
  have hkeeps : w.KeepsReports (w.setPosition p (s.dialling p s.nextCallNumber.1)) :=
    keepsReports_report (.position p) true true false _
  rw [hplaced]
  constructor
  case frame =>
    rw [setPosition_eq p hchecked, hwf, htf, haf]
    exact ⟨_, _, _, _, _, _, rfl⟩
  case call => rw [setPosition_eq p hchecked, hwf]; exact htr
  case post => exact hwp
  case position => rw [setPosition_eq p hchecked]; exact put_get_self _ _ _
  case channel => rw [setPosition_eq p hchecked, hwf]; exact htch
  case reportedCall => exact hkeeps _ (htouch''.reports _ (hat _ hreported))
  case reportedPosition => exact reportBoth_reported (.position p) _
  case touches =>
    exact ((htouch.trans htouch').trans (htouch''.touchesOnly r p _)).trans (touchesOnly_setPosition r p i _ _ w)

theorem createCallback_places {s : State} (h : s.Sound) {p : Fin 16} {i : Fin 256} {r : Fin 64} {ch : Fin 4}
    (hf : s.freeChannel (postSegment i) = some ch) (hheld : s.channelHeldBy s.nextCallNumber.1 = none) :
    createCallback p (s.position p) i r s = pend i .ring (some s.nextCallNumber.1)
      (State.callbackPlaced { s with commandResult := some .done } p i r ch) := by
  obtain ⟨b, hb⟩ : ∃ b : State, b = { s with commandResult := some .done } := ⟨_, rfl⟩
  have hbs : b.Sound := by rw [hb]; exact h.withResult (some .done)
  have hnumber : s.nextCallNumber.1 = b.nextCallNumber.1 := by rw [hb]; rfl
  have hbp : s.position p = b.position p := by rw [hb]; rfl
  obtain ⟨a, ha⟩ : ∃ a, a = b.callbackFilled p i r := ⟨_, rfl⟩
  obtain ⟨rec, l, haf⟩ := callbackFilled_frame b p i r
  have har := callbackFilled_call b p i r
  rw [← ha] at haf har
  have hreserve := reserveChannel_ok (postSegment i) r a (b.callbackRecord p i) ch har rfl
    (by rw [haf, hb]; exact hheld) (by rw [haf, hb]; exact hf) (by rw [haf]; exact hbs.channels _)
  obtain ⟨t, ht⟩ : ∃ t, t = a.channelReserved r (b.callbackRecord p i) ch := ⟨_, rfl⟩
  obtain ⟨chs, rec', l', htf⟩ := channelReserved_frame a r (b.callbackRecord p i) ch
  have hreserved : reserveChannel (postSegment i) r a = .ok () t := by rw [ht]; exact hreserve
  rw [← ht] at htf
  have htr : t.call r = some { b.callbackRecord p i with channel := some ch } := by rw [ht]; exact put_get_self _ _ _
  obtain ⟨w, hw⟩ : ∃ w, w = t.setPost i { t.post i with liveCall := some b.nextCallNumber.1 } := ⟨_, rfl⟩
  obtain ⟨ps, ls, l'', hwf⟩ := (touchesPost_setPost i { t.post i with liveCall := some b.nextCallNumber.1 } t).frame
  rw [← hw] at hwf
  have hring : some (w.after w.ringTicks) = some (b.after b.ringTicks) := by rw [hwf, htf, haf]; rfl
  have hplaced : b.callbackPlaced p i r ch = w.setPosition p { (b.position p).cleared with
      state := .dialling, current := some b.nextCallNumber.1, ringTimer := some (w.after w.ringTicks) } := by
    rw [hring]
    simp only [State.callbackPlaced, ← ha, ← ht, ← hw]
    rfl
  rw [← hb, hnumber, hbp, hplaced, createCallback]
  refine (Op.bind_ok (answer_apply _ _)).trans ?_
  rw [← hb]
  refine (Op.bind_ok (Op.modify_apply _ _)).trans ?_
  rw [← State.callbackFilled, ← ha]
  refine (Op.bind_ok hreserved).trans ((withCall_ok t r _ _ htr rfl).trans ?_)
  refine (Op.bind_ok (Op.modify_apply _ _)).trans ?_
  exact (Op.bind_ok (Op.modify_apply _ _)).trans (by rw [hw]; rfl)

/-- Settles O48: the first row of the table that applies refuses the position; where none does a record is filled, its channel
reserved, the position DIALLING, and RING pended to the post. -/
theorem callbackRingsPost : Obligations.CallbackRingsPost := by
  intro s w a b p i hrun h hw hab
  have hasked := h.withResult (some .notRunning)
  have hargs : bothArgs (positionArg w) (postArg a b) = some (p, i) := by rw [hw, hab]; rfl
  refine ⟨fun he => next_command hrun hargs (callbackPost_busy hasked he),
    fun he hno => next_command hrun hargs (callbackPost_badState hasked he hno),
    fun he hready hf => next_command hrun hargs (callbackPost_noChannel hasked he hready hf),
    fun he hready hf hfull => next_command hrun hargs (callbackPost_tableFull hasked he hready hf hfull),
    fun ch r n he hready hf hfree hn hheld => ?_⟩
  subst hn
  obtain ⟨c, hc⟩ : ∃ c : State, c = { s with commandResult := some .done } := ⟨_, rfl⟩
  have hcs : c.Sound := by rw [hc]; exact h.withResult (some .done)
  have hplaces := callbackPlaced_places hcs p i r ch
  obtain ⟨v, hv⟩ : ∃ v, v = c.callbackPlaced p i r ch := ⟨_, rfl⟩
  rw [← hv] at hplaces
  obtain ⟨ps, ls, pos, chs, rec, l, hvf⟩ := hplaces.frame
  obtain ⟨u, hu, htouch, hup⟩ := pend_touchesPost i .ring (some s.nextCallNumber.1) v
    (by rw [hplaces.post]; exact hcs.posts i)
  obtain ⟨ps', ls', l', huf⟩ := htouch.frame
  have hsome : (s.freeChannel (postSegment i)).isSome = true := by rw [hf]; rfl
  have hruns := (callbackPost_rings hasked he hready hsome hfree).trans
    (createCallback_places hasked hf hheld)
  rw [hv, hc] at hu
  refine ⟨u, next_command hrun hargs (hruns.trans hu), ?_, ?_, ?_, ?_, ?_, ?_, htouch.reports _ hplaces.reportedCall,
    htouch.reports _ hplaces.reportedPosition, ?_, ?_, ?_, ?_⟩
  · rw [huf, hvf, hc]
  · rw [huf]; exact hplaces.call.trans (by rw [hc]; rfl)
  · rw [huf, hvf, hc]; rfl
  · rw [huf]; exact hplaces.position.trans (by rw [hc]; rfl)
  · rw [huf]; exact hplaces.channel.trans (by rw [hc]; rfl)
  · rw [hup, State.postPended, hplaces.post, hc]; rfl
  · rw [huf, hvf, hc]
  · rw [huf, hvf, hc]
  · rw [huf, hvf, hc]
  · have hsu := hplaces.touches.trans (htouch.touchesOnly r p _)
    rw [hc] at hsu
    exact touchesOnly_withResult hsu

end Sys2Proof.Machine
end

section
/-! SUPPORT. ISOLATE_POST and RESTORE_POST in each state of the post (R58, R59, R194), and the obligations about them. -/

namespace Sys2Proof.Machine

/-! ### The far limit (R194) -/

/-- Where a post is not the one at the far limit of a fed break, its loss leaves the break as it is. -/
theorem followFar_quiet {i : Fin 256} {s : State} (h : ∀ b, s.broken (postSegment i) = some b →
    b.state = .cut ∨ (s.post i).side ≠ .far ∨ b.farLimit ≠ some (postDrop i)) : followFar i s = .ok () s := by
  simp only [followFar, Op.bind_apply, Op.get_apply]
  cases hb : s.broken (postSegment i) with
  | none => simp
  | some b => simp only [if_pos (h b hb), Op.pure_apply]

theorem followFar_near {i : Fin 256} {s : State} (h : (s.post i).side = .near) : followFar i s = .ok () s :=
  followFar_quiet fun _ _ => .inr (.inl (by rw [h]; exact fun e => Side.noConfusion e))

theorem followFar_lowers {i : Fin 256} {s : State} {b : Break} {far : Fin 32} (hb : s.broken (postSegment i) = some b)
    (hcut : b.state ≠ .cut) (hside : (s.post i).side = .far) (hlimit : b.farLimit = some (postDrop i))
    (hfar : s.lowestFar (postSegment i) = some far) :
    followFar i s = .ok () (s.setBreak (postSegment i) { b with farLimit := some far }) := by
  have hno : ¬ (b.state = .cut ∨ (s.post i).side ≠ .far ∨ b.farLimit ≠ some (postDrop i)) := by simp [hcut, hside, hlimit]
  simp only [followFar, Op.bind_apply, Op.get_apply, hb, if_neg hno, hfar, Op.set_apply]

/-! ### ISOLATE_POST (R58) -/

theorem isolatePost_refused {i : Fin 256} {s : State} (hc : (s.post i).corrupt = false)
    (hst : (s.post i).state = .isolated) : isolatePost i s = .ok () { s with commandResult := some .badState } := by
  simp only [isolatePost, Op.bind_apply, readPost_ok s i hc, if_pos hst, answer_apply]

/-- A RELEASE pended and the post ISOLATED, the post being of side NEAR (R58). -/
theorem isolateTail_runs {i : Fin 256} {s : State} (hc : (s.post i).corrupt = false) (hnear : (s.post i).side = .near) :
    ∃ u, (do
        pend i .release none
        modify (fun s => s.setPost i { s.post i with state := .isolated, barred := 0 })
        followFar i : Op Unit) s = .ok () u
      ∧ s.TouchesPost u i ∧ u.post i = { s.postPended i .release none with state := .isolated, barred := 0 } := by
  obtain ⟨t, hpend, htouch, hpost⟩ := pend_touchesPost i .release none s hc
  obtain ⟨u, hu⟩ : ∃ u, u = t.setPost i { t.post i with state := .isolated, barred := 0 } := ⟨_, rfl⟩
  have hup : u.post i = { s.postPended i .release none with state := .isolated, barred := 0 } := by
    have hcode : (s.postPended i .release none).corrupt = false := hc
    rw [hu, State.setPost_self, hpost]
    simp [hcode]
  have hside : (u.post i).side = .near := by rw [hup]; exact hnear
  refine ⟨u, ?_, ?_, hup⟩
  · refine (Op.bind_ok hpend).trans ((Op.bind_ok (Op.modify_apply _ _)).trans ?_)
    rw [← hu]
    exact followFar_near hside
  · rw [hu]; exact htouch.trans (touchesPost_setPost i _ t)

/-- Settles O31: an ISOLATED post is refused; any other has its QUEUED call ended, where it has one, a RELEASE pended, and is
ISOLATED. -/
theorem isolatePostBarsPost : Obligations.IsolatePostBarsPost := by
  intro s g d i hrun h harg
  obtain ⟨b, hb⟩ : ∃ b : State, b = { s with commandResult := some .done } := ⟨_, rfl⟩
  have hbs : b.Sound := by rw [hb]; exact h.withResult (some .done)
  refine ⟨fun hst => next_command hrun harg (isolatePost_refused (s := { s with commandResult := some .notRunning })
    (h.posts i) hst), fun hst hcall hdef hnear => ?free, fun r c hst hcall hdef hl hq hch hpost hnear => ?queued⟩
  case free =>
    obtain ⟨u, hu, htouch, hup⟩ := isolateTail_runs (hbs.posts i) (by rw [hb]; exact hnear)
    obtain ⟨ps, ls, l, huf⟩ := htouch.frame
    have hruns : isolatePost i { s with commandResult := some .notRunning } = .ok () u := by
      rw [isolatePost]
      refine (Op.bind_ok (readPost_ok { s with commandResult := some .notRunning } i (h.posts i))).trans ?_
      have hcall' : (State.post { s with commandResult := some .notRunning } i).liveCall = none := hcall
      have hdef' : (State.post { s with commandResult := some .notRunning } i).deferred = false := hdef
      have hst' : ¬ (State.post { s with commandResult := some .notRunning } i).state = .isolated := hst
      rw [if_neg hst', hcall', hdef']
      refine (Op.bind_ok (answer_apply _ _)).trans ?_
      rw [← hu, hb]
      rfl
    refine ⟨u, next_command hrun harg hruns, ?_, ?_, fun j hj => ?_, ?_⟩
    · rw [huf, hb]
    · rw [hup, hb]; rfl
    · exact (htouch.posts j hj).trans (by rw [hb]; rfl)
    · rw [huf, hb]
  case queued =>
    subst hpost
    obtain ⟨hr, -, -⟩ := liveCall_eq_some hl
    obtain ⟨t, ht, hends, hpositions, hspeech, -⟩ := endCall_waits .lineFault 0 0 hbs (r := r) (c := c) (by rw [hb]; exact hr)
      (.inl hq) hch (fun q e => by rw [hq] at e; exact CallState.noConfusion e)
    obtain ⟨_, _, _, _, _, _, _, _, _, _, htf⟩ := hends.frame
    have htp : t.post c.post = { s.post c.post with liveCall := none } := by
      have hforgets : s.postEnded c false = { s.post c.post with liveCall := none } := by
        simp only [State.postEnded, Bool.false_eq_true, if_false, hcall, if_true]
      exact hends.post.trans (by rw [← hforgets, hb]; rfl)
    obtain ⟨u, hu, htouch, hup⟩ := isolateTail_runs (i := c.post) (s := t) (by rw [htp]; exact h.posts c.post)
      (by rw [htp]; exact hnear)
    obtain ⟨ps, ls, l, huf⟩ := htouch.frame
    have hruns : isolatePost c.post { s with commandResult := some .notRunning } = .ok () u := by
      rw [isolatePost]
      refine (Op.bind_ok (readPost_ok { s with commandResult := some .notRunning } c.post (h.posts c.post))).trans ?_
      have hcall' : (State.post { s with commandResult := some .notRunning } c.post).liveCall = some c.number := hcall
      have hdef' : (State.post { s with commandResult := some .notRunning } c.post).deferred = false := hdef
      have hst' : ¬ (State.post { s with commandResult := some .notRunning } c.post).state = .isolated := hst
      have hnum : b.callNumbered c.number = some r := by rw [hb]; exact liveCall_numbered hl
      rw [if_neg hst', hcall', hdef']
      refine (Op.bind_ok (answer_apply _ _)).trans ?_
      rw [← hb]
      refine (Op.bind_ok (Op.get_apply _)).trans ?_
      rw [Option.bind_some, hnum]
      exact (Op.bind_ok ht).trans hu
    refine ⟨u, next_command hrun harg hruns, ?_, ?_, ?_, ?_, fun q hq' => ?_, fun j hj => ?_, ?_, ?_, ?_, ?_, ?_⟩
    · rw [huf, htf, hb]
    · rw [hup, State.postPended, htp]; rfl
    · rw [huf]; exact hends.call
    · rw [huf]; exact hends.queue.trans (by rw [if_pos hq, hb])
    · rw [huf]; exact (hends.touches.calls q hq').trans (by rw [hb]; rfl)
    · exact (htouch.posts j hj).trans ((hends.touches.posts j hj).trans (by rw [hb]; rfl))
    · have hsame : t.positions = b.positions := Vector.ext fun q hlt => by
        have hp := hpositions ⟨q, hlt⟩
        rw [State.heldDropped, if_neg (by simp [hq])] at hp
        exact hp
      rw [huf]; exact hsame.trans (by rw [hb])
    · rw [huf]; exact hspeech.trans (by rw [hb])
    · rw [huf, htf, hb]
    · rw [huf, htf, hb]
    · rw [huf, htf, hb]

/-! ### RESTORE_POST (R59, R194) -/

/-- A post as RESTORE_POST leaves it, in the state given (R59). -/
def Post.restored (p : Post) (st : PostState) : Post :=
  { p with state := st, misses := 0, identity := none, identityMatch := .unread }

theorem restorePost_refused {i : Fin 256} {s : State} (hc : (s.post i).corrupt = false)
    (hst : ¬ ((s.post i).state = .isolated ∨ (s.post i).state = .silent)) :
    restorePost i s = .ok () { s with commandResult := some .badState } := by
  simp only [restorePost, Op.bind_apply, readPost_ok s i hc, if_neg hst, answer_apply]

/-- The state once a post has been restored, but for the far limit (R59). -/
def State.postRestored (s : State) (i : Fin 256) : State :=
  (s.setPost i ((s.post i).restored (s.restoredState i))).rejoinPolled i

theorem touchesPost_rejoinPolled (i : Fin 256) (s : State) : s.TouchesPost (s.rejoinPolled i) i := by
  unfold State.rejoinPolled
  split
  · exact touchesPost_updateLine i _ _ s rfl
  · exact .refl s i

theorem postRestored_touches (s : State) (i : Fin 256) : s.TouchesPost (s.postRestored i) i :=
  (touchesPost_setPost i _ s).trans (touchesPost_rejoinPolled i _)

theorem rejoinPolled_post (i j : Fin 256) (s : State) : (s.rejoinPolled i).post j = s.post j := by
  unfold State.rejoinPolled
  split <;> rfl

theorem postRestored_post {s : State} {i : Fin 256} (hc : (s.post i).corrupt = false) :
    (s.postRestored i).post i = (s.post i).restored (s.restoredState i) := by
  rw [State.postRestored, rejoinPolled_post, State.setPost_self, Post.restored, hc]

/-- A configured post that becomes UNKNOWN is polled from now on (R59). -/
theorem postRestored_polled {s : State} {i : Fin 256} (hc : (s.post i).corrupt = false)
    (hunknown : s.restoredState i = .unknown) (hconf : s.configured i = true) :
    ((s.postRestored i).line (s.lineOf i)).lastExchange.get (postDrop i) = some s.time := by
  obtain ⟨t, ht⟩ : ∃ t, t = s.setPost i ((s.post i).restored (s.restoredState i)) := ⟨_, rfl⟩
  obtain ⟨ps, ls, l, htf⟩ := (touchesPost_setPost i ((s.post i).restored (s.restoredState i)) s).frame
  have htp : t.post i = (s.post i).restored .unknown := by
    rw [ht, State.setPost_self, hunknown, Post.restored, hc]
  rw [← ht] at htf
  have hline : t.lineOf i = s.lineOf i := by unfold State.lineOf; rw [htp]; rfl
  have hconfigured : t.configured i = true := by rw [htf]; exact hconf
  have hjoins : (t.configured i && (t.post i).state == .unknown) = true := by rw [hconfigured, htp]; rfl
  rw [State.postRestored, ← ht, State.rejoinPolled, if_pos hjoins, hline, updateLine_line, if_pos rfl, htf]
  exact put_get_self _ _ _

theorem restorePost_restores {s : State} {i : Fin 256} (hc : (s.post i).corrupt = false)
    (hst : (s.post i).state = .isolated ∨ (s.post i).state = .silent) :
    restorePost i s = (if s.restoredState i = .unreachable then followFar i else pure ())
      (State.postRestored { s with commandResult := some .done } i) := by
  obtain ⟨t, ht⟩ : ∃ t, t = State.postRestored { s with commandResult := some .done } i := ⟨_, rfl⟩
  have htp : (t.post i).state = s.restoredState i := by
    rw [ht, postRestored_post (s := { s with commandResult := some .done }) hc]; rfl
  rw [restorePost]
  refine (Op.bind_ok (readPost_ok s i hc)).trans ?_
  rw [if_pos hst]
  refine (Op.bind_ok (answer_apply _ _)).trans ((Op.bind_ok (Op.modify_apply _ _)).trans ?_)
  have hsame : State.rejoinPolled i (State.setPost i { s.post i with
      state := State.restoredState { s with commandResult := some .done } i, misses := 0, identity := none
      identityMatch := .unread } { s with commandResult := some .done }) = t := by rw [ht]; rfl
  rw [hsame]
  refine (Op.bind_ok (Op.get_apply _)).trans ?_
  rw [htp, ← ht]

theorem restoredState_eq (s : State) (i : Fin 256) : s.restoredState i =
    if (s.segment (postSegment i)).serving = true ∧ s.beyondBreak i = false then .unknown else .unreachable := by
  simp only [State.restoredState, Bool.and_eq_true, Bool.not_eq_true']

/-- The lowest PRESENT post of side FAR does not depend on a post that is not PRESENT. -/
theorem lowestFar_congr {s t : State} {i : Fin 256} (g : Fin 8) (h : ∀ j, j ≠ i → t.post j = s.post j)
    (hs : (s.post i).state ≠ .present) (ht : (t.post i).state ≠ .present) : t.lowestFar g = s.lowestFar g := by
  unfold State.lowestFar
  congr 1
  funext d
  by_cases hd : postIndex g d = i
  · rw [hd, beq_false_of_ne hs, beq_false_of_ne ht, Bool.and_false, Bool.and_false]
  · rw [h _ hd]

theorem postIndex_postSegment_postDrop (i : Fin 256) : postIndex (postSegment i) (postDrop i) = i := by
  apply Fin.ext
  simp only [postIndex, postSegment, postDrop]
  omega

theorem lowestFar_present {s : State} {g : Fin 8} {far : Fin 32} (h : s.lowestFar g = some far) :
    (s.post (postIndex g far)).state = .present := by
  have hfound := List.find?_some h
  rw [Bool.and_eq_true, beq_iff_eq, beq_iff_eq] at hfound
  exact hfound.2

/-- A break whose far limit moves has its chainage interval computed again (R79). -/
theorem measuredBreak_farLimit {s : State} {g : Fin 8} {b : Break} {far : Fin 32} (hb : s.broken g = some b)
    (hmoved : b.farLimit ≠ some far) : s.measuredBreak g { b with farLimit := some far }
      = { b with farLimit := some far, interval := s.breakInterval g { b with farLimit := some far } } := by
  have hdiffers : ¬ (s.broken g).any (fun o => o.sameLimits { b with farLimit := some far }) = true := by
    simp only [hb, Option.any_some, Break.sameLimits, beq_false_of_ne hmoved, Bool.and_false, Bool.false_eq_true,
      not_false_eq_true]
  rw [State.measuredBreak, if_neg hdiffers]

/-- Settles O32: a post in another state is refused; any other takes the state that its segment and break give it, and the
far limit follows it where it stood there. -/
theorem restorePostReturnsPostToService : Obligations.RestorePostReturnsPostToService := by
  intro s g d i hrun hc harg
  simp only [← restoredState_eq]
  obtain ⟨t, ht⟩ : ∃ t, t = State.postRestored { s with commandResult := some .done } i := ⟨_, rfl⟩
  have htouch := postRestored_touches { s with commandResult := some .done } i
  have hpost := postRestored_post (s := { s with commandResult := some .done }) (i := i) hc
  obtain ⟨ps, ls, l, htf⟩ := htouch.frame
  have hruns (hst : (s.post i).state = .isolated ∨ (s.post i).state = .silent) :
      restorePost i { s with commandResult := some .notRunning }
        = (if s.restoredState i = .unreachable then followFar i else pure ()) t := by
    rw [ht]
    exact restorePost_restores (s := { s with commandResult := some .notRunning }) hc hst
  have hposts (j : Fin 256) (hj : j ≠ i) : t.post j = s.post j := by rw [ht]; exact htouch.posts j hj
  rw [← ht] at htf hpost
  have htp : t.post i = (s.post i).restored (s.restoredState i) := hpost
  have hbroken : t.broken (postSegment i) = s.broken (postSegment i) := by rw [htf]; rfl
  refine ⟨fun hiso hsil => next_command hrun harg (restorePost_refused (s := { s with commandResult := some .notRunning }) hc
    (not_or.mpr ⟨hiso, hsil⟩)), fun hst => ⟨fun hquiet => ?restored, fun b far hstate hside hb hcut hlimit hfar => ?handed⟩⟩
  case restored =>
    have htail : (if s.restoredState i = .unreachable then followFar i else pure () : Op Unit) t = .ok () t := by
      split
      case isFalse => rfl
      case isTrue hun =>
        refine followFar_quiet fun b hb => ?_
        rw [hbroken] at hb
        rw [htp]
        rcases hquiet with h | h | h
        · rw [h] at hun; exact PostState.noConfusion hun
        · exact .inr (.inl (by rw [Post.restored, h]; exact fun e => Side.noConfusion e))
        · rcases h b hb with h | h
          · exact .inl h
          · exact .inr (.inr h)
    refine ⟨t, next_command hrun harg ((hruns hst).trans htail), ?_, htp, fun hunknown hconf => ?_, hposts, ?_⟩
    · rw [htf]
    · rw [ht]
      exact postRestored_polled (s := { s with commandResult := some .done }) hc hunknown hconf
    · rw [htf]
  case handed =>
    have hpresent : (s.post i).state ≠ .present := by rcases hst with e | e <;> simp [e]
    have htpresent : (t.post i).state ≠ .present := by rw [htp, hstate]; exact fun e => PostState.noConfusion e
    have htfar := (lowestFar_congr (postSegment i) hposts hpresent htpresent).trans hfar
    have hmoved : b.farLimit ≠ some far := by
      rw [hlimit]
      intro e
      rw [← Option.some.inj e] at hfar
      have hat := lowestFar_present hfar
      rw [postIndex_postSegment_postDrop] at hat
      exact hpresent hat
    have hmeasured := measuredBreak_farLimit (hbroken.trans hb) hmoved
    have hlowers := followFar_lowers (i := i) (s := t) (hbroken.trans hb) hcut (by rw [htp]; exact hside) hlimit htfar
    obtain ⟨l', hset⟩ := setSegment_frame (postSegment i) { t.segment (postSegment i) with
      broken := some (t.measuredBreak (postSegment i) { b with farLimit := some far }) } t
    obtain ⟨u, hu⟩ : ∃ u, u = t.setBreak (postSegment i) { b with farLimit := some far } := ⟨_, rfl⟩
    have huf := hu.trans hset
    refine ⟨u, next_command hrun harg ((hruns hst).trans ?_), ?_, ?_, ?_, fun k hk => ?_, fun j hj => ?_, ?_⟩
    · rw [if_pos hstate, hlowers, ← hu]
    · rw [huf, htf]
    · rw [huf]; exact htp.trans (by rw [hstate]; rfl)
    · rw [huf, hmeasured]
      simp only [State.segment, put_get_self]
      rw [htf]; rfl
    · rw [huf, htf]; simp [State.segment, hk]
    · rw [huf]; exact hposts j hj
    · rw [huf, htf]

end Sys2Proof.Machine
end

section
/-! SUPPORT. A segment entering SWEEP (R68): what its steps leave of the posts, the line sides and the segment record, and
the obligation about CLEAR_SEGMENT and the retry timer (R72, R87). -/

namespace Sys2Proof.Machine

/-! ### The posts of a segment -/

theorem postSegment_postIndex (g : Fin 8) (d : Fin 32) : postSegment (postIndex g d) = g := by
  apply Fin.ext
  simp only [postIndex, postSegment]
  omega

theorem postDrop_postIndex (g : Fin 8) (d : Fin 32) : postDrop (postIndex g d) = d := by
  apply Fin.ext
  simp only [postIndex, postDrop]
  omega

theorem mem_segmentPosts (g : Fin 8) (i : Fin 256) : i ∈ segmentPosts g ↔ postSegment i = g := by
  simp only [segmentPosts, List.mem_map, List.mem_finRange, true_and]
  constructor
  · rintro ⟨d, rfl⟩; exact postSegment_postIndex g d
  · rintro rfl; exact ⟨postDrop i, postIndex_postSegment_postDrop i⟩

/-- The frame of a change of the posts of one segment: they, the segment's line sides but for what they send, and the report
list. -/
structure State.TouchesPosts (s u : State) (g : Fin 8) : Prop where
  frame : ∃ ps ls l, u = { s with posts := ps, lines := ls, reports := { s.reports with list := l } }
  posts : ∀ j, postSegment j ≠ g → u.post j = s.post j
  lines : ∀ l, l.segment ≠ g → u.line l = s.line l
  serve : s.LinesServe u
  reports : s.KeepsReports u

theorem State.TouchesPosts.refl (s : State) (g : Fin 8) : s.TouchesPosts s g :=
  ⟨⟨_, _, _, rfl⟩, fun _ _ => rfl, fun _ _ => rfl, .refl s, .refl s⟩

theorem State.TouchesPosts.trans {s t u : State} {g : Fin 8} (h : s.TouchesPosts t g) (k : t.TouchesPosts u g) :
    s.TouchesPosts u g where
  frame := by
    obtain ⟨_, _, _, rfl⟩ := h.frame
    obtain ⟨_, _, _, rfl⟩ := k.frame
    exact ⟨_, _, _, rfl⟩
  posts j hj := (k.posts j hj).trans (h.posts j hj)
  lines l hl := (k.lines l hl).trans (h.lines l hl)
  serve := h.serve.trans k.serve
  reports := h.reports.trans k.reports

theorem State.TouchesPost.touchesPosts {s u : State} {i : Fin 256} {g : Fin 8} (h : s.TouchesPost u i)
    (hl : s.LinesServe u) (hg : postSegment i = g) : s.TouchesPosts u g where
  frame := h.frame
  posts j hj := h.posts j fun e => hj (by rw [e, hg])
  lines l hl := h.lines l (by rw [hg]; exact hl)
  serve := hl
  reports := h.reports

/-! ### A post that changes sides (R41) -/

theorem setSide_touches (i : Fin 256) (side : Side) (s : State) : s.TouchesPost (s.setSide i side) i := by
  simp only [State.setSide]
  split
  · exact .refl s i
  · have herase := touchesPost_updateLine i (s.lineOf i) (fun x => { x with service := x.service.erase (postDrop i) }) s rfl
    have hwritten := herase.trans (touchesPost_setPost i { s.post i with side := side } _)
    split
    · exact hwritten.trans (touchesPost_updateLine i _ _ _ rfl)
    · exact hwritten

theorem setSide_linesServe (i : Fin 256) (side : Side) (s : State) : s.LinesServe (s.setSide i side) := by
  simp only [State.setSide]
  split
  · exact .refl s
  · have herase := updateLine_linesServe (s.lineOf i) (fun x => { x with service := x.service.erase (postDrop i) }) s
      fun x => ⟨_, _, rfl⟩
    have hwritten := herase.trans (setPost_linesServe i { s.post i with side := side } _)
    split
    · exact hwritten.trans (updateLine_linesServe _ _ _ fun x => ⟨_, _, rfl⟩)
    · exact hwritten

/-- A post record written whose check code holds is what is read. -/
theorem setPost_checked (i : Fin 256) {p : Post} (h : p.corrupt = false) (s : State) : (s.setPost i p).post i = p := by
  rw [State.setPost_self, ← h]

theorem setSide_post {i : Fin 256} {s : State} (side : Side) (hc : (s.post i).corrupt = false) :
    (s.setSide i side).post i = { s.post i with side := side } := by
  simp only [State.setSide]
  split
  case isTrue h => rw [← beq_iff_eq.mp h]
  case isFalse =>
    obtain ⟨t, ht⟩ : ∃ t, t = (s.updateLine (s.lineOf i) (fun x => { x with service := x.service.erase (postDrop i) })).setPost
      i { s.post i with side := side } := ⟨_, rfl⟩
    have hp : t.post i = { s.post i with side := side } := by
      rw [ht]; exact setPost_checked i (p := { s.post i with side := side }) hc _
    rw [← ht]
    split
    · exact hp
    · exact hp

theorem takeNear_runs {i : Fin 256} {s : State} (hc : (s.post i).corrupt = false) :
    takeNear i s = .ok () (s.setSide i .near) := by
  simp only [takeNear, Op.bind_apply, readPost_ok s i hc, Op.modify_apply]

/-- Every post is as it was, or has taken side NEAR. -/
def State.TakesNear (s u : State) : Prop := ∀ j, u.post j = s.post j ∨ u.post j = { s.post j with side := .near }

theorem State.TakesNear.trans {s t u : State} (h : s.TakesNear t) (k : t.TakesNear u) : s.TakesNear u := fun j => by
  rcases h j with h | h <;> rcases k j with k | k <;> simp [h, k]

theorem State.TakesNear.corrupt {s u : State} (h : s.TakesNear u) (j : Fin 256) :
    (u.post j).corrupt = (s.post j).corrupt := by
  rcases h j with h | h <;> simp [h]

theorem State.TakesNear.state {s u : State} (h : s.TakesNear u) (j : Fin 256) : (u.post j).state = (s.post j).state := by
  rcases h j with h | h <;> simp [h]

/-- Posts of one segment take side NEAR, one after another. -/
theorem takeNear_forM {g : Fin 8} (l : List (Fin 256)) (hg : ∀ i ∈ l, postSegment i = g) : ∀ s : State,
    (∀ i, (s.post i).corrupt = false) → ∃ u, l.forM takeNear s = .ok ⟨⟩ u ∧ s.TouchesPosts u g ∧ s.TakesNear u := by
  induction l with
  | nil => exact fun s _ => ⟨s, rfl, .refl s g, fun _ => .inl rfl⟩
  | cons i l ih =>
    intro s hc
    have hi := hg i List.mem_cons_self
    have hstep : s.TakesNear (s.setSide i .near) := fun j => by
      by_cases hj : j = i
      · subst hj; exact .inr (setSide_post .near (hc j))
      · exact .inl ((setSide_touches i .near s).posts j hj)
    obtain ⟨u, hu, htouch, hnear⟩ := ih (fun j hj => hg j (List.mem_cons_of_mem _ hj)) (s.setSide i .near)
      fun j => (hstep.corrupt j).trans (hc j)
    refine ⟨u, ?_, ((setSide_touches i .near s).touchesPosts (setSide_linesServe i .near s) hi).trans htouch,
      hstep.trans hnear⟩
    simp only [List.forM_eq_forM, List.forM_cons] at hu ⊢
    exact (Op.bind_ok (takeNear_runs (hc i))).trans hu

theorem handOverFar_runs (g : Fin 8) (s : State) (hc : ∀ i, (s.post i).corrupt = false) :
    ∃ u, handOverFar g s = .ok () u ∧ s.TouchesPosts u g ∧ s.TakesNear u := by
  have hmap : ∀ l : List (Fin 32), (l.forM (fun d => takeNear (postIndex g d)) : Op PUnit)
      = (l.map (postIndex g)).forM takeNear := fun l => by
    simp only [List.forM_eq_forM, List.forM_map]
  obtain ⟨u, hu, htouch, hnear⟩ := takeNear_forM (g := g) ((s.line (farOf g)).service.map (postIndex g))
    (fun i hi => by obtain ⟨d, -, rfl⟩ := List.mem_map.mp hi; exact postSegment_postIndex g d) s hc
  refine ⟨u, ?_, htouch, hnear⟩
  simp only [handOverFar, Op.bind_apply, Op.get_apply, hmap]
  exact hu

/-! ### A post prepared for a sweep (R50) -/

/-- The state that entering SWEEP gives a post. -/
def Post.sweptState (p : Post) : PostState := if p.state = .isolated then .isolated else .unknown

theorem preparePost_runs {i : Fin 256} {s : State} (hc : (s.post i).corrupt = false) :
    ∃ u, preparePost i s = .ok () u ∧ s.TouchesPost u i ∧ s.LinesServe u ∧ (u.post i).side = .near
      ∧ (u.post i).state = (s.post i).sweptState ∧ (u.post i).corrupt = false := by
  obtain ⟨t, ht⟩ : ∃ t, t = s.setSide i .near := ⟨_, rfl⟩
  have htouch := setSide_touches i .near s
  have hserve := setSide_linesServe i .near s
  have hp := setSide_post .near hc
  rw [← ht] at htouch hserve hp
  have hruns : preparePost i s = .ok () (if (t.post i).state == .isolated then t else t.setPost i { t.post i with
      state := .unknown, misses := 0, identity := none, identityMatch := .unread }) := by
    rw [preparePost]
    refine (Op.bind_ok (readPost_ok s i hc)).trans ((Op.modify_apply _ _).trans ?_)
    rw [← ht]
  by_cases hst : (t.post i).state = .isolated
  · rw [if_pos (beq_iff_eq.mpr hst)] at hruns
    have hs : (s.post i).state = .isolated := by rw [← hst, hp]
    exact ⟨t, hruns, htouch, hserve, by rw [hp], by rw [hst, Post.sweptState, if_pos hs], by rw [hp]; exact hc⟩
  · rw [if_neg (by rw [beq_iff_eq]; exact hst)] at hruns
    have hs : ¬ (s.post i).state = .isolated := by rw [hp] at hst; exact hst
    refine ⟨_, hruns, htouch.trans (touchesPost_setPost i _ t), hserve.trans (setPost_linesServe i _ t), ?_, ?_, ?_⟩
    · rw [State.setPost_self, hp]
    · rw [State.setPost_self, Post.sweptState, if_neg hs]
    · rw [State.setPost_self]

/-- Posts of one segment are prepared, one after another. -/
theorem preparePost_forM {g : Fin 8} (l : List (Fin 256)) (hg : ∀ i ∈ l, postSegment i = g) : ∀ s : State,
    (∀ i, (s.post i).corrupt = false) → ∃ u, l.forM preparePost s = .ok ⟨⟩ u ∧ s.TouchesPosts u g
      ∧ (∀ i, (u.post i).corrupt = false)
      ∧ (∀ i ∈ l, (u.post i).side = .near ∧ (u.post i).state = (s.post i).sweptState)
      ∧ ∀ i, i ∉ l → u.post i = s.post i := by
  induction l with
  | nil => exact fun s hc => ⟨s, rfl, .refl s g, hc, by simp, fun _ _ => rfl⟩
  | cons i l ih =>
    intro s hc
    have hi := hg i List.mem_cons_self
    obtain ⟨t, ht, htouch, hserve, hside, hstate, hcode⟩ := preparePost_runs (hc i)
    obtain ⟨u, hu, htouch', hcodes, hmem, hout⟩ := ih (fun j hj => hg j (List.mem_cons_of_mem _ hj)) t fun j => by
      by_cases hj : j = i
      · rw [hj]; exact hcode
      · rw [htouch.posts j hj]; exact hc j
    refine ⟨u, ?_, (htouch.touchesPosts hserve hi).trans htouch', hcodes, fun j hj => ?_, fun j hj => ?_⟩
    · simp only [List.forM_eq_forM, List.forM_cons] at hu ⊢
      exact (Op.bind_ok ht).trans hu
    · have hidem : (t.post i).sweptState = (s.post i).sweptState := by
        unfold Post.sweptState at hstate ⊢
        rw [hstate]
        by_cases h : (s.post i).state = .isolated <;> simp [h]
      by_cases hjl : j ∈ l
      · obtain ⟨hjside, hjstate⟩ := hmem j hjl
        refine ⟨hjside, ?_⟩
        by_cases hji : j = i
        · subst hji; rw [hjstate, hidem]
        · rw [hjstate, htouch.posts j hji]
      · obtain rfl : j = i := (List.mem_cons.mp hj).resolve_right hjl
        rw [hout j hjl]
        exact ⟨hside, hstate⟩
    · rw [hout j fun e => hj (List.mem_cons_of_mem _ e), htouch.posts j fun e => hj (by rw [e]; exact List.mem_cons_self)]

end Sys2Proof.Machine
end

section
/-! SUPPORT. The steps of a segment entering SWEEP put together (R68), and the obligation about CLEAR_SEGMENT and the retry
timer (R72, R87). -/

namespace Sys2Proof.Machine

/-! ### The FAR feed stopped (R68) -/

/-- The frame of a change of one segment: its record, its line sides and ends, its posts and the report list. -/
structure State.TouchesSegment (s u : State) (g : Fin 8) : Prop where
  frame : ∃ segs ls es ps l, u = { s with
    segments := segs, lines := ls, ends := es, posts := ps, reports := { s.reports with list := l } }
  segments : ∀ k, k ≠ g → u.segment k = s.segment k
  posts : ∀ j, postSegment j ≠ g → u.post j = s.post j
  lines : ∀ l, l.segment ≠ g → u.line l = s.line l

theorem State.TouchesSegment.refl (s : State) (g : Fin 8) : s.TouchesSegment s g :=
  ⟨⟨_, _, _, _, _, rfl⟩, fun _ _ => rfl, fun _ _ => rfl, fun _ _ => rfl⟩

theorem State.TouchesSegment.trans {s t u : State} {g : Fin 8} (h : s.TouchesSegment t g) (k : t.TouchesSegment u g) :
    s.TouchesSegment u g where
  frame := by
    obtain ⟨_, _, _, _, _, rfl⟩ := h.frame
    obtain ⟨_, _, _, _, _, rfl⟩ := k.frame
    exact ⟨_, _, _, _, _, rfl⟩
  segments j hj := (k.segments j hj).trans (h.segments j hj)
  posts j hj := (k.posts j hj).trans (h.posts j hj)
  lines l hl := (k.lines l hl).trans (h.lines l hl)

theorem State.TouchesPosts.touchesSegment {s u : State} {g : Fin 8} (h : s.TouchesPosts u g) : s.TouchesSegment u g where
  frame := by
    obtain ⟨_, _, _, rfl⟩ := h.frame
    exact ⟨_, _, _, _, _, rfl⟩
  segments k _ := by
    obtain ⟨_, _, _, rfl⟩ := h.frame
    rfl
  posts := h.posts
  lines := h.lines

theorem touchesSegment_updateLine {g : Fin 8} {k : LineId} (hk : k.segment = g) (f : LineSide → LineSide) (s : State) :
    s.TouchesSegment (s.updateLine k f) g :=
  ⟨⟨_, _, _, _, _, rfl⟩, fun _ _ => rfl, fun _ _ => rfl,
    fun l hl => updateLine_line_ne f s fun e => hl (by rw [e, hk])⟩

theorem touchesSegment_updateEnd (g : Fin 8) (k : LineId) (f : LineEnd → LineEnd) (s : State) :
    s.TouchesSegment (s.updateEnd k f) g :=
  ⟨⟨_, _, _, _, _, rfl⟩, fun _ _ => rfl, fun _ _ => rfl, fun _ _ => rfl⟩

theorem touchesSegment_setSegment (g : Fin 8) (x : Segment) (s : State) : s.TouchesSegment (s.setSegment g x) g := by
  obtain ⟨l, hf⟩ := setSegment_frame g x s
  rw [hf]
  exact ⟨⟨_, _, _, _, _, rfl⟩, fun k hk => by simp [State.segment, hk], fun _ _ => rfl, fun _ _ => rfl⟩

theorem setSegment_segment (g : Fin 8) (x : Segment) (s : State) : (s.setSegment g x).segment g = x := by
  obtain ⟨l, hf⟩ := setSegment_frame g x s
  rw [hf]
  exact put_get_self _ _ _

/-- What stopping the FAR feed leaves of a segment: its record but for the feed, and posts that have taken side NEAR. -/
structure State.StopsFar (s u : State) (g : Fin 8) : Prop where
  touches : s.TouchesSegment u g
  segment : ∃ feed, u.segment g = { s.segment g with farFeed := feed }
  nears : s.TakesNear u

theorem State.StopsFar.refl (s : State) (g : Fin 8) : s.StopsFar s g :=
  ⟨.refl s g, ⟨_, rfl⟩, fun _ => .inl rfl⟩

theorem State.StopsFar.trans {s t u : State} {g : Fin 8} (h : s.StopsFar t g) (k : t.StopsFar u g) : s.StopsFar u g where
  touches := h.touches.trans k.touches
  segment := by
    obtain ⟨_, ht⟩ := h.segment
    obtain ⟨feed, hu⟩ := k.segment
    exact ⟨feed, by rw [hu, ht]⟩
  nears := h.nears.trans k.nears

theorem State.TouchesPosts.stopsFar {s u : State} {g : Fin 8} (h : s.TouchesPosts u g) (hn : s.TakesNear u) :
    s.StopsFar u g :=
  ⟨h.touchesSegment, ⟨(s.segment g).farFeed, by obtain ⟨_, _, _, rfl⟩ := h.frame; rfl⟩, hn⟩

theorem stopsFar_updateLine {g : Fin 8} {k : LineId} (hk : k.segment = g) (f : LineSide → LineSide) (s : State) :
    s.StopsFar (s.updateLine k f) g :=
  ⟨touchesSegment_updateLine hk f s, ⟨_, rfl⟩, fun _ => .inl rfl⟩

theorem farFeedOff_runs (g : Fin 8) (s : State) (hc : ∀ i, (s.post i).corrupt = false) :
    ∃ u, farFeedOff g s = .ok () u ∧ s.StopsFar u g := by
  obtain ⟨t, ht⟩ : ∃ t, t = (s.setSegment g { s.segment g with farFeed := false }).unwatchEnd (farOf g) := ⟨_, rfl⟩
  have hpost (j : Fin 256) : t.post j = s.post j := by
    obtain ⟨l, hf⟩ := setSegment_frame g { s.segment g with farFeed := false } s
    rw [ht, hf]; rfl
  have hst : s.StopsFar t g := by
    refine ⟨?_, ⟨false, ?_⟩, fun j => .inl (hpost j)⟩
    · rw [ht]
      exact (touchesSegment_setSegment g _ s).trans (touchesSegment_updateEnd g (farOf g) _ _)
    · rw [ht]; exact setSegment_segment g _ s
  obtain ⟨v, hv, htouch, hnear⟩ := handOverFar_runs g t fun j => by rw [hpost]; exact hc j
  obtain ⟨u, hu, htouch', hnear'⟩ := takeNear_forM (g := g) (v.farPosts g)
    (fun i hi => (mem_segmentPosts g i).mp (List.mem_filter.mp hi).1) v
    fun j => by rw [hnear.corrupt, hpost]; exact hc j
  refine ⟨u, ?_, hst.trans ((htouch.stopsFar hnear).trans (htouch'.stopsFar hnear'))⟩
  refine (Op.bind_ok (Op.modify_apply _ _)).trans ?_
  rw [← ht]
  exact (Op.bind_ok hv).trans ((Op.bind_ok (Op.get_apply _)).trans hu)

theorem haltingEnds_runs (l : LineId) (s : State) (hc : ∀ i, (s.post i).corrupt = false) :
    ∃ u, haltingEnds l s = .ok () u ∧ s.StopsFar u l.segment := by
  simp only [haltingEnds, Op.bind_apply, Op.get_apply]
  by_cases h : (s.line l).state = .halting ∧ (s.line l).exchange = none
  · rw [if_pos h]
    have hline := stopsFar_updateLine (k := l) rfl LineSide.toOff s
    simp only [Op.bind_apply, Op.modify_apply]
    split
    · obtain ⟨u, hu, hstop⟩ := farFeedOff_runs l.segment (s.updateLine l LineSide.toOff) hc
      exact ⟨u, hu, hline.trans hstop⟩
    · exact ⟨_, rfl, hline⟩
  · rw [if_neg h]
    exact ⟨s, rfl, .refl s _⟩

theorem stopFarFeed_runs (g : Fin 8) (s : State) (hc : ∀ i, (s.post i).corrupt = false) :
    ∃ u, stopFarFeed g s = .ok () u ∧ s.StopsFar u g := by
  simp only [stopFarFeed, Op.bind_apply, Op.get_apply]
  split
  · split
    · exact farFeedOff_runs g s hc
    · have hline := stopsFar_updateLine (k := farOf g) (g := g) rfl (fun x => x.toHalting false) s
      obtain ⟨u, hu, hstop⟩ := haltingEnds_runs (farOf g) (s.updateLine (farOf g) (fun x => x.toHalting false)) hc
      refine ⟨u, ?_, hline.trans hstop⟩
      simp only [Op.bind_apply, Op.modify_apply]
      exact hu
  · exact ⟨s, rfl, .refl s g⟩

/-! ### The NEAR sweep started (R42) -/

theorem nearSweepList_congr {s u : State} (hd : u.directory = s.directory) (ha : u.path.anchor = s.path.anchor)
    (g : Fin 8) : u.nearSweepList g = s.nearSweepList g := by
  simp only [State.nearSweepList, State.configured, State.entryInUse, State.entry, hd, ha]

/-- What the start of the NEAR sweep leaves: SWEEPING with its list, or ACTIVE at once where the list is empty and no exchange
runs on. -/
structure State.StartsSweep (s u : State) (g : Fin 8) : Prop where
  frame : ∃ segs ls l d, u = { s with
    segments := segs, lines := ls, reports := { s.reports with list := l }, dispatchDue := d }
  segments : ∀ k, k ≠ g → u.segment k = s.segment k
  lines : ∀ l, l.segment ≠ g → u.line l = s.line l
  either : u.segment g = s.segment g ∨ (u.segment g).state = .active
  listed : s.nearSweepList g ≠ [] → u.segment g = s.segment g ∧ (u.line (nearOf g)).state = .sweeping
    ∧ (u.line (nearOf g)).sweepList = s.nearSweepList g
  unlisted : s.nearSweepList g = [] → (s.line (nearOf g)).exchange = none → (u.segment g).state = .active

/-- The NEAR side as its sweep starts (R42). -/
def State.sweepBegun (s : State) (g : Fin 8) : State :=
  s.updateLine (nearOf g) (fun x => { x with
    state := .sweeping, sweepList := s.nearSweepList g, afterSweep := false, discard := false, answered := []
    exchange := if x.state == .sweeping then none else x.exchange
    errors := if x.state == .off then 0 else x.errors })

theorem sweepBegun_line (s : State) (g : Fin 8) : (s.sweepBegun g).line (nearOf g) = { s.line (nearOf g) with
    state := .sweeping, sweepList := s.nearSweepList g, afterSweep := false, discard := false, answered := []
    exchange := if (s.line (nearOf g)).state == .sweeping then none else (s.line (nearOf g)).exchange
    errors := if (s.line (nearOf g)).state == .off then 0 else (s.line (nearOf g)).errors } := by
  rw [State.sweepBegun, updateLine_line, if_pos rfl]

theorem startNearSweep_runs (g : Fin 8) (s : State) : ∃ u, startNearSweep g s = .ok () u ∧ s.StartsSweep u g := by
  obtain ⟨t, ht⟩ : ∃ t, t = s.sweepBegun g := ⟨_, rfl⟩
  have hline := sweepBegun_line s g
  have hother (l : LineId) (hl : l.segment ≠ g) : t.line l = s.line l := by
    rw [ht, State.sweepBegun]
    exact updateLine_line_ne _ s fun e => hl (by rw [e]; rfl)
  rw [← ht] at hline
  have hlist : (t.line (nearOf g)).sweepList = s.nearSweepList g := by rw [hline]
  have hstate : (t.line (nearOf g)).state = .sweeping := by rw [hline]
  have htf : ∃ ls, t = { s with lines := ls } := ⟨_, by rw [ht]; rfl⟩
  obtain ⟨ls, htf⟩ := htf
  have hstart : startNearSweep g s = sweepEnds (nearOf g) t := by
    rw [ht]
    exact Op.bind_ok (Op.modify_apply _ _)
  rw [hstart, sweepEnds]
  by_cases hends : (t.line (nearOf g)).state = .sweeping ∧ (t.line (nearOf g)).sweepList = []
      ∧ (t.line (nearOf g)).exchange = none
  · obtain ⟨v, hv⟩ : ∃ v, v = t.updateLine (nearOf g) (fun x => { x with state := .serving, afterSweep := false }) := ⟨_, rfl⟩
    have hvf : ∃ ls, v = { s with lines := ls } := ⟨_, by rw [hv, htf]; rfl⟩
    obtain ⟨ls', hvf⟩ := hvf
    have hvother (l : LineId) (hl : l.segment ≠ g) : v.line l = s.line l := by
      rw [hv, updateLine_line_ne _ _ fun e => hl (by rw [e]; rfl)]
      exact hother l hl
    obtain ⟨x, hx⟩ : ∃ x : Segment, x = { t.segment g with
        state := .active
        stableTimer := if (t.segment g).retryCount > 0 then some (v.after v.stableTicks) else none } := ⟨_, rfl⟩
    obtain ⟨l, hf⟩ := setSegment_frame g x v
    have hxs : ((v.setSegment g x).segment g).state = .active := by rw [setSegment_segment, hx]
    refine ⟨(v.setSegment g x).wantDispatch, ?_, ⟨_, _, _, true, by rw [hf, hvf]; rfl⟩, fun k hk => ?_, fun k hk => ?_,
      .inr hxs, fun hne => absurd (hlist ▸ hends.2.1) hne, fun _ _ => hxs⟩
    · refine (Op.bind_ok (Op.get_apply _)).trans ?_
      rw [if_pos hends]
      refine (Op.bind_ok (Op.modify_apply _ _)).trans ?_
      rw [← hv, hx]
      rfl
    · rw [hf, hvf]; simp [State.segment, State.wantDispatch, hk]
    · rw [hf]; exact hvother k hk
  · refine ⟨t, ?_, ⟨_, _, _, _, by rw [htf]⟩, fun k _ => by rw [htf]; rfl, hother, .inl (by rw [htf]; rfl),
      fun _ => ⟨by rw [htf]; rfl, hstate, hlist⟩, fun hnil hexchange => ?_⟩
    · refine (Op.bind_ok (Op.get_apply _)).trans ?_
      rw [if_neg hends]
      rfl
    · have hnone : (t.line (nearOf g)).exchange = none := by rw [hline]; simp only [hexchange, ite_self]
      exact absurd ⟨hstate, hlist.trans hnil, hnone⟩ hends

/-! ### A segment entering SWEEP (R68) -/

/-- The record of a segment that enters SWEEP. -/
def Segment.swept (x : Segment) : Segment := { x with state := .sweep, retryTimer := none, stableTimer := none, broken := none }

/-- What a segment entering SWEEP leaves of itself: its posts prepared, and its record and NEAR side by the list that the
sweep begins with (R42, R50, R68). -/
structure State.EntersSweep (s u : State) (g : Fin 8) : Prop where
  frame : ∃ segs ls es ps l d, u = { s with
    segments := segs, lines := ls, ends := es, posts := ps, reports := { s.reports with list := l }, dispatchDue := d }
  segments : ∀ k, k ≠ g → u.segment k = s.segment k
  posts : ∀ j, postSegment j ≠ g → u.post j = s.post j
  lines : ∀ l, l.segment ≠ g → u.line l = s.line l
  checked : ∀ i, (u.post i).corrupt = false
  prepared : ∀ i, postSegment i = g → (u.post i).side = .near ∧ (u.post i).state = (s.post i).sweptState
  either : (u.segment g).state = .sweep ∨ (u.segment g).state = .active
  listed : (s.segment g).farFeed = false → s.nearSweepList g ≠ [] → u.segment g = (s.segment g).swept
    ∧ (u.line (nearOf g)).state = .sweeping ∧ (u.line (nearOf g)).sweepList = s.nearSweepList g
  unlisted : (s.segment g).farFeed = false → s.nearSweepList g = [] → (s.line (nearOf g)).exchange = none →
    (u.segment g).state = .active

/-- The state as a segment's record enters SWEEP and its probes are withdrawn. -/
def State.sweepEntered (s : State) (g : Fin 8) : State := (s.setSegment g (s.segment g).swept).withdrawProbes g

theorem withdrawProbes_frame (g : Fin 8) (s : State) : ∃ ls, s.withdrawProbes g = { s with lines := ls } := ⟨_, rfl⟩

theorem withdrawProbes_exchange {g : Fin 8} {s : State} (h : (s.line (nearOf g)).exchange = none) :
    ((s.withdrawProbes g).line (nearOf g)).exchange = none := by
  have hne : nearOf g ≠ farOf g := fun e => Side.noConfusion (congrArg LineId.side e)
  simp only [State.withdrawProbes]
  rw [updateLine_line_ne _ _ hne, updateLine_line, if_pos rfl, h]
  rfl

theorem withdrawProbes_touches (g : Fin 8) (s : State) : s.TouchesSegment (s.withdrawProbes g) g := by
  simp only [State.withdrawProbes]
  exact (touchesSegment_updateLine (g := g) (k := nearOf g) rfl _ s).trans
    (touchesSegment_updateLine (g := g) (k := farOf g) rfl _ _)

theorem sweepEntered_touches (s : State) (g : Fin 8) : s.TouchesSegment (s.sweepEntered g) g :=
  (touchesSegment_setSegment g _ s).trans (withdrawProbes_touches g _)

theorem sweepEntered_segment (s : State) (g : Fin 8) : (s.sweepEntered g).segment g = (s.segment g).swept := by
  obtain ⟨ls, hf⟩ := withdrawProbes_frame g (s.setSegment g (s.segment g).swept)
  rw [State.sweepEntered, hf]
  exact setSegment_segment g _ s

theorem sweepEntered_post (s : State) (g : Fin 8) (j : Fin 256) : (s.sweepEntered g).post j = s.post j := by
  obtain ⟨ls, hf⟩ := withdrawProbes_frame g (s.setSegment g (s.segment g).swept)
  obtain ⟨l, hs⟩ := setSegment_frame g (s.segment g).swept s
  rw [State.sweepEntered, hf, hs]
  rfl

theorem sweepEntered_exchange {s : State} {g : Fin 8} (h : (s.line (nearOf g)).exchange = none) :
    ((s.sweepEntered g).line (nearOf g)).exchange = none := by
  obtain ⟨l, hs⟩ := setSegment_frame g (s.segment g).swept s
  exact withdrawProbes_exchange (by rw [hs]; exact h)

theorem refeedNear_frame (g : Fin 8) (s : State) : ∃ es, s.refeedNear g = { s with ends := es } := ⟨_, rfl⟩

theorem enterSweep_runs (g : Fin 8) (s : State) (hc : ∀ i, (s.post i).corrupt = false) :
    ∃ u, enterSweep g s = .ok () u ∧ s.EntersSweep u g := by
  obtain ⟨a, ha⟩ : ∃ a, a = s.sweepEntered g := ⟨_, rfl⟩
  have hsa := sweepEntered_touches s g
  have hag := sweepEntered_segment s g
  have hap := sweepEntered_post s g
  have hax := fun h => sweepEntered_exchange (s := s) (g := g) h
  rw [← ha] at hsa hag hap hax
  obtain ⟨b, hb, hstop⟩ := stopFarFeed_runs g a fun i => by rw [hap]; exact hc i
  have hbp (j : Fin 256) : (b.post j).corrupt = false ∧ (b.post j).state = (s.post j).state := by
    rw [hstop.nears.corrupt, hstop.nears.state, hap]; exact ⟨hc j, rfl⟩
  have hfeed (hf : (s.segment g).farFeed = false) : b = a := by
    have hoff := stopFarFeed_off g a (by rw [hag]; exact hf)
    exact ((EStateM.Result.ok.inj (hb.symm.trans hoff)).2)
  obtain ⟨c, hc', htouch, hnear⟩ := handOverFar_runs g b fun i => (hbp i).1
  obtain ⟨es, hd⟩ := refeedNear_frame g c
  obtain ⟨d, hdd⟩ : ∃ d, d = c.refeedNear g := ⟨_, rfl⟩
  rw [← hdd] at hd
  have hdp (j : Fin 256) : d.post j = c.post j := by rw [hd]; rfl
  obtain ⟨e, he, htouch', hcodes, hmem, hout⟩ := preparePost_forM (g := g) (segmentPosts g)
    (fun i hi => (mem_segmentPosts g i).mp hi) d
    fun i => by rw [hdp, hnear.corrupt]; exact (hbp i).1
  obtain ⟨u, hu, hsweep⟩ := startNearSweep_runs g e
  have hcd : c.TouchesSegment d g := by
    rw [hd]; exact ⟨⟨_, _, _, _, _, rfl⟩, fun _ _ => rfl, fun _ _ => rfl, fun _ _ => rfl⟩
  have hse : s.TouchesSegment e g :=
    (((hsa.trans hstop.touches).trans htouch.touchesSegment).trans hcd).trans htouch'.touchesSegment
  obtain ⟨segs, ls, ends, ps, l, hef⟩ := hse.frame
  obtain ⟨segs', ls', l', due, huf⟩ := hsweep.frame
  have hlist : e.nearSweepList g = s.nearSweepList g := nearSweepList_congr (by rw [hef]) (by rw [hef]) g
  have hbe : e.segment g = b.segment g := by
    obtain ⟨_, _, _, hcf⟩ := htouch.frame
    obtain ⟨_, _, _, hef'⟩ := htouch'.frame
    rw [hef', hd, hcf]; rfl
  have heg (hf : (s.segment g).farFeed = false) : e.segment g = (s.segment g).swept := by
    rw [hbe, hfeed hf, hag]
  obtain ⟨feed, hbg⟩ := hstop.segment
  have hestate : (e.segment g).state = .sweep := by rw [hbe, hbg, hag]; rfl
  have hup (j : Fin 256) : u.post j = e.post j := by rw [huf]; rfl
  refine ⟨u, ?runs, ⟨_, _, _, _, _, _, by rw [huf, hef]⟩, fun k hk => (hsweep.segments k hk).trans (hse.segments k hk),
    fun j hj => (hup j).trans (hse.posts j hj), fun k hk => (hsweep.lines k hk).trans (hse.lines k hk),
    fun i => by rw [hup]; exact hcodes i, fun i hi => ?prepared, ?either, fun hf hne => ?listed, fun hf hnil hx => ?unlisted⟩
  case runs =>
    rw [enterSweep]
    refine (Op.bind_ok (Op.modify_apply _ _)).trans ?_
    rw [show State.withdrawProbes g (State.setSegment g { s.segment g with
      state := .sweep, retryTimer := none, stableTimer := none, broken := none } s) = a from ha.symm]
    refine (Op.bind_ok hb).trans ((Op.bind_ok hc').trans ((Op.bind_ok (Op.modify_apply _ _)).trans ?_))
    rw [← hdd]
    exact (Op.bind_ok he).trans hu
  case prepared =>
    obtain ⟨hside, hstate⟩ := hmem i ((mem_segmentPosts g i).mpr hi)
    rw [hup]
    refine ⟨hside, hstate.trans ?_⟩
    rw [Post.sweptState, hdp, hnear.state, (hbp i).2, Post.sweptState]
  case either =>
    rcases hsweep.either with h | h
    · exact .inl (by rw [h, hestate])
    · exact .inr h
  case listed =>
    obtain ⟨hug, hline, hul⟩ := hsweep.listed (by rw [hlist]; exact hne)
    exact ⟨hug.trans (heg hf), hline, hul.trans hlist⟩
  case unlisted =>
    have hax' := hax hx
    rw [← hfeed hf] at hax'
    obtain ⟨_, _, hcl⟩ := htouch.serve (nearOf g)
    obtain ⟨_, _, hel⟩ := htouch'.serve (nearOf g)
    have hdl : d.line (nearOf g) = c.line (nearOf g) := by rw [hd]; rfl
    exact hsweep.unlisted (by rw [hlist]; exact hnil) (by rw [hel, hdl, hcl]; exact hax')

/-! ### CLEAR_SEGMENT and the retry timer (R72, R87) -/

theorem State.EntersSweep.swept {s t u : State} {g : Fin 8} {retries : Nat} (h : t.EntersSweep u g)
    (ht : ∃ x res, t = { s with segments := put s.segments g x, commandResult := res } ∧ x.retryCount = retries
      ∧ x.farFeed = false) (hne : s.nearSweepList g ≠ []) : s.Swept u g retries := by
  obtain ⟨x, res, rfl, hretries, hfeed⟩ := ht
  have hx : State.segment { s with segments := put s.segments g x, commandResult := res } g = x := put_get_self _ _ _
  obtain ⟨segs, ls, es, ps, l, d, huf⟩ := h.frame
  obtain ⟨hug, hline, hlist⟩ := h.listed (by rw [hx]; exact hfeed) hne
  refine ⟨?_, hline, hlist, fun d => h.prepared (postIndex g d) (postSegment_postIndex g d), h.posts, fun k hk => ?_, ?_⟩
  · rw [hug, hx, Segment.swept, hretries, hfeed]
  · rw [h.segments k hk]; simp [State.segment, hk]
  · rw [huf]

/-- Settles O34: a held segment enters SWEEP, with its retry count kept where its own timer asks for it. -/
theorem clearedOrRetriedSegmentEntersSweep : Obligations.ClearedOrRetriedSegmentEntersSweep := by
  intro s w g h hw
  refine ⟨fun hrun hlatched hinhibited => next_command hrun hw ?refused, fun hrun hst hfeed hne => ?cleared,
    fun hst hdue => ⟨fun hrun hfeed hne => ?retried, fun hrun => next_event (op := retryExpires g) ?discarded⟩⟩
  case refused =>
    have hno : ¬ ((s.segment g).state = .latched ∨ (s.segment g).state = .inhibited) := not_or.mpr ⟨hlatched, hinhibited⟩
    exact (Op.bind_ok (Op.get_apply _)).trans ((congrFun (if_neg hno) _).trans (answer_apply _ _))
  case cleared =>
    obtain ⟨t, ht⟩ : ∃ t : State, t = { s with
      segments := put s.segments g { s.segment g with retryTimer := none, retryCount := 0 }
      commandResult := some .done } := ⟨_, rfl⟩
    obtain ⟨u, hu, hsweeps⟩ := enterSweep_runs g t (by rw [ht]; exact h.posts)
    obtain ⟨_, _, _, _, _, _, huf⟩ := hsweeps.frame
    have hruns : clearSegment g { s with commandResult := some .notRunning } = .ok () u := by
      refine (Op.bind_ok (Op.get_apply _)).trans ((congrFun (if_pos hst) _).trans ?_)
      refine (Op.bind_ok (answer_apply _ _)).trans ((Op.bind_ok (Op.modify_apply _ _)).trans ?_)
      rw [← hu, ht]
      rfl
    exact ⟨u, next_command hrun hw hruns, by rw [huf, ht], hsweeps.swept ⟨_, _, ht, rfl, hfeed⟩ hne⟩
  case retried =>
    obtain ⟨u, hu, hsweeps⟩ := enterSweep_runs g s h.posts
    obtain ⟨_, _, _, _, _, _, huf⟩ := hsweeps.frame
    have hruns : retryExpires g s = .ok () u := by
      refine (Op.bind_ok (Op.get_apply _)).trans ((congrFun (if_pos ⟨hst, hdue⟩) _).trans ?_)
      rw [if_pos hrun, hu]
    have hsame : s = { s with segments := put s.segments g (s.segment g), commandResult := s.commandResult } := by
      rw [State.segment, put_same]
    exact ⟨u, next_event (op := retryExpires g) hruns, by rw [huf],
      hsweeps.swept ⟨_, _, hsame, rfl, hfeed⟩ hne⟩
  case discarded =>
    have hno : ¬ s.inRun = true := by simp [hrun]
    refine (Op.bind_ok (Op.get_apply _)).trans ((congrFun (if_pos ⟨hst, hdue⟩) _).trans ?_)
    rw [if_neg hno]
    rfl

end Sys2Proof.Machine
end

section
/-! SUPPORT. A segment leaving service (R73): its feeds, its posts, and the posts whose loss leaves their calls as they are
(R75, R76). -/

namespace Sys2Proof.Machine

/-! ### A post made UNREACHABLE (R41, R73) -/

/-- A post that can be lost: it is neither ISOLATED nor UNREACHABLE. -/
def Post.reachable (p : Post) : Bool := p.state != .isolated && p.state != .unreachable

theorem lost_of_unreachable {p : Post} (h : p.reachable = false) : p.lost = p := by
  rw [Post.lost, if_pos]
  cases hst : p.state <;> simp_all [Post.reachable]

theorem lost_of_reachable {p : Post} (h : p.reachable = true) : p.lost = { p with
    state := .unreachable, commands := [], testCancelled := p.testCancelled || p.commands.any PendingCommand.isTest } := by
  rw [Post.lost, if_neg]
  cases hst : p.state <;> simp_all [Post.reachable]

theorem lost_corrupt (p : Post) : p.lost.corrupt = p.corrupt := by
  unfold Post.lost
  split <;> rfl

theorem lost_liveCall (p : Post) : p.lost.liveCall = p.liveCall := by
  unfold Post.lost
  split <;> rfl

theorem lost_deferred (p : Post) : p.lost.deferred = p.deferred := by
  unfold Post.lost
  split <;> rfl

theorem emptyCommands_touches (i : Fin 256) (b : Bool) (s : State) : s.TouchesPost (s.emptyCommands i b) i := by
  simp only [State.emptyCommands]
  split
  · exact .refl s i
  · exact (touchesPost_loseTest i _ s).trans (touchesPost_setCommands i _ _)

theorem emptyCommands_linesServe (i : Fin 256) (b : Bool) (s : State) : s.LinesServe (s.emptyCommands i b) := by
  simp only [State.emptyCommands]
  split
  · exact .refl s
  · exact (loseTest_linesServe i _ s).trans (setCommands_linesServe i _ _)

theorem commands_nil_eq {p : Post} (h : p.commands = []) :
    p = { p with commands := [], testCancelled := p.testCancelled || p.commands.any PendingCommand.isTest } := by
  cases p
  simp_all

theorem emptyCommands_post {i : Fin 256} {s : State} (hc : (s.post i).corrupt = false) :
    (s.emptyCommands i true).post i = { s.post i with
      commands := [], testCancelled := (s.post i).testCancelled || (s.post i).commands.any PendingCommand.isTest } := by
  simp only [State.emptyCommands]
  split
  case isTrue h =>
    exact commands_nil_eq (List.isEmpty_iff.mp h)
  case isFalse => simp [hc]

theorem makeUnreachable_touches (i : Fin 256) (s : State) : s.TouchesPost (s.makeUnreachable i) i := by
  simp only [State.makeUnreachable]
  split
  case h_1 | h_2 | h_3 => exact (touchesPost_setPost i _ s).trans (emptyCommands_touches i true _)
  case h_4 | h_5 => exact .refl s i

theorem makeUnreachable_linesServe (i : Fin 256) (s : State) : s.LinesServe (s.makeUnreachable i) := by
  simp only [State.makeUnreachable]
  split
  case h_1 | h_2 | h_3 => exact (setPost_linesServe i _ s).trans (emptyCommands_linesServe i true _)
  case h_4 | h_5 => exact .refl s

theorem makeUnreachable_post {i : Fin 256} {s : State} (hc : (s.post i).corrupt = false) :
    (s.makeUnreachable i).post i = (s.post i).lost := by
  have hset := setPost_checked i (p := { s.post i with state := .unreachable }) hc s
  cases hr : (s.post i).reachable with
  | true =>
    have hmake : s.makeUnreachable i = (s.setPost i { s.post i with state := .unreachable }).emptyCommands i true := by
      simp only [State.makeUnreachable]
      cases hst : (s.post i).state <;> simp_all [Post.reachable]
    rw [hmake, emptyCommands_post (by rw [hset]; exact hc), hset, lost_of_reachable hr]
  | false =>
    have hmake : s.makeUnreachable i = s := by
      simp only [State.makeUnreachable]
      cases hst : (s.post i).state <;> simp_all [Post.reachable]
    rw [hmake, lost_of_unreachable hr]

theorem unreachablePost_runs (l : List (Fin 256)) {i : Fin 256} {s : State} (hc : (s.post i).corrupt = false) :
    unreachablePost l i s = .ok (if (s.post i).reachable = true then l ++ [i] else l) (s.makeUnreachable i) := by
  rw [unreachablePost]
  refine (Op.bind_ok (readPost_ok s i hc)).trans ?_
  cases hst : (s.post i).state <;> simp [Post.reachable, hst, State.makeUnreachable]

/-- The posts of a list are made UNREACHABLE one after another, and those that were reachable are listed. -/
theorem unreachablePost_foldlM {g : Fin 8} (l : List (Fin 256)) (hg : ∀ i ∈ l, postSegment i = g) (hnodup : l.Nodup) :
    ∀ (s : State) (done : List (Fin 256)), (∀ i, (s.post i).corrupt = false) →
    ∃ u, l.foldlM unreachablePost done s = .ok (done ++ l.filter (fun i => (s.post i).reachable)) u ∧ s.TouchesPosts u g
      ∧ (∀ i ∈ l, u.post i = (s.post i).lost) ∧ ∀ i, i ∉ l → u.post i = s.post i := by
  induction l with
  | nil => exact fun s done _ => ⟨s, by simp, .refl s g, by simp, fun _ _ => rfl⟩
  | cons i l ih =>
    intro s done hc
    obtain ⟨hi, hl⟩ := List.nodup_cons.mp hnodup
    have htouch := makeUnreachable_touches i s
    have hpost := makeUnreachable_post (hc i)
    obtain ⟨u, hu, htouch', hmem, hout⟩ := ih (fun j hj => hg j (List.mem_cons_of_mem _ hj)) hl (s.makeUnreachable i)
      (if (s.post i).reachable = true then done ++ [i] else done) fun j => by
        by_cases hj : j = i
        · rw [hj, hpost, lost_corrupt]; exact hc i
        · rw [htouch.posts j hj]; exact hc j
    refine ⟨u, ?_, (htouch.touchesPosts (makeUnreachable_linesServe i s) (hg i List.mem_cons_self)).trans htouch',
      fun j hj => ?_, fun j hj => ?_⟩
    · have hfilter : l.filter (fun j => ((s.makeUnreachable i).post j).reachable)
          = l.filter (fun j => (s.post j).reachable) :=
        List.filter_congr fun j hj => by rw [htouch.posts j fun e => hi (e ▸ hj)]
      rw [hfilter] at hu
      rw [List.foldlM_cons]
      refine (Op.bind_ok (unreachablePost_runs done (hc i))).trans (hu.trans ?_)
      cases hr : (s.post i).reachable <;> simp [hr]
    · rcases List.mem_cons.mp hj with rfl | hjl
      · rw [hout j hi, hpost]
      · rw [hmem j hjl, htouch.posts j fun e => hi (e ▸ hjl)]
    · rw [hout j fun e => hj (List.mem_cons_of_mem _ e), htouch.posts j fun e => hj (by rw [e]; exact List.mem_cons_self)]

/-! ### Both feeds off (R73 steps 1 and 2) -/

/-- The record of a segment whose feeds are off. -/
def Segment.feedless (x : Segment) : Segment := { x with stableTimer := none, farFeed := false, broken := none }

theorem unwatchEnd_segmentEnd (k l : LineId) (s : State) : (s.unwatchEnd k).segmentEnd l =
    if l = k then { s.segmentEnd k with state := .clear, deglitch := none } else s.segmentEnd l := by
  rw [State.unwatchEnd]
  by_cases h : l = k
  · rw [h, if_pos rfl, updateEnd_segmentEnd, if_pos rfl]
  · rw [if_neg h, updateEnd_segmentEnd_ne s _ h]

/-- What both feeds going off leave of a segment: its record, its sides OFF and its ends CLEAR. -/
structure State.TurnsOff (s t : State) (g : Fin 8) (x : Segment) : Prop where
  frame : ∃ segs ls es l, t = { s with
    segments := segs, lines := ls, ends := es, reports := { s.reports with list := l } }
  segment : t.segment g = x.feedless
  segments : ∀ k, k ≠ g → t.segment k = s.segment k
  near : (t.line (nearOf g)).state = .off
  far : (t.line (farOf g)).state = .off
  ends : ∀ e, t.segmentEnd ⟨g, e⟩ = { s.segmentEnd ⟨g, e⟩ with state := .clear, deglitch := none }
  others : ∀ l, l.segment ≠ g → t.line l = s.line l ∧ t.segmentEnd l = s.segmentEnd l

theorem nearOf_ne_farOf (g : Fin 8) : nearOf g ≠ farOf g := fun e => Side.noConfusion (congrArg LineId.side e)

theorem feedsOff_turnsOff (g : Fin 8) (x : Segment) (s : State) : s.TurnsOff (s.feedsOff g x) g x := by
  obtain ⟨l, hset⟩ := setSegment_frame g x.feedless s
  obtain ⟨t, ht⟩ : ∃ t, t = s.setSegment g x.feedless := ⟨_, rfl⟩
  have htg : t.segment g = x.feedless := by rw [ht]; exact setSegment_segment g _ s
  rw [← ht] at hset
  have hoff : s.feedsOff g x = (((t.updateLine (nearOf g) LineSide.toOff).updateLine (farOf g) LineSide.toOff).unwatchEnd
      (nearOf g)).unwatchEnd (farOf g) := by rw [ht]; rfl
  obtain ⟨v, hv⟩ : ∃ v, v = (t.updateLine (nearOf g) LineSide.toOff).updateLine (farOf g) LineSide.toOff := ⟨_, rfl⟩
  have hvends (k : LineId) : v.segmentEnd k = s.segmentEnd k := by rw [hv, hset]; rfl
  have hvlines (k : LineId) (hk : k.segment ≠ g) : v.line k = s.line k := by
    rw [hv, updateLine_line_ne _ _ fun e => hk (by rw [e]; rfl), updateLine_line_ne _ _ fun e => hk (by rw [e]; rfl), hset]
    rfl
  rw [hoff, ← hv]
  constructor
  case frame => rw [hv, hset]; exact ⟨_, _, _, _, rfl⟩
  case segment => rw [hv]; exact htg
  case segments => intro k hk; rw [hv, hset]; simp [State.segment, State.unwatchEnd, State.updateEnd, State.updateLine, hk]
  case near =>
    have hline : v.line (nearOf g) = (t.line (nearOf g)).toOff := by
      rw [hv, updateLine_line_ne _ _ (nearOf_ne_farOf g), updateLine_line, if_pos rfl]
    exact (congrArg LineSide.state hline).trans rfl
  case far =>
    have hline : v.line (farOf g) = ((t.updateLine (nearOf g) LineSide.toOff).line (farOf g)).toOff := by
      rw [hv, updateLine_line, if_pos rfl]
    exact (congrArg LineSide.state hline).trans rfl
  case ends =>
    intro e
    rw [unwatchEnd_segmentEnd, unwatchEnd_segmentEnd, unwatchEnd_segmentEnd]
    cases e
    case near =>
      rw [if_neg (show (⟨g, .near⟩ : LineId) ≠ farOf g from nearOf_ne_farOf g), if_pos (show (⟨g, .near⟩ : LineId) = nearOf g from rfl),
        hvends]
      rfl
    case far =>
      rw [if_pos (show (⟨g, .far⟩ : LineId) = farOf g from rfl), if_neg (nearOf_ne_farOf g).symm, hvends]
      rfl
  case others =>
    intro k hk
    refine ⟨hvlines k hk, ?_⟩
    have hnear : k ≠ nearOf g := fun e => hk (by rw [e]; rfl)
    have hfar : k ≠ farOf g := fun e => hk (by rw [e]; rfl)
    rw [unwatchEnd_segmentEnd, if_neg hfar, unwatchEnd_segmentEnd, if_neg hnear, hvends]

end Sys2Proof.Machine
end

section
/-! SUPPORT. A segment out of service whose posts keep their calls (R73, R75, R76), and the obligation about the line monitor
and the segment fault it raises (R46, R69 to R71). -/

namespace Sys2Proof.Machine

/-! ### Leaving service, but for the calls of the posts (R73) -/

theorem segmentPosts_nodup (g : Fin 8) : (segmentPosts g).Nodup := by
  refine List.Nodup.map (fun a b h => ?_) (List.nodup_finRange 32)
  have := congrArg postDrop h
  rwa [postDrop_postIndex, postDrop_postIndex] at this

/-- The posts of a segment that leaving service takes out of reach, in rising drop order. -/
def State.lostPosts (s : State) (g : Fin 8) : List (Fin 256) := (segmentPosts g).filter (fun i => (s.post i).reachable)

/-- What a segment leaving service leaves before the calls of its posts are seen to. -/
structure State.TakesOut (s t : State) (g : Fin 8) (x : Segment) : Prop where
  frame : ∃ segs ls es ps l, t = { s with
    segments := segs, lines := ls, ends := es, posts := ps, reports := { s.reports with list := l } }
  segment : t.segment g = x.feedless
  segments : ∀ k, k ≠ g → t.segment k = s.segment k
  near : (t.line (nearOf g)).state = .off
  far : (t.line (farOf g)).state = .off
  ends : ∀ e, t.segmentEnd ⟨g, e⟩ = { s.segmentEnd ⟨g, e⟩ with state := .clear, deglitch := none }
  others : ∀ l, l.segment ≠ g → t.line l = s.line l ∧ t.segmentEnd l = s.segmentEnd l
  posts : ∀ i, postSegment i = g → t.post i = (s.post i).lost
  otherPosts : ∀ i, postSegment i ≠ g → t.post i = s.post i

theorem leaveService_splits (g : Fin 8) (x : Segment) (s : State) (hc : ∀ i, (s.post i).corrupt = false) :
    ∃ t, leaveService g x s = (s.lostPosts g).forM lostPost t ∧ s.TakesOut t g x := by
  obtain ⟨a, ha⟩ : ∃ a, a = s.feedsOff g x := ⟨_, rfl⟩
  have hoff := feedsOff_turnsOff g x s
  rw [← ha] at hoff
  obtain ⟨segs, ls, es, l, haf⟩ := hoff.frame
  have hap (i : Fin 256) : a.post i = s.post i := by rw [haf]; rfl
  obtain ⟨t, ht, htouch, hmem, hout⟩ := unreachablePost_foldlM (g := g) (segmentPosts g)
    (fun i hi => (mem_segmentPosts g i).mp hi) (segmentPosts_nodup g) a [] fun i => by rw [hap]; exact hc i
  obtain ⟨ps, ls', l', htf⟩ := htouch.frame
  have hlost : (segmentPosts g).filter (fun i => (a.post i).reachable) = s.lostPosts g :=
    List.filter_congr fun i _ => by rw [hap]
  rw [List.nil_append, hlost] at ht
  have hends (k : LineId) : t.segmentEnd k = a.segmentEnd k := by rw [htf]; rfl
  have hserve (k : LineId) : (t.line k).state = (a.line k).state := by
    obtain ⟨_, _, hk⟩ := htouch.serve k
    rw [hk]
  refine ⟨t, ?_, ⟨_, _, _, _, _, by rw [htf, haf]⟩, ?_, fun k hk => ?_, (hserve _).trans hoff.near,
    (hserve _).trans hoff.far, fun e => (hends _).trans (hoff.ends e), fun k hk => ?_, fun i hi => ?_, fun i hi => ?_⟩
  · refine (Op.bind_ok (Op.modify_apply _ _)).trans ?_
    rw [← ha]
    exact Op.bind_ok ht
  · rw [htf]; exact hoff.segment
  · rw [htf]; exact hoff.segments k hk
  · exact ⟨(htouch.lines k hk).trans (hoff.others k hk).1, (hends k).trans (hoff.others k hk).2⟩
  · rw [hmem i ((mem_segmentPosts g i).mpr hi), hap]
  · rw [htouch.posts i hi, hap]

/-- The clauses of the statement of a segment out of service, from what leaving service leaves and what later changes keep. -/
theorem State.TakesOut.outOfService {s t u : State} {g : Fin 8} {x y : Segment} (h : s.TakesOut t g x) (hy : x.feedless = y)
    (hsegments : u.segments = t.segments) (hlines : t.LinesServe u) (hends : u.ends = t.ends)
    (hposts : ∀ i, postSegment i = g → (u.post i).state = (t.post i).state ∧ (u.post i).commands = (t.post i).commands)
    (hothers : ∀ j, postSegment j ≠ g → u.post j = t.post j) (hother : ∀ l, l.segment ≠ g → u.line l = t.line l) :
    s.OutOfService u g y := by
  have hsegment (k : Fin 8) : u.segment k = t.segment k := by rw [State.segment, hsegments]; rfl
  have hend (k : LineId) : u.segmentEnd k = t.segmentEnd k := by rw [State.segmentEnd, hends]; rfl
  have hstate (k : LineId) : (u.line k).state = (t.line k).state := by
    obtain ⟨_, _, hk⟩ := hlines k
    rw [hk]
  refine ⟨(hsegment g).trans (h.segment.trans hy), (hstate _).trans h.near, (hstate _).trans h.far,
    fun e => (hend _).trans (h.ends e), fun d => ?_, fun j hj => (hothers j hj).trans (h.otherPosts j hj),
    fun k hk => (hsegment k).trans (h.segments k hk),
    fun k hk => ⟨(hother k hk).trans (h.others k hk).1, (hend k).trans (h.others k hk).2⟩⟩
  have hd := postSegment_postIndex g d
  obtain ⟨hst, hcm⟩ := hposts _ hd
  rw [hst, hcm, h.posts _ hd]
  exact ⟨rfl, rfl⟩

/-! ### A lost post whose calls stay (R75, R76) -/

/-- Nothing is to be done for the calls of a lost post: its live call is not one that ends or returns, and it is not deferred
or no record is RESERVED for it. -/
structure State.LosesQuietly (s : State) (i : Fin 256) : Prop where
  call : ∀ n r c, (s.post i).liveCall = some n → s.callNumbered n = some r → s.call r = some c →
    c.corrupt = false ∧ (c.state = .queued ∨ c.state = .reserved ∨ c.state = .ended)
  deferral : (s.post i).deferred = true → s.reservedFor i = none ∧ (s.post i).state ≠ .isolated

theorem callOfLostPost_quiet {s : State} {i : Fin 256} (h : s.LosesQuietly i) : callOfLostPost i s = .ok () s := by
  rw [callOfLostPost]
  refine (Op.bind_ok (Op.get_apply _)).trans ?_
  cases hr : (s.post i).liveCall.bind s.callNumbered with
  | none => rfl
  | some r =>
    obtain ⟨n, hn, hnum⟩ := Option.bind_eq_some_iff.mp hr
    cases hc : s.call r with
    | none => simp [withCall, readCall, hc]
    | some c =>
      obtain ⟨hcode, hst⟩ := h.call n r c hn hnum hc
      refine (withCall_ok s r c _ hc hcode).trans ?_
      rcases hst with e | e | e <;> rw [e] <;> rfl

theorem deferralOfLostPost_quiet {s : State} {i : Fin 256} (h : s.LosesQuietly i) : deferralOfLostPost i s = .ok () s := by
  rw [deferralOfLostPost]
  refine (Op.bind_ok (Op.get_apply _)).trans ?_
  by_cases hd : (s.post i).deferred = true
  · obtain ⟨hres, hiso⟩ := h.deferral hd
    have hend : endReserved i .lineFault s = .ok () s := by
      simp only [endReserved, Op.bind_apply, Op.get_apply, hres, Op.pure_apply]
    have hno : ¬ ((s.post i).state == .isolated) = true := by rw [beq_iff_eq]; exact hiso
    rw [if_pos hd]
    refine (Op.bind_ok hend).trans ((Op.modify_apply _ _).trans ?_)
    rw [if_neg hno, hres]
    rfl
  · rw [if_neg hd]; rfl

theorem lostPost_quiet {s : State} {i : Fin 256} (h : s.LosesQuietly i) : lostPost i s = .ok () s :=
  (Op.bind_ok (callOfLostPost_quiet h)).trans (deferralOfLostPost_quiet h)

theorem lostPosts_quiet {s : State} : ∀ l : List (Fin 256), (∀ i ∈ l, s.LosesQuietly i) →
    (l.forM lostPost : Op PUnit) s = .ok ⟨⟩ s
  | [], _ => rfl
  | i :: l, h => by
    have hl := lostPosts_quiet l fun j hj => h j (List.mem_cons_of_mem _ hj)
    simp only [List.forM_eq_forM, List.forM_cons] at hl ⊢
    exact (Op.bind_ok (lostPost_quiet (h i List.mem_cons_self))).trans hl

theorem reachable_of_mem_lostPosts {s : State} {g : Fin 8} {i : Fin 256} (h : i ∈ s.lostPosts g) :
    postSegment i = g ∧ (s.post i).reachable = true := by
  obtain ⟨hi, hr⟩ := List.mem_filter.mp h
  exact ⟨(mem_segmentPosts g i).mp hi, hr⟩

theorem lost_state {p : Post} (h : p.reachable = true) : p.lost.state = .unreachable := by
  rw [lost_of_reachable h]

/-- A post that keeps its place is lost quietly. -/
theorem losesQuietly_of_keepsPlace {s t : State} {i : Fin 256} (h : s.Sound) (hk : s.KeepsPlace i)
    (hcalls : t.calls = s.calls) (hpost : t.post i = (s.post i).lost) (hr : (s.post i).reachable = true) :
    t.LosesQuietly i := by
  have hcall (r : Fin 64) : t.call r = s.call r := by rw [State.call, hcalls]; rfl
  have hnum (n : Nat) : t.callNumbered n = s.callNumbered n := by simp only [State.callNumbered, hcall]
  have hres : t.reservedFor i = s.reservedFor i := by simp only [State.reservedFor, hcall]
  constructor
  case call =>
    intro n r c hlive hn hc
    rw [hpost, lost_liveCall] at hlive
    rw [hnum] at hn
    rw [hcall] at hc
    exact ⟨h.call_checked hc, .inl (hk.1 n r c hlive hn hc)⟩
  case deferral =>
    intro hd
    rw [hpost, lost_deferred] at hd
    rw [hres, hpost, lost_state hr]
    exact ⟨hk.2 hd, fun e => PostState.noConfusion e⟩

/-- A segment leaves service, and every post of it keeps its place. -/
theorem leaveService_keeps {s : State} {g : Fin 8} (x : Segment) (h : s.Sound) (hk : ∀ d, s.KeepsPlace (postIndex g d)) :
    ∃ t, leaveService g x s = .ok () t ∧ s.TakesOut t g x := by
  obtain ⟨t, ht, htakes⟩ := leaveService_splits g x s h.posts
  obtain ⟨_, _, _, _, _, htf⟩ := htakes.frame
  refine ⟨t, ht.trans (lostPosts_quiet _ fun i hi => ?_), htakes⟩
  obtain ⟨hg, hr⟩ := reachable_of_mem_lostPosts hi
  have hplace : s.KeepsPlace i := by
    rw [← postIndex_postSegment_postDrop i, hg]; exact hk _
  exact losesQuietly_of_keepsPlace h hplace (by rw [htf]) (htakes.posts i hg) hr

end Sys2Proof.Machine
end

section
/-! SUPPORT. The line monitor of a segment end and the segment fault it raises (R46, R69 to R71), and the obligation about
them. -/

namespace Sys2Proof.Machine

/-! ### A segment end changed twice -/

theorem updateEnd_congr {l : LineId} {f f' : LineEnd → LineEnd} {s : State} (h : f (s.segmentEnd l) = f' (s.segmentEnd l)) :
    s.updateEnd l f = s.updateEnd l f' := by
  rw [State.updateEnd, State.updateEnd, h]

theorem updateEnd_self (l : LineId) (f : LineEnd → LineEnd) (s : State) : (s.updateEnd l f).segmentEnd l = f (s.segmentEnd l) := by
  rw [updateEnd_segmentEnd, if_pos rfl]

theorem updateEnd_updateEnd (l : LineId) (f f' : LineEnd → LineEnd) (s : State) :
    (s.updateEnd l f).updateEnd l f' = s.updateEnd l (fun e => f' (f e)) := by
  rw [State.updateEnd, updateEnd_self]
  simp only [State.updateEnd, put_put]

/-! ### The over-current input (R46) -/

theorem overCurrentOn_watched {s : State} {l : LineId} (hfeed : s.feedOn l = true) (hclear : (s.segmentEnd l).state = .clear) :
    overCurrentOn l s = .ok () (s.updateEnd l (fun _ =>
      { state := .awaiting, deglitch := some (s.after s.deglitchTicks), overCurrent := true })) := by
  have hon : (s.updateEnd l (fun e => { e with overCurrent := true })).feedOn l = true := hfeed
  refine (Op.modify_apply _ _).trans ?_
  rw [if_pos hon, State.watchEnd, updateEnd_updateEnd]
  refine congrArg (EStateM.Result.ok ()) (updateEnd_congr ?_)
  simp only [hclear]
  rfl

theorem overCurrentOn_unwatched {s : State} {l : LineId} (h : s.feedOn l = false ∨ (s.segmentEnd l).state ≠ .clear) :
    overCurrentOn l s = .ok () (s.updateEnd l (fun e => { e with overCurrent := true })) := by
  refine (Op.modify_apply _ _).trans (congrArg (EStateM.Result.ok ()) ?_)
  by_cases hfeed : s.feedOn l = true
  · have hno : (s.segmentEnd l).state ≠ .clear := h.resolve_left (by simp [hfeed])
    have hon : (s.updateEnd l (fun e => { e with overCurrent := true })).feedOn l = true := hfeed
    rw [if_pos hon, State.watchEnd, updateEnd_updateEnd]
    refine updateEnd_congr ?_
    rw [if_neg]
    simp [hno]
  · exact if_neg hfeed

/-! ### The segment fault (R69 to R71) -/

theorem shortMode_off {s : State} (h : s.parameter 32 = 3) : s.shortMode = .off := by rw [State.shortMode, h]; rfl

theorem shortMode_ne_off {s : State} (h : s.parameter 32 ≠ 3) : s.shortMode ≠ .off := by
  rw [State.shortMode]
  unfold SegmentMode.ofCode
  split
  case h_3 e => exact absurd e h
  case h_1 | h_2 | h_4 => exact fun e => SegmentMode.noConfusion e

theorem segmentFault_ignored {l : LineId} {f : SegmentFault} {s : State}
    (h : s.modeOf f = .off ∨ (s.segment l.segment).serving = false) : segmentFault l f s = .ok () s := by
  have hno : ¬ ((s.segment l.segment).serving = true ∧ s.modeOf f ≠ .off) := by
    rintro ⟨hs, hm⟩
    rcases h with h | h
    · exact hm h
    · exact Bool.noConfusion (h.symm.trans hs)
  exact (Op.bind_ok (Op.get_apply _)).trans (congrFun (if_neg hno) _)

theorem segmentFault_recorded {l : LineId} {f : SegmentFault} {s : State} (hs : (s.segment l.segment).serving = true)
    (hm : s.modeOf f = .report ∨ s.inRun = false ∧ s.modeOf f ≠ .off) :
    segmentFault l f s = .ok () (s.recordFault (segmentSlot l.segment) f.kind (Side.code l.side) 0) := by
  have hne : s.modeOf f ≠ .off := by
    rcases hm with h | h
    · rw [h]; exact fun e => SegmentMode.noConfusion e
    · exact h.2
  refine (Op.bind_ok (Op.get_apply _)).trans ((congrFun (if_pos ⟨hs, hne⟩) _).trans ?_)
  refine (Op.bind_ok (Op.modify_apply _ _)).trans ?_
  by_cases hrun : s.inRun = true
  · have hreport : s.modeOf f = .report := hm.resolve_right (by simp [hrun])
    rw [if_pos hrun, hreport]
    rfl
  · rw [if_neg hrun]
    rfl

theorem segmentFault_leaves {l : LineId} {f : SegmentFault} {s : State} (hs : (s.segment l.segment).serving = true)
    (hrun : s.inRun = true) (x : Segment)
    (hx : s.modeOf f = .latch ∧ x = { s.segment l.segment with state := .latched, retryTimer := none }
      ∨ s.modeOf f = .retry ∧ x = s.retryOutcome (s.segment l.segment)) :
    segmentFault l f s = leaveService l.segment x (s.recordFault (segmentSlot l.segment) f.kind (Side.code l.side) 0) := by
  have hne : s.modeOf f ≠ .off := by
    rcases hx with ⟨h, -⟩ | ⟨h, -⟩ <;> rw [h] <;> exact fun e => SegmentMode.noConfusion e
  refine (Op.bind_ok (Op.get_apply _)).trans ((congrFun (if_pos ⟨hs, hne⟩) _).trans ?_)
  refine (Op.bind_ok (Op.modify_apply _ _)).trans ?_
  rw [if_pos hrun]
  rcases hx with ⟨h, rfl⟩ | ⟨h, rfl⟩ <;> rw [h]

/-- The record that LATCH leaves once the segment's feeds are off. -/
theorem latched_feedless (x : Segment) : Segment.feedless { x with state := .latched, retryTimer := none }
    = { Segment.reset with state := .latched, retryCount := x.retryCount } := rfl

theorem retryOutcome_feedless (s : State) (x : Segment) : (s.retryOutcome x).feedless =
    if 1 ≤ s.parameter 38 ∧ s.parameter 38 ≤ x.retryCount then
      { Segment.reset with state := .latched, retryCount := x.retryCount }
    else { Segment.reset with
      state := .inhibited, retryTimer := some (s.after (s.parameter 36 * 100))
      retryCount := if x.retryCount < 255 then x.retryCount + 1 else 255 } := by
  have hlimit : s.parameter 38 = s.retryLimit := rfl
  rw [hlimit]
  by_cases h : 1 ≤ s.retryLimit ∧ s.retryLimit ≤ x.retryCount
  · rw [if_pos h, State.retryOutcome, if_pos ((Bool.and_eq_true _ _).mpr ⟨decide_eq_true h.1, decide_eq_true h.2⟩)]
    rfl
  · rw [if_neg h, State.retryOutcome, if_neg fun e => h ⟨of_decide_eq_true ((Bool.and_eq_true _ _).mp e).1,
      of_decide_eq_true ((Bool.and_eq_true _ _).mp e).2⟩]
    rfl

/-- The state once an end is SHORT (R46). -/
def State.shorted (s : State) (l : LineId) : State := s.updateEnd l (fun e => { e with state := .short, deglitch := none })

theorem shorted_end (s : State) (l : LineId) :
    (s.shorted l).segmentEnd l = { s.segmentEnd l with state := .short, deglitch := none } := updateEnd_self l _ s

theorem shorted_end_ne (s : State) {k l : LineId} (h : k ≠ l) : (s.shorted l).segmentEnd k = s.segmentEnd k :=
  updateEnd_segmentEnd_ne s _ h

theorem deglitchExpires_shorts {s : State} {l : LineId} (hst : (s.segmentEnd l).state = .awaiting)
    (hdue : timerDue s.time (s.segmentEnd l).deglitch = true) :
    deglitchExpires l s = segmentFault l .short (s.shorted l) := by
  refine (Op.bind_ok (Op.get_apply _)).trans ((congrFun (if_pos ⟨hst, hdue⟩) _).trans ?_)
  exact Op.bind_ok (Op.set_apply _ _)

/-- Settles O59: the line monitor's rows are each one change of the end; an end that is SHORT is answered by the mode of
LINE_SHORT. -/
theorem overCurrentIsDeglitchedThenReported : Obligations.OverCurrentIsDeglitchedThenReported := by
  intro s l
  refine ⟨fun hfeed hclear => next_event (op := overCurrentOn l) (overCurrentOn_watched hfeed hclear),
    fun h => next_event (op := overCurrentOn l) (overCurrentOn_unwatched h), next_event (op := overCurrentOff l) ?clears,
    fun hst hdue => ⟨fun hoff => next_event (op := deglitchExpires l) ?ignored, fun hserves hmode => ?reports,
      fun x hserves hrun h hk hx => ?leaves⟩⟩
  case clears => exact (Op.modify_apply _ _).trans (congrArg (EStateM.Result.ok ()) (updateEnd_congr rfl))
  case ignored =>
    exact (deglitchExpires_shorts hst hdue).trans (segmentFault_ignored (s := s.shorted l) (hoff.imp shortMode_off id))
  case reports =>
    have hrecords := segmentFault_recorded (f := .short) (s := s.shorted l) hserves (by
      rcases hmode with h | ⟨hrun, h⟩
      · exact .inl (show s.shortMode = .report by rw [State.shortMode, h]; rfl)
      · exact .inr ⟨hrun, shortMode_ne_off (s := s) h⟩)
    obtain ⟨list, hf⟩ := recordFault_frame (segmentSlot l.segment) SegmentFault.short.kind (Side.code l.side) 0 (s.shorted l)
    refine ⟨_, next_event (op := deglitchExpires l) ((deglitchExpires_shorts hst hdue).trans hrecords), ?_, ?_,
      fun k hne => ?_, ?_⟩
    · rw [hf]; exact shorted_end s l
    · rw [State.RecordsFault, hf]
      cases l with
      | mk g side => cases side <;> rfl
    · rw [hf]; exact shorted_end_ne s hne
    · rw [hf]; rfl
  case leaves =>
    obtain ⟨t, ht⟩ : ∃ t, t = (s.shorted l).recordFault (segmentSlot l.segment) SegmentFault.short.kind (Side.code l.side) 0 :=
      ⟨_, rfl⟩
    obtain ⟨list, hf⟩ := recordFault_frame (segmentSlot l.segment) SegmentFault.short.kind (Side.code l.side) 0 (s.shorted l)
    rw [← ht] at hf
    have hts : t.Sound := by
      rw [hf]; exact ⟨h.posts, h.positions, h.calls, h.incidents, h.channels, h.crosspoints⟩
    have htk (d : Fin 32) : t.KeepsPlace (postIndex l.segment d) := by rw [hf]; exact hk d
    obtain ⟨y, hy, hyx⟩ : ∃ y, (s.shortMode = .latch ∧ y = { s.segment l.segment with state := .latched, retryTimer := none }
        ∨ s.shortMode = .retry ∧ y = s.retryOutcome (s.segment l.segment)) ∧ y.feedless = x := by
      rcases hx with ⟨h32, rfl⟩ | ⟨h32, rfl⟩
      · exact ⟨_, .inl ⟨by rw [State.shortMode, h32]; rfl, rfl⟩, latched_feedless _⟩
      · exact ⟨_, .inr ⟨by rw [State.shortMode, h32]; rfl, rfl⟩, retryOutcome_feedless s _⟩
    have hleaves := segmentFault_leaves (f := .short) (s := s.shorted l) hserves hrun y hy
    obtain ⟨u, hu, htakes⟩ := leaveService_keeps y hts htk
    rw [ht] at hu
    obtain ⟨segs, ls, es, ps, list', huf⟩ := htakes.frame
    have hout := htakes.outOfService hyx rfl (.refl u) rfl (fun _ _ => ⟨rfl, rfl⟩) (fun _ _ => rfl) fun _ _ => rfl
    refine ⟨u, next_event (op := deglitchExpires l) ((deglitchExpires_shorts hst hdue).trans (hleaves.trans hu)), ?_, ?_,
      fun d => ?_, ?_⟩
    · obtain ⟨hseg, hnear, hfar, hends, hposts, hothers, hsegs, hlines⟩ := hout
      have hend (k : LineId) (hk : k ≠ l) : t.segmentEnd k = s.segmentEnd k := by
        rw [hf]; exact shorted_end_ne s hk
      have htp (i : Fin 256) : t.post i = s.post i := by rw [hf]; rfl
      have hline (k : LineId) : t.line k = s.line k := by rw [hf]; rfl
      have hsegment (k : Fin 8) : t.segment k = s.segment k := by rw [hf]; rfl
      refine ⟨hseg, hnear, hfar, fun e => ?_, fun d => ?_, fun j hj => (hothers j hj).trans (htp j),
        fun k hk => (hsegs k hk).trans (hsegment k), fun k hk => ⟨(hlines k hk).1.trans (hline k),
          (hlines k hk).2.trans (hend k fun e => hk (by rw [e]))⟩⟩
      · rw [hends]
        by_cases he : (⟨l.segment, e⟩ : LineId) = l
        · have hshort : t.segmentEnd l = { s.segmentEnd l with state := .short, deglitch := none } := by
            rw [hf]; exact shorted_end s l
          rw [he, hshort]
        · rw [hend _ he]
      · rw [← htp]; exact hposts d
    · rw [State.RecordsFault, huf, hf]
      cases l with
      | mk g side => cases side <;> rfl
    · rw [htakes.posts _ (postSegment_postIndex _ _), hf]; rfl
    · rw [huf, hf]; rfl

end Sys2Proof.Machine
end

section
/-! SUPPORT. A lost post whose call is ended or returned, among others that keep their places (R75, R76), and the obligation
about INHIBIT_SEGMENT (R88). -/

namespace Sys2Proof.Machine

/-! ### One post of a segment out of service whose call changes -/

/-- Where no call record changes its number, a call number names the record it named. -/
theorem callNumbered_congr {t u : State} (h : ∀ q, (u.call q).map Call.number = (t.call q).map Call.number) (n : Nat) :
    u.callNumbered n = t.callNumbered n := by
  unfold State.callNumbered
  congr 1
  funext q
  have hq := h q
  cases ht : t.call q with
  | none =>
    cases hu : u.call q with
    | none => rfl
    | some d => rw [ht, hu] at hq; cases hq
  | some c =>
    cases hu : u.call q with
    | none => rw [ht, hu] at hq; cases hq
    | some d =>
      rw [ht, hu] at hq
      have hnumber : d.number = c.number := Option.some.inj hq
      simp only [hnumber]

/-- A post that is lost quietly still is once another post's call has ended or is QUEUED. -/
theorem State.LosesQuietly.of_oneCall {t u : State} {j : Fin 256} {r : Fin 64} {c d : Call} (h : t.LosesQuietly j)
    (hpost : u.post j = t.post j) (hcalls : ∀ q, q ≠ r → u.call q = t.call q) (hr : t.call r = some c)
    (hur : u.call r = some d) (hnum : d.number = c.number) (hdc : d.corrupt = false)
    (hst : d.state = .queued ∨ d.state = .ended) : u.LosesQuietly j := by
  have hnumbers (n : Nat) : u.callNumbered n = t.callNumbered n := callNumbered_congr (fun q => by
    by_cases hq : q = r
    · rw [hq, hur, hr, Option.map_some, Option.map_some, hnum]
    · rw [hcalls q hq]) n
  constructor
  case call =>
    intro n q e hlive hn he
    rw [hpost] at hlive
    rw [hnumbers] at hn
    by_cases hq : q = r
    · rw [hq, hur] at he
      obtain rfl := Option.some.inj he
      exact ⟨hdc, hst.elim .inl fun e => .inr (.inr e)⟩
    · rw [hcalls q hq] at he
      exact h.call n q e hlive hn he
  case deferral =>
    intro hdef
    rw [hpost] at hdef ⊢
    obtain ⟨hnone, hiso⟩ := h.deferral hdef
    refine ⟨?_, hiso⟩
    rw [State.reservedFor, List.find?_eq_none] at hnone ⊢
    intro q hq
    by_cases hqr : q = r
    · rw [hqr, hur]
      rcases hst with e | e <;> simp [e]
    · rw [hcalls q hqr]
      exact hnone q hq

/-- What is left of a call once its post is lost: it is QUEUED again or has ended, and its number stays. -/
structure Call.Withdrawn (c d : Call) : Prop where
  number : d.number = c.number
  checked : d.corrupt = false
  state : d.state = .queued ∨ d.state = .ended

/-- A segment leaves service, and one post's call changes with it. -/
theorem lostPosts_one {s t u : State} {g : Fin 8} {x : Segment} {i : Fin 256} {r : Fin 64} {c d : Call} (h : s.Sound)
    (hi : postSegment i = g) (hreach : (s.post i).reachable = true)
    (hk : ∀ d, postIndex g d ≠ i → s.KeepsPlace (postIndex g d)) (htakes : s.TakesOut t g x) (hr : t.call r = some c)
    (hu : lostPost i t = .ok () u) (hd : u.call r = some d) (hwith : c.Withdrawn d)
    (hcalls : ∀ q, q ≠ r → u.call q = t.call q) (hposts : ∀ j, j ≠ i → u.post j = t.post j) :
    (s.lostPosts g).forM lostPost t = .ok ⟨⟩ u := by
  obtain ⟨_, _, _, _, _, htf⟩ := htakes.frame
  have hquiet (j : Fin 256) (hj : j ∈ s.lostPosts g) (hne : j ≠ i) : t.LosesQuietly j := by
    obtain ⟨hg, hreach⟩ := reachable_of_mem_lostPosts hj
    have hplace : s.KeepsPlace j := by
      rw [← postIndex_postSegment_postDrop j, hg]
      exact hk _ (by rw [← hg, postIndex_postSegment_postDrop]; exact hne)
    exact losesQuietly_of_keepsPlace h hplace (by rw [htf]) (htakes.posts j hg) hreach
  have hmem : i ∈ s.lostPosts g := List.mem_filter.mpr ⟨(mem_segmentPosts g i).mpr hi, hreach⟩
  obtain ⟨before, after, hsplit⟩ := List.append_of_mem hmem
  have hnodup : (s.lostPosts g).Nodup := (segmentPosts_nodup g).filter _
  rw [hsplit] at hnodup
  have hbefore (j : Fin 256) (hj : j ∈ before) : j ≠ i := fun e =>
    (List.nodup_append.mp hnodup).2.2 j hj i List.mem_cons_self e
  have hafter (j : Fin 256) (hj : j ∈ after) : j ≠ i := fun e =>
    (List.nodup_cons.mp (List.nodup_append.mp hnodup).2.1).1 (e ▸ hj)
  have hfirst := lostPosts_quiet (s := t) before fun j hj =>
    hquiet j (by rw [hsplit]; exact List.mem_append_left _ hj) (hbefore j hj)
  have hlast := lostPosts_quiet (s := u) after fun j hj =>
    (hquiet j (by rw [hsplit]; exact List.mem_append_right _ (List.mem_cons_of_mem _ hj)) (hafter j hj)).of_oneCall
      (hposts j (hafter j hj)) hcalls hr hd hwith.number hwith.checked hwith.state
  rw [hsplit]
  simp only [List.forM_eq_forM, List.forM_append, List.forM_cons] at hfirst hlast ⊢
  exact (Op.bind_ok hfirst).trans ((Op.bind_ok hu).trans hlast)

/-! ### A segment out of service keeps its state sound -/

theorem State.TakesOut.sound {s t : State} {g : Fin 8} {x : Segment} (h : s.TakesOut t g x) (hs : s.Sound) : t.Sound := by
  have hposts (i : Fin 256) : (t.post i).corrupt = false := by
    by_cases hi : postSegment i = g
    · rw [h.posts i hi, lost_corrupt]; exact hs.posts i
    · rw [h.otherPosts i hi]; exact hs.posts i
  obtain ⟨_, _, _, _, _, htf⟩ := h.frame
  refine ⟨hposts, ?_, ?_, ?_, ?_, ?_⟩
  · rw [htf]; exact hs.positions
  · rw [htf]; exact hs.calls
  · rw [htf]; exact hs.incidents
  · rw [htf]; exact hs.channels
  · rw [htf]; exact hs.crosspoints

/-! ### The call of a lost post (R75) -/

/-- A live call that the loss of its post ends is ended LINE_FAULT. -/
theorem lostPost_ends {t u : State} {i : Fin 256} {r : Fin 64} {c : Call} (hdef : (u.post i).deferred = false)
    (hlive : (t.post i).liveCall = some c.number) (hnum : t.callNumbered c.number = some r) (hr : t.call r = some c)
    (hc : c.corrupt = false)
    (hst : c.state = .connecting ∨ c.state = .active ∨ c.state = .held ∨ c.state = .retrieving ∨ c.state = .ringing)
    (hu : endCall r .lineFault t = .ok () u) : lostPost i t = .ok () u := by
  have hcall : callOfLostPost i t = .ok () u := by
    rw [callOfLostPost]
    refine (Op.bind_ok (Op.get_apply _)).trans ?_
    rw [hlive, Option.bind_some, hnum]
    refine (withCall_ok t r c _ hr hc).trans ?_
    rcases hst with e | e | e | e | e <;> rw [e] <;> exact hu
  have hdeferral : deferralOfLostPost i u = .ok () u := by
    rw [deferralOfLostPost]
    refine (Op.bind_ok (Op.get_apply _)).trans ?_
    rw [if_neg (by simp [hdef])]
    rfl
  exact (Op.bind_ok hcall).trans hdeferral

/-- A live call on offer is withdrawn from its position and returns to the queue. -/
theorem lostPost_withdraws {t v : State} {i : Fin 256} {r : Fin 64} {c : Call} {p : Fin 16}
    (hdef : (v.post i).deferred = false) (hlive : (t.post i).liveCall = some c.number)
    (hnum : t.callNumbered c.number = some r) (hr : t.call r = some c) (hc : c.corrupt = false) (hst : c.state = .offered)
    (hps : c.parties = [p]) (hv : returnOffer r t = .ok () v) (hp : (v.position p).corrupt = false) :
    lostPost i t = .ok () (v.placePosition p
      { (v.position p).toFree v.time with lastOffer := some { call := c.number, outcome := .withdrawn } }) := by
  obtain ⟨u, hu⟩ : ∃ u, u = v.placePosition p
    { (v.position p).toFree v.time with lastOffer := some { call := c.number, outcome := .withdrawn } } := ⟨_, rfl⟩
  have hoffer : endOffer p c.number .withdrawn v = .ok () u := by rw [hu]; exact endOffer_ok p c.number .withdrawn v hp
  have hcall : callOfLostPost i t = .ok () u := by
    rw [callOfLostPost]
    refine (Op.bind_ok (Op.get_apply _)).trans ?_
    rw [hlive, Option.bind_some, hnum]
    refine (withCall_ok t r c _ hr hc).trans ?_
    have hforM : (c.parties.forM (fun p => endOffer p c.number .withdrawn) : Op PUnit) v = .ok ⟨⟩ u := by
      rw [hps]
      simp only [List.forM_eq_forM, List.forM_cons, List.forM_nil]
      exact (Op.bind_ok hoffer).trans rfl
    obtain ⟨w, hw, hvw⟩ : ∃ w, freeCallChannel r t = .ok () w ∧ v = w.returnToQueue r := by
      have hreturn := hv
      simp only [returnOffer, Op.bind_apply] at hreturn
      cases hf : freeCallChannel r t with
      | ok a w =>
        rw [hf] at hreturn
        exact ⟨w, rfl, (EStateM.Result.ok.inj hreturn).2.symm⟩
      | error e w => rw [hf] at hreturn; cases hreturn
    rw [hst]
    refine (Op.bind_ok hw).trans ((Op.bind_ok (Op.modify_apply _ _)).trans ?_)
    rw [← hvw]
    exact hforM
  have hup : u.post i = v.post i := by
    obtain ⟨_, _, _, hf⟩ := placePosition_frame p
      { (v.position p).toFree v.time with lastOffer := some { call := c.number, outcome := .withdrawn } } v
    rw [hu, hf]; rfl
  have hdeferral : deferralOfLostPost i u = .ok () u := by
    rw [deferralOfLostPost]
    refine (Op.bind_ok (Op.get_apply _)).trans ?_
    rw [if_neg (by rw [hup, hdef]; exact Bool.false_ne_true)]
    rfl
  rw [← hu]
  exact (Op.bind_ok hcall).trans hdeferral

/-- A deferred post without a live call loses the record RESERVED for it, and waits again at the tail (R76, R109). -/
theorem lostPost_reserved {t u : State} {i : Fin 256} {r : Fin 64} (hdef : (t.post i).deferred = true)
    (hlive : (t.post i).liveCall = none) (hres : t.reservedFor i = some r) (hu : endCall r .lineFault t = .ok () u)
    (hiso : (u.post i).state ≠ .isolated) : lostPost i t = .ok () (u.deferralToTail i) := by
  have hcall : callOfLostPost i t = .ok () t := by
    rw [callOfLostPost]
    refine (Op.bind_ok (Op.get_apply _)).trans ?_
    rw [hlive]
    rfl
  have hend : endReserved i .lineFault t = .ok () u := by
    simp only [endReserved, Op.bind_apply, Op.get_apply, hres, hu]
  refine (Op.bind_ok hcall).trans ?_
  rw [deferralOfLostPost]
  refine (Op.bind_ok (Op.get_apply _)).trans ?_
  rw [if_pos hdef]
  refine (Op.bind_ok hend).trans ((Op.modify_apply _ _).trans ?_)
  rw [if_neg (by rw [beq_iff_eq]; exact hiso), hres]
  rfl

end Sys2Proof.Machine
end

section
/-! SUPPORT. INHIBIT_SEGMENT (R88): a segment taken out of service with one post's call, and the obligation about it. -/

namespace Sys2Proof.Machine

/-! ### INHIBIT_SEGMENT as decided (R88) -/

/-- The record of a segment held without a timer. -/
def Segment.inhibited (x : Segment) : Segment := { x with state := .inhibited, retryTimer := none, retryCount := 0 }

theorem inhibitSegment_unused {g : Fin 8} {s : State} (h : (s.segment g).state = .unused) :
    inhibitSegment g s = .ok () { s with commandResult := some .badState } :=
  (Op.bind_ok (Op.get_apply _)).trans ((congrFun (if_pos h) _).trans (answer_apply _ _))

theorem inhibitSegment_holds {g : Fin 8} {s : State} (h : (s.segment g).state = .latched ∨ (s.segment g).state = .inhibited) :
    ∃ l, inhibitSegment g s = .ok () { s with
      segments := put s.segments g (s.segment g).inhibited, reports := { s.reports with list := l }
      commandResult := some .done } := by
  have hunused : (s.segment g).state ≠ .unused := by rcases h with e | e <;> simp [e]
  have hserving : ¬ (s.segment g).serving = true := by rcases h with e | e <;> simp [Segment.serving, e]
  have hrun : inhibitSegment g s = (if s.segment g = (s.segment g).inhibited then pure ()
      else modify (fun v => (v.setSegmentTimers g (s.segment g).inhibited).reportBoth (.segment g)) : Op Unit)
      { s with commandResult := some .done } := by
    refine (Op.bind_ok (Op.get_apply _)).trans ((congrFun (if_neg hunused) _).trans ((Op.bind_ok (answer_apply _ _)).trans ?_))
    exact congrFun (if_neg hserving) _
  by_cases hsame : s.segment g = (s.segment g).inhibited
  · rw [if_pos hsame] at hrun
    refine ⟨s.reports.list, hrun.trans ?_⟩
    rw [← hsame, State.segment, put_same]
    rfl
  · rw [if_neg hsame] at hrun
    exact ⟨_, hrun⟩

theorem inhibitSegment_leaves {g : Fin 8} {s : State} (h : (s.segment g).serving = true) :
    inhibitSegment g s = leaveService g (s.segment g).inhibited { s with commandResult := some .done } := by
  have hunused : (s.segment g).state ≠ .unused := fun e => by simp [Segment.serving, e] at h
  refine (Op.bind_ok (Op.get_apply _)).trans ((congrFun (if_neg hunused) _).trans ((Op.bind_ok (answer_apply _ _)).trans ?_))
  exact congrFun (if_pos h) _

/-- The record of a segment that INHIBIT_SEGMENT has taken out of service. -/
def Segment.held : Segment :=
  { state := .inhibited, retryCount := 0, retryTimer := none, stableTimer := none, farFeed := false, broken := none }

/-- A post whose call has been ended by its loss. -/
def Post.lostCall (p : Post) : Post := { p.lost with liveCall := none }

/-! ### What the end of a lost post's call leaves of its segment -/

section Ends

variable {s t u : State} {g : Fin 8} {x : Segment} {r : Fin 64} {c : Call} {p : Fin 16} {k : Fin 32}
  (htakes : s.TakesOut t g x) (hends : t.EndsCall u r c p k .lineFault) (hg : postSegment c.post = g)
include htakes hends hg

theorem endsCall_outOfService : s.OutOfService u g x.feedless := by
  obtain ⟨_, _, _, _, _, _, _, _, _, _, huf⟩ := hends.frame
  refine htakes.outOfService rfl (by rw [huf]) hends.lines (by rw [huf]) (fun j hj => ?_)
    (fun j hj => hends.touches.posts j fun e => hj (by rw [e, hg])) (fun l hl => hends.touches.lines l (by rw [hg]; exact hl))
  by_cases hji : j = c.post
  · rw [hji, hends.post]
    exact ⟨rfl, rfl⟩
  · rw [hends.touches.posts j hji]
    exact ⟨rfl, rfl⟩

theorem endsCall_lostPost (hlive : (s.post c.post).liveCall = some c.number) :
    u.post c.post = (s.post c.post).lostCall := by
  have ht := htakes.posts c.post hg
  have hlost : (t.post c.post).liveCall = some c.number := by rw [ht, lost_liveCall]; exact hlive
  refine hends.post.trans ?_
  have hforgets : t.postEnded c false = { t.post c.post with liveCall := none } := by
    simp only [State.postEnded, Bool.false_eq_true, if_false, hlost, if_true]
  exact hforgets.trans (by rw [ht]; rfl)

theorem endsCall_lost_notDeferred (hdef : (s.post c.post).deferred = false) (hlive : (s.post c.post).liveCall = some c.number) :
    (u.post c.post).deferred = false := by
  rw [endsCall_lostPost htakes hends hg hlive, Post.lostCall]
  exact (lost_deferred _).trans hdef

end Ends

/-- What INHIBIT_SEGMENT leaves where it ends the live call of one of the segment's posts (R75, R88). -/
structure State.InhibitsCall (s u : State) (g : Fin 8) (r : Fin 64) (c : Call) : Prop where
  result : u.commandResult = some .done
  out : s.OutOfService u g Segment.held
  call : u.call r = some (c.endedBy .lineFault)
  post : u.post c.post = (s.post c.post).lostCall
  calls : ∀ q, q ≠ r → u.call q = s.call q
  reported : u.Reported (.call r)
  queue : u.calls.queue = s.calls.queue
  deferrals : u.calls.deferrals = s.calls.deferrals
  mem : u.mem = s.mem
  time : u.time = s.time

/-- INHIBIT_SEGMENT ends a call that is neither QUEUED nor on offer, where its ending step answers. -/
theorem inhibitSegment_endsCall {s t u : State} {g : Fin 8} {r : Fin 64} {c : Call} {p : Fin 16} {k : Fin 32} (h : s.Sound)
    (hg : postSegment c.post = g) (hpresent : (s.post c.post).state = .present)
    (hk : ∀ d, postIndex g d ≠ c.post → s.KeepsPlace (postIndex g d)) (hdef : (s.post c.post).deferred = false)
    (hlive : (s.post c.post).liveCall = some c.number) (hl : s.liveCall c.number = some (r, c))
    (hst : c.state = .connecting ∨ c.state = .active ∨ c.state = .held ∨ c.state = .retrieving ∨ c.state = .ringing)
    (htakes : State.TakesOut { s with commandResult := some .done } t g (s.segment g).inhibited)
    (hends : t.EndsCall u r c p k .lineFault) (hu : endCall r .lineFault t = .ok () u) :
    (s.lostPosts g).forM lostPost t = .ok ⟨⟩ u ∧ s.InhibitsCall u g r c := by
  obtain ⟨hr, -, -⟩ := liveCall_eq_some hl
  have hc := h.call_checked hr
  have hqueued : c.state ≠ .queued := by rcases hst with e | e | e | e | e <;> simp [e]
  obtain ⟨_, _, _, _, _, htf⟩ := htakes.frame
  obtain ⟨_, _, _, _, _, _, _, _, _, _, huf⟩ := hends.frame
  have htr : t.call r = some c := by rw [htf]; exact hr
  have hnum : t.callNumbered c.number = some r := by rw [htf]; exact liveCall_numbered hl
  have htlive : (t.post c.post).liveCall = some c.number := by
    rw [htakes.posts c.post hg, lost_liveCall]; exact hlive
  have hreach : (s.post c.post).reachable = true := by rw [Post.reachable, hpresent]; rfl
  have hlost := lostPost_ends (endsCall_lost_notDeferred (s := { s with commandResult := some .done }) htakes hends hg hdef hlive) htlive hnum htr hc hst hu
  refine ⟨lostPosts_one (s := { s with commandResult := some .done }) (h.withResult (some .done)) hg hreach hk htakes
    htr hlost hends.call ⟨rfl, hc, .inr rfl⟩ hends.touches.calls hends.touches.posts, ?_⟩
  constructor
  case result => rw [huf, htf]
  case out => exact endsCall_outOfService (s := { s with commandResult := some .done }) htakes hends hg
  case call => exact hends.call
  case post => exact endsCall_lostPost (s := { s with commandResult := some .done }) htakes hends hg hlive
  case calls => intro q hq; rw [hends.touches.calls q hq, htf]; rfl
  case reported => exact hends.reported
  case queue => rw [hends.queue, if_neg hqueued, htf]
  case deferrals => rw [hends.touches.tables.2.2.1, htf]
  case mem => rw [huf, htf]
  case time => rw [huf, htf]

/-- The record that is RESERVED for a post (R103). -/
theorem reservedFor_record {s : State} {i : Fin 256} {r : Fin 64} {c : Call} (h : s.reservedFor i = some r)
    (hr : s.call r = some c) : c.post = i ∧ c.state = .reserved := by
  have hfound := List.find?_some h
  simp only [hr, Bool.and_eq_true, beq_iff_eq] at hfound
  exact ⟨hfound.2, hfound.1⟩

/-- Settles O35: the post whose call changes is lost by the step of its call's state, and every other post keeps its place. -/
theorem inhibitSegmentHoldsSegmentOut : Obligations.InhibitSegmentHoldsSegmentOut := by
  intro s w g h hrun hw
  have hdone := h.withResult (some .done)
  obtain ⟨t, ht, htakes⟩ := leaveService_splits g (s.segment g).inhibited { s with commandResult := some .done } hdone.posts
  obtain ⟨segs, ls, es, ps, l, htf⟩ := htakes.frame
  have hts := htakes.sound hdone
  have hunbroken : t.broken g = none := by rw [State.broken, htakes.segment]; rfl
  have hexec {u : State} (hserves : (s.segment g).serving = true) (hu : (s.lostPosts g).forM lostPost t = .ok ⟨⟩ u) :
      exec (.inhibitSegment w) s = .next u.followUp :=
    next_command hrun hw ((inhibitSegment_leaves (s := { s with commandResult := some .notRunning }) hserves).trans
      (ht.trans hu))
  refine ⟨fun hst => next_command hrun hw (inhibitSegment_unused (s := { s with commandResult := some .notRunning }) hst),
    fun hst => ?holds, fun hserves hk => ?keeps, fun i r c hserves hi hpresent hk =>
      ⟨fun p ch st hdef hlive hl hpost hspeech hps hch hfree ho hconn => ?speech,
        fun p ch hdef hlive hl hpost hoff hps hch ho => ?offered,
        fun p hdef hlive hl hpost hheld hholder hch => ?held,
        fun p ch hdef hlive hl hpost hring hps hch ho => ?ringing,
        fun hdef hlive hres hr hch => ?reserved⟩⟩
  case holds =>
    obtain ⟨list, hu⟩ := inhibitSegment_holds (s := { s with commandResult := some .notRunning }) hst
    exact ⟨_, next_command hrun hw hu, rfl, rfl, rfl⟩
  case keeps =>
    obtain ⟨u, hu, htakes'⟩ := leaveService_keeps (g := g) (s.segment g).inhibited hdone hk
    obtain ⟨_, _, _, _, _, huf⟩ := htakes'.frame
    refine ⟨u, next_command hrun hw ((inhibitSegment_leaves (s := { s with commandResult := some .notRunning }) hserves).trans
      hu), by rw [huf], htakes'.outOfService rfl rfl (.refl u) rfl (fun _ _ => ⟨rfl, rfl⟩) (fun _ _ => rfl) fun _ _ => rfl,
      fun d => htakes'.posts _ (postSegment_postIndex g d), by rw [huf]⟩
  case speech =>
    subst hpost hi
    obtain ⟨hr, -, -⟩ := liveCall_eq_some hl
    have hparty : c.state.hasParty := by rcases hspeech with e | e | e <;> simp [CallState.hasParty, e]
    have hring : c.state ≠ .ringing := by rcases hspeech with e | e | e <;> simp [e]
    have hst : c.state = .connecting ∨ c.state = .active ∨ c.state = .held ∨ c.state = .retrieving ∨ c.state = .ringing := by
      rcases hspeech with e | e | e <;> simp [e]
    obtain ⟨u, hu, hends, hposition, hconnected, hchannel, hreported⟩ := endCall_party .lineFault hts
      (by rw [htf]; exact hr) hparty hps (by rw [htf]; exact hch) hfree (by rw [htf]; exact ho) fun _ => .inr hunbroken
    obtain ⟨hlost, hin⟩ := inhibitSegment_endsCall h rfl hpresent hk hdef hlive hl hst htakes hends hu
    refine ⟨u, hexec hserves hlost, hin.result, hin.out, hin.call, hin.post, ?_, hconnected (by rw [htf]; exact hconn),
      hchannel, hin.calls, fun q hq => ?_, hin.reported, hreported, hin.queue, hin.deferrals, hin.mem, hin.time⟩
    · rw [hposition, State.partyFreed, if_neg hring, htf]; rfl
    · rw [hends.touches.positions q hq, htf]; rfl
  case offered =>
    subst hpost hi
    obtain ⟨hr, -, -⟩ := liveCall_eq_some hl
    have hc := h.call_checked hr
    have hreach : (s.post c.post).reachable = true := by rw [Post.reachable, hpresent]; rfl
    have htp := htakes.posts c.post rfl
    have htr : t.call r = some c := by rw [htf]; exact hr
    obtain ⟨v, hv, hreturns⟩ := returnOffer_returns (p := p) (ch := ch) htr hc (by rw [htf]; exact hch)
      (hts.crosspoints p) (by rw [htf]; exact ho)
    obtain ⟨_, _, _, _, _, hvf⟩ := hreturns.frame
    have hvp : v.position p = s.position p := by rw [hvf, htf]; rfl
    have hvtime : v.time = s.time := by rw [hvf, htf]
    have hnum : t.callNumbered c.number = some r := by rw [htf]; exact liveCall_numbered hl
    have hvdef : (v.post c.post).deferred = false := by
      have hpost : v.post c.post = t.post c.post := by rw [hvf]; rfl
      rw [hpost, htp, lost_deferred]; exact hdef
    have hlost := lostPost_withdraws hvdef (by rw [htp, lost_liveCall]; exact hlive) hnum htr hc hoff hps hv
      (by rw [hvp]; exact h.positions p)
    obtain ⟨y, hy⟩ : ∃ y : Position, y = { (v.position p).toFree v.time with
      lastOffer := some { call := c.number, outcome := .withdrawn } } := ⟨_, rfl⟩
    have hends := hreturns.placed (y := y) (by rw [hy, hvp]; exact h.positions p)
    obtain ⟨u, hu⟩ : ∃ u, u = v.placePosition p y := ⟨_, rfl⟩
    obtain ⟨_, _, _, huf⟩ := placePosition_frame p y v
    rw [← hu] at hends huf
    rw [← hy, ← hu] at hlost
    have hsame (j : Fin 256) : u.post j = t.post j := by rw [State.post, hends.posts]; rfl
    have hruns := lostPosts_one hdone rfl hreach hk htakes htr hlost hends.call ⟨rfl, rfl, .inl rfl⟩ hends.touches.calls
      fun j _ => hsame j
    have hserve : t.LinesServe u := .of_lines (by rw [huf, hvf])
    refine ⟨u, hexec hserves hruns, ?_, ?_, ?_, ?_, ?_, ?_, hends.channel, hends.dispatch, fun q hq => ?_, fun q hq => ?_,
      hends.reportedCall, hends.reportedPosition, ?_, ?_, ?_, ?_⟩
    · rw [hends.result, htf]
    · exact htakes.outOfService rfl (by rw [huf, hvf]) hserve (by rw [huf, hvf]) (fun j _ => by rw [hsame]; exact ⟨rfl, rfl⟩)
        (fun j _ => hsame j) fun k _ => by rw [huf, hvf]; rfl
    · rw [hends.call, hc]
    · rw [hsame, htp]; rfl
    · rw [hends.queue, insertBySequence_congr (s := s) (fun q => by rw [htf]; rfl), htf]
    · rw [hends.position, hy, hvp, hvtime]; rfl
    · rw [hends.touches.calls q hq, htf]; rfl
    · rw [hends.touches.positions q hq, htf]; rfl
    · rw [hends.cluster, htf]
    · rw [hends.touches.tables.2.2.1, htf]
    · rw [hends.touches.port.2.1, htf]
    · rw [hends.touches.port.1, htf]
  case held =>
    subst hpost hi
    obtain ⟨hr, -, -⟩ := liveCall_eq_some hl
    obtain ⟨u, hu, hends, hpositions, hspeech, hreported⟩ := endCall_waits .lineFault p 0 hts (r := r) (c := c) (by rw [htf]; exact hr)
      (.inr (.inl hheld)) hch fun q _ e => Option.some.inj (e.symm.trans hholder)
    obtain ⟨hlost, hin⟩ := inhibitSegment_endsCall h rfl hpresent hk hdef hlive hl (.inr (.inr (.inl hheld))) htakes hends hu
    refine ⟨u, hexec hserves hlost, hin.result, hin.out, hin.call, hin.post, ?_, hin.calls, fun q hq => ?_, hin.reported, ?_,
      ?_, hin.queue, hin.deferrals, hin.mem, hin.time⟩
    · rw [hpositions, State.heldDropped, if_pos ⟨hheld, hholder⟩, htf]; rfl
    · rw [hends.touches.positions q hq, htf]; rfl
    · exact hreported p hheld hholder
    · rw [hspeech, htf]
  case ringing =>
    subst hpost hi
    obtain ⟨hr, -, -⟩ := liveCall_eq_some hl
    obtain ⟨u, hu, hends, hposition, -, hchannel, hreported⟩ := endCall_party .lineFault hts (p := p) (ch := ch)
      (by rw [htf]; exact hr) (.inr (.inr (.inr hring))) hps (by rw [htf]; exact hch) (by decide) (by rw [htf]; exact ho)
      fun _ => .inr hunbroken
    obtain ⟨hlost, hin⟩ := inhibitSegment_endsCall h rfl hpresent hk hdef hlive hl
      (.inr (.inr (.inr (.inr hring)))) htakes hends hu
    refine ⟨u, hexec hserves hlost, hin.result, hin.out, hin.call, hin.post, ?_, hchannel, hin.calls, fun q hq => ?_,
      hin.reported, hreported, hin.queue, hin.deferrals, hin.mem, hin.time⟩
    · rw [hposition, State.partyFreed, if_pos hring, htf]; rfl
    · rw [hends.touches.positions q hq, htf]; rfl
  case reserved =>
    subst hi
    obtain ⟨hpost, hst⟩ := reservedFor_record hres hr
    subst hpost
    have hreach : (s.post c.post).reachable = true := by rw [Post.reachable, hpresent]; rfl
    have htr : t.call r = some c := by rw [htf]; exact hr
    have hc := h.call_checked hr
    obtain ⟨v, hv, hends, hpositions, hspeech, -⟩ := endCall_waits .lineFault 0 0 hts htr (.inr (.inr hst)) hch
      fun _ e => by simp [hst] at e
    obtain ⟨_, _, _, _, _, _, _, _, _, _, hvf⟩ := hends.frame
    have htp := htakes.posts c.post rfl
    have htlive : (t.post c.post).liveCall = none := by rw [htp, lost_liveCall]; exact hlive
    have hvp : v.post c.post = (s.post c.post).lost := by
      refine hends.post.trans (Eq.trans ?_ htp)
      simp only [State.postEnded, EndCause.releases, Bool.false_eq_true, if_false, htlive]
      rw [if_neg (by simp), ← htlive]
    obtain ⟨w, hw⟩ : ∃ w, w = v.deferralToTail c.post := ⟨_, rfl⟩
    obtain ⟨hkeeps, l', hwf⟩ := setDeferrals_frame (v.calls.deferrals.filter (fun d => d.post != c.post)
      ++ v.calls.deferrals.filter (fun d => d.post == c.post)) v
    rw [← State.deferralToTail, ← hw] at hkeeps hwf
    have hvd : v.calls.deferrals = s.calls.deferrals := by rw [hends.touches.tables.2.2.1, htf]
    have hlost : lostPost c.post t = .ok () w := by
      rw [hw]
      refine lostPost_reserved (by rw [htp, lost_deferred]; exact hdef) htlive (by rw [htf]; exact hres) hv ?_
      rw [hvp, lost_of_reachable hreach]
      simp
    have hwp (j : Fin 256) : w.post j = v.post j := by rw [hwf]; rfl
    have hwr (q : Fin 64) : w.call q = v.call q := by rw [hwf]; rfl
    have hruns := lostPosts_one hdone rfl hreach hk htakes htr hlost ((hwr r).trans hends.call) ⟨rfl, hc, .inr rfl⟩
      (fun q hq => (hwr q).trans (hends.touches.calls q hq)) fun j hj => (hwp j).trans (hends.touches.posts j hj)
    refine ⟨w, hexec hserves hruns, by rw [hwf, hvf, htf], ?_, (hwr r).trans hends.call, (hwp _).trans hvp,
      by rw [hwf, hvd], fun q hq => ?_, ?_, ?_, hkeeps _ hends.reported, ?_, ?_, ?_⟩
    · refine htakes.outOfService rfl (by rw [hwf, hvf]) (hends.lines.trans (.of_lines (by rw [hwf]))) (by rw [hwf, hvf])
        (fun j hj => ?_) (fun j hj => (hwp j).trans (hends.touches.posts j fun e => hj (by rw [e])))
        fun k hk => by rw [hwf]; exact hends.touches.lines k hk
      by_cases hji : j = c.post
      · rw [hji, hwp, hvp, htp]; exact ⟨rfl, rfl⟩
      · rw [hwp, hends.touches.posts j hji]; exact ⟨rfl, rfl⟩
    · rw [hwr, hends.touches.calls q hq, htf]; rfl
    · rw [hwf]
      refine Vector.ext fun q hlt => (hpositions ⟨q, hlt⟩).trans ?_
      rw [State.heldDropped, if_neg (by simp [hst]), htf]
      rfl
    · rw [hwf, hends.queue, if_neg (by simp [hst]), htf]
    · rw [hwf, hspeech, htf]
    · rw [hwf, hvf, htf]
    · rw [hwf, hvf, htf]

end Sys2Proof.Machine
end

section
/-! SUPPORT. The events of an exchange in flight (R24, R28 to R30): the end of a telegram, the arbitration field, and the end
of a window. -/

namespace Sys2Proof.Machine

theorem updateLine_congr {l : LineId} {s : State} {f g : LineSide → LineSide} (h : f (s.line l) = g (s.line l)) :
    s.updateLine l f = s.updateLine l g := by rw [State.updateLine, h]; rfl

theorem updateLine_self_line (l : LineId) (f : LineSide → LineSide) (s : State) :
    (s.updateLine l f).line l = f (s.line l) := by rw [updateLine_line, if_pos rfl]

theorem discards_serving {l : LineId} {s : State} (h : (s.line l).state = .serving) : s.discards l = false := by
  rw [State.discards, h]; rfl

theorem afterExchange_serving {l : LineId} {s : State} (h : (s.line l).state = .serving) : afterExchange l s = .ok () s :=
  afterExchange_quiet l s (by rw [h]; decide) (by rw [h]; decide)

/-! ### The end of a window (R28, R30) -/

/-- A line side as the end of a window leaves it. -/
def LineSide.windowEnded (x : LineSide) : LineSide := { x with exchange := none, afterTelegram := false, afterSweep := false }

theorem endWindow_serving {l : LineId} {s : State} {e : Exchange} (hx : (s.line l).exchange = some e)
    (hp : e.purpose = .window) (hst : (s.line l).state = .serving) :
    endWindow l s = .ok () (s.updateLine l LineSide.windowEnded) := by
  have hline : s.endExchange l e = s.updateLine l LineSide.windowEnded := by
    refine updateLine_congr ?_
    rw [LineSide.ended, hp]
    rfl
  refine (Op.bind_ok (Op.get_apply _)).trans ?_
  rw [hx]
  refine (Op.bind_ok (Op.set_apply _ _)).trans ?_
  rw [hline]
  have hstate : ((s.updateLine l LineSide.windowEnded).line l).state = .serving := by
    rw [updateLine_self_line]; exact hst
  exact afterExchange_serving hstate

theorem countError_below {l : LineId} {s : State} (h : (s.line l).errors + 1 < s.errorLimit) :
    countError l s = .ok () (s.updateLine l (fun x => { x with errors := x.errors + 1 })) := by
  refine (Op.bind_ok (Op.get_apply _)).trans ((congrFun (if_neg (by omega)) _).trans ?_)
  rfl

theorem lineError_below {l : LineId} {s : State} (hst : (s.line l).state = .serving)
    (h : (s.line l).errors + 1 < s.errorLimit) :
    lineError l s = .ok () (s.updateLine l (fun x => { x with errors := x.errors + 1 })) := by
  refine (Op.bind_ok (Op.get_apply _)).trans ?_
  rw [discards_serving hst]
  exact countError_below h

theorem failWindow_serving {l : LineId} {s : State} {e : Exchange} (hx : (s.line l).exchange = some e)
    (hp : e.purpose = .window) (hst : (s.line l).state = .serving) (h : (s.line l).errors + 1 < s.errorLimit) :
    failWindow l s
      = .ok () ((s.updateLine l (fun x => { x with errors := x.errors + 1 })).updateLine l LineSide.windowEnded) := by
  refine (Op.bind_ok (lineError_below hst h)).trans (endWindow_serving (e := e) ?_ hp ?_) <;>
    rw [updateLine_self_line] <;> assumption

/-! ### The part's telegram sent (R24, R29) -/

theorem telegramTransmitted_sending {l : LineId} {s : State} {e : Exchange} (hx : (s.line l).exchange = some e)
    (hp : e.phase = .sending) : telegramTransmitted l s = .ok () (s.updateLine l (fun x =>
      { x with exchange := some { e with phase := .awaiting (s.after s.replyTicks) } })) := by
  refine (Op.bind_ok (Op.get_apply _)).trans ?_
  rw [hx]
  dsimp only
  rw [hp]
  rfl

theorem telegramTransmitted_answering {l : LineId} {s : State} {e : Exchange} (hx : (s.line l).exchange = some e)
    (hp : e.phase = .answering) : telegramTransmitted l s = endWindow l s := by
  refine (Op.bind_ok (Op.get_apply _)).trans ?_
  rw [hx]
  dsimp only
  rw [hp]

/-! ### The arbitration field (R28) -/

theorem readArbitration_arbitrating {l : LineId} {s : State} {e : Exchange} (n : BitVec 6)
    (hx : (s.line l).exchange = some e) (hp : e.phase = .arbitrating) :
    readArbitration l n s = (if n = 63 then endWindow l else
      match dropArg (n.setWidth 16) with
      | some d => set (s.updateLine l (fun x => { x with
          exchange := some { e with drop := d, phase := .awaiting (s.after s.replyTicks) } }))
      | none => failWindow l) s := by
  refine (Op.bind_ok (Op.get_apply _)).trans ?_
  rw [hx]
  exact congrFun (if_pos hp) _

theorem dropArg_arbitration {n : BitVec 6} {d : Fin 32} (h : n.toNat = d.val + 1) : dropArg (n.setWidth 16) = some d := by
  have hwide : (n.setWidth 16).toNat = d.val + 1 := by
    rw [BitVec.toNat_setWidth, h]
    exact Nat.mod_eq_of_lt (by omega)
  rw [dropArg, dif_pos (by omega)]
  exact congrArg some (Fin.ext (by simp only [hwide]; omega))

theorem dropArg_outside {n : BitVec 6} (h : n.toNat = 0 ∨ 33 ≤ n.toNat ∧ n.toNat ≤ 62) :
    dropArg (n.setWidth 16) = none := by
  have hwide : (n.setWidth 16).toNat = n.toNat := by
    rw [BitVec.toNat_setWidth]
    exact Nat.mod_eq_of_lt (by omega)
  rw [dropArg, dif_neg (by omega)]

/-- Settles O53: the exchange's phase decides what the end of a telegram does, and the field's value what arbitration does. -/
theorem sentTelegramAndArbitrationStartReplyTime : Obligations.SentTelegramAndArbitrationStartReplyTime := by
  intro s l e hx
  refine ⟨fun hp => next_event (telegramTransmitted_sending hx hp), fun hp hpurpose hst =>
    next_event ((telegramTransmitted_answering hx hp).trans (endWindow_serving hx hpurpose hst)), fun hp hpurpose hst => ?_⟩
  refine ⟨?_, fun n d hn => ?_, fun n hn herr => ?_⟩
  · exact next_event ((readArbitration_arbitrating 63 hx hp).trans
      ((congrFun (if_pos rfl) _).trans (endWindow_serving hx hpurpose hst)))
  · have hne : n ≠ 63 := fun e => by rw [e] at hn; have := d.isLt; simp at hn; omega
    refine next_event ((readArbitration_arbitrating n hx hp).trans ((congrFun (if_neg hne) _).trans ?_))
    rw [dropArg_arbitration hn]
    rfl
  · have hne : n ≠ 63 := fun e => by rw [e] at hn; simp at hn
    refine next_event ((readArbitration_arbitrating n hx hp).trans ((congrFun (if_neg hne) _).trans ?_))
    rw [dropArg_outside hn]
    exact failWindow_serving hx hpurpose hst herr

end Sys2Proof.Machine
end

section
/-! SUPPORT. The choice of the next exchange (R31, R34, R42). -/

namespace Sys2Proof.Machine

/-! ### The most overdue poll (R31, R34) -/

theorem lateness_of_mostOverdue {s : State} {l : LineId} {ds : List (Fin 32)} {d : Fin 32} {n : Nat}
    (h : s.mostOverdue l ds = some (d, n)) : d ∈ ds ∧ s.lateness l d = some n := by
  induction ds with
  | nil => simp [State.mostOverdue] at h
  | cons x rest ih =>
    rw [State.mostOverdue] at h
    split at h
    next => exact ⟨List.mem_cons_of_mem _ (ih h).1, (ih h).2⟩
    next m hx _ =>
      obtain ⟨rfl, rfl⟩ : x = d ∧ m = n := by simpa using h
      exact ⟨List.mem_cons_self, hx⟩
    next m d' n' hx hrest =>
      split at h
      · obtain ⟨rfl, rfl⟩ : x = d ∧ m = n := by simpa using h
        exact ⟨List.mem_cons_self, hx⟩
      · have hd := ih (hrest.trans h)
        exact ⟨List.mem_cons_of_mem _ hd.1, hd.2⟩

theorem mostOverdue_none {s : State} {l : LineId} (h : ∀ k, s.lateness l k = none) (ds : List (Fin 32)) :
    s.mostOverdue l ds = none := by
  cases hm : s.mostOverdue l ds with
  | none => rfl
  | some x => exact absurd ((h x.1).symm.trans (lateness_of_mostOverdue hm).2) (by simp)

/-- The poll of greatest lateness is chosen, and of equal ones that of the lower drop. -/
theorem mostOverdue_greatest {s : State} {l : LineId} {d : Fin 32} {n : Nat} (hd : s.lateness l d = some n)
    (hmax : ∀ k m, s.lateness l k = some m → m < n ∨ m = n ∧ d.val ≤ k.val) {ds : List (Fin 32)} (hmem : d ∈ ds)
    (hsorted : ds.Pairwise (· < ·)) : s.mostOverdue l ds = some (d, n) := by
  induction ds with
  | nil => simp at hmem
  | cons x rest ih =>
    obtain ⟨hx, hrest⟩ := List.pairwise_cons.mp hsorted
    by_cases hdx : d = x
    · subst hdx
      rw [State.mostOverdue, hd]
      cases hm : s.mostOverdue l rest with
      | none => rfl
      | some y =>
        have hle : y.2 ≤ n := by
          rcases hmax y.1 y.2 (lateness_of_mostOverdue hm).2 with h | h <;> omega
        exact if_pos hle
    · have hin : d ∈ rest := (List.mem_cons.mp hmem).resolve_left hdx
      rw [State.mostOverdue, ih hin hrest]
      cases hm : s.lateness l x with
      | none => rfl
      | some m =>
        have hlt := hx d hin
        have hm' : ¬ n ≤ m := by
          rcases hmax x m hm with h | ⟨-, h⟩
          · omega
          · exact absurd (Fin.lt_def.mp hlt) (by omega)
        exact if_neg hm'

/-! ### What a line side chooses (R31, R42) -/

section Chooses

variable {l : LineId} {s : State} (hx : (s.line l).exchange = none)
include hx

theorem chooseNext_by_state : chooseNext l s = (match (s.line l).state, (s.line l).service with
    | .serving, _ => chooseServing l
    | .sweeping, _ => chooseSweeping l
    | .finishing, d :: _ => sendCommand l d
    | .finishing, [] | .off, _ | .halting, _ => pure () : Op Unit) s := by
  refine (Op.bind_ok (Op.get_apply _)).trans ?_
  rw [hx]
  rfl

theorem chooseNext_serving (h : (s.line l).state = .serving) : chooseNext l s = chooseServing l s := by
  rw [chooseNext_by_state hx, h]

theorem chooseNext_sweeping (h : (s.line l).state = .sweeping) : chooseNext l s = chooseSweeping l s := by
  rw [chooseNext_by_state hx, h]

theorem chooseNext_finishing (h : (s.line l).state = .finishing) {d : Fin 32} {rest : List (Fin 32)}
    (hs : (s.line l).service = d :: rest) : chooseNext l s = sendCommand l d s := by
  rw [chooseNext_by_state hx, h, hs]

theorem chooseNext_idle (h : (s.line l).state = .off ∨ (s.line l).state = .halting
    ∨ (s.line l).state = .finishing ∧ (s.line l).service = []) : chooseNext l s = .ok () s := by
  rw [chooseNext_by_state hx]
  rcases h with h | h | ⟨h, hs⟩
  · rw [h]; rfl
  · rw [h]; rfl
  · rw [h, hs]; rfl

end Chooses

theorem chooseServing_window {l : LineId} {s : State} (h : (s.line l).afterTelegram = true) :
    chooseServing l s = .ok () (s.openWindow l) :=
  (Op.bind_ok (Op.get_apply _)).trans (congrFun (if_pos h) _)

section Serving

variable {l : LineId} {s : State} (h : (s.line l).afterTelegram = false)
include h

theorem chooseServing_by_need : chooseServing l s = (match s.probeAsked l, (s.line l).service with
    | some d, _ => set ((s.updateLine l (fun x => { x with probe := none })).startExchange l (.probe false) d .identify)
    | none, d :: _ => sendCommand l d
    | none, [] => set (s.pollOrWindow l) : Op Unit) s :=
  (Op.bind_ok (Op.get_apply _)).trans (congrFun (if_neg (by rw [h]; decide)) _)

theorem chooseServing_probe {d : Fin 32} (hp : s.probeAsked l = some d) : chooseServing l s
    = .ok () ((s.updateLine l (fun x => { x with probe := none })).startExchange l (.probe false) d .identify) := by
  rw [chooseServing_by_need h, hp]
  rfl

theorem chooseServing_command (hp : s.probeAsked l = none) {d : Fin 32} {rest : List (Fin 32)}
    (hs : (s.line l).service = d :: rest) : chooseServing l s = sendCommand l d s := by
  rw [chooseServing_by_need h, hp, hs]

theorem chooseServing_poll (hp : s.probeAsked l = none) (hs : (s.line l).service = []) :
    chooseServing l s = .ok () (s.pollOrWindow l) := by
  rw [chooseServing_by_need h, hp, hs]
  rfl

end Serving

theorem chooseSweeping_by_turn (l : LineId) (s : State) : chooseSweeping l s
    = (match (s.line l).afterSweep, (s.line l).service, (s.line l).sweepList with
      | true, d :: _, _ => sendCommand l d
      | _, _, d :: _ => set (s.startExchange l .sweep d .identify)
      | _, _, [] => pure () : Op Unit) s := Op.bind_ok (Op.get_apply _)

theorem chooseSweeping_command {l : LineId} {s : State} (ha : (s.line l).afterSweep = true) {d : Fin 32}
    {rest : List (Fin 32)} (hs : (s.line l).service = d :: rest) : chooseSweeping l s = sendCommand l d s := by
  rw [chooseSweeping_by_turn, ha, hs]

theorem chooseSweeping_drop {l : LineId} {s : State} (ha : (s.line l).afterSweep = false ∨ (s.line l).service = [])
    {d : Fin 32} {rest : List (Fin 32)} (hl : (s.line l).sweepList = d :: rest) :
    chooseSweeping l s = .ok () (s.startExchange l .sweep d .identify) := by
  rw [chooseSweeping_by_turn, hl]
  rcases ha with ha | ha
  · rw [ha]; rfl
  · rw [ha]; cases (s.line l).afterSweep <;> rfl

theorem chooseSweeping_done {l : LineId} {s : State} (ha : (s.line l).afterSweep = false ∨ (s.line l).service = [])
    (hl : (s.line l).sweepList = []) : chooseSweeping l s = .ok () s := by
  rw [chooseSweeping_by_turn, hl]
  rcases ha with ha | ha
  · rw [ha]; rfl
  · rw [ha]; cases (s.line l).afterSweep <;> rfl

/-! ### A command sent (R39) -/

theorem sendCommand_sends {l : LineId} {d : Fin 32} {c : PendingCommand} {tail : List PendingCommand} {s : State}
    (hc : (s.post (postIndex l.segment d)).commands = c :: tail) (hok : (s.post (postIndex l.segment d)).corrupt = false) :
    sendCommand l d s = .ok () ((s.setCommands (postIndex l.segment d) tail).startExchange l (.command c) d
      (.command c.kind)) := by
  refine (Op.bind_ok (readPost_ok s _ hok)).trans ?_
  rw [hc]
  rfl

theorem startExchange_line (l : LineId) (purpose : Purpose) (d : Fin 32) (t : PartTelegram) (s : State) :
    (s.startExchange l purpose d t).line l = (s.line l).send ⟨purpose, d, t, false, .sending⟩ := updateLine_self_line l _ s

theorem startExchange_line_ne {l k : LineId} (h : k ≠ l) (purpose : Purpose) (d : Fin 32) (t : PartTelegram) (s : State) :
    (s.startExchange l purpose d t).line k = s.line k := updateLine_line_ne _ s h

/-- Settles O52: what a line side chooses by its state, by what is asked of it and by what is overdue. -/
theorem lineSideChoosesNextExchange : Obligations.LineSideChoosesNextExchange := by
  intro s l hx
  have hrun {u : State} (h : chooseNext l s = .ok () u) : exec (.chooseNextExchange l) s = .next u.followUp := next_event h
  refine ⟨fun hidle => ?idle, fun hst hwindow => ?window, fun d rest c tail hwhen hs hc hok => ?command,
    fun d ⟨hst, ha⟩ hp => ?probe, fun d n ⟨hst, ha⟩ hp hs hd hmax => ?poll, fun d rest hst hl ha => ?sweep⟩
  case idle =>
    refine hrun ?_
    rcases hidle with h | h | h | ⟨hst, hl, ha⟩
    · exact chooseNext_idle hx (.inl h)
    · exact chooseNext_idle hx (.inr (.inl h))
    · exact chooseNext_idle hx (.inr (.inr h))
    · exact (chooseNext_sweeping hx hst).trans (chooseSweeping_done ha hl)
  case window =>
    refine ⟨s.openWindow l, _, hrun ((chooseNext_serving hx hst).trans ?_), ?_, rfl, rfl, updateLine_self_line l _ s,
      fun k hk => updateLine_line_ne _ s hk, rfl⟩
    · by_cases ha : (s.line l).afterTelegram = true
      · exact chooseServing_window ha
      · obtain ⟨hp, hs, hnone⟩ := hwindow.resolve_left ha
        refine (chooseServing_poll (by simpa using ha) hp hs).trans ?_
        rw [State.pollOrWindow, mostOverdue_none hnone]
    · exact congrArg LineSide.exchange (updateLine_self_line l _ s)
  case command =>
    obtain ⟨t, ht⟩ : ∃ t, t = s.setCommands (postIndex l.segment d) tail := ⟨_, rfl⟩
    have htouch := touchesPost_setCommands (postIndex l.segment d) tail s
    have hself := State.setCommands_self (postIndex l.segment d) tail s
    have hsend := sendCommand_sends hc hok
    rw [← ht] at htouch hself hsend
    obtain ⟨ps, ls, list, htf⟩ := htouch.frame
    obtain ⟨u, hu⟩ : ∃ u, u = t.startExchange l (.command c) d (.command c.kind) := ⟨_, rfl⟩
    have hline : u.line l = (t.line l).send ⟨.command c, d, .command c.kind, false, .sending⟩ := by
      rw [hu]; exact startExchange_line ..
    have hpost (j : Fin 256) : u.post j = t.post j := by rw [hu]; rfl
    rw [← hu] at hsend
    refine ⟨u, hrun (Eq.trans ?_ hsend), by rw [hline]; rfl, by rw [hline]; rfl, (hpost _).trans (hself.trans (by dsimp only; rw [hok])),
      fun j hj => (hpost j).trans (htouch.posts j hj), by rw [hu, htf]; rfl⟩
    · rcases hwhen with ⟨⟨hst, ha⟩, hp⟩ | ⟨hst, ha⟩ | hst
      · exact (chooseNext_serving hx hst).trans (chooseServing_command ha hp hs)
      · exact (chooseNext_sweeping hx hst).trans (chooseSweeping_command ha hs)
      · exact chooseNext_finishing hx hst hs
  case probe =>
    refine ⟨_, ⟨hrun ((chooseNext_serving hx hst).trans (chooseServing_probe ha hp)), ?_, fun k hk => ?_, rfl⟩, ?_⟩
    · rw [startExchange_line, updateLine_self_line]; rfl
    · rw [startExchange_line_ne hk, updateLine_line_ne _ _ hk]
    · rw [startExchange_line, updateLine_self_line]; rfl
  case poll =>
    have hpoll : s.pollOrWindow l = s.startExchange l .poll d (pollTelegram (s.post (postIndex l.segment d))) := by
      rw [State.pollOrWindow, mostOverdue_greatest hd hmax (List.mem_finRange d) (List.pairwise_lt_finRange 32)]
    refine ⟨_, ⟨hrun ((chooseNext_serving hx hst).trans ((chooseServing_poll ha hp hs).trans (by rw [hpoll]))), ?_,
      fun k hk => startExchange_line_ne hk _ _ _ s, rfl⟩, ?_⟩
    · rw [startExchange_line]; rfl
    · rw [startExchange_line]; rfl
  case sweep =>
    refine ⟨_, ⟨hrun ((chooseNext_sweeping hx hst).trans (chooseSweeping_drop ha hl)), ?_,
      fun k hk => startExchange_line_ne hk _ _ _ s, rfl⟩, ?_⟩
    · rw [startExchange_line]; rfl
    · rw [startExchange_line]; rfl

end Sys2Proof.Machine
end

section
/-! SUPPORT. A good telegram taken into its post's record (R51, R53, R54, R83): what `applyTelegram` leaves where the side it
gives is the post's own. -/

namespace Sys2Proof.Machine

/-! ### Faults of a post's segment -/

/-- The fault slots with a fault of a post recorded where a condition holds (R54, R171). -/
def slotsIf (now : Time) (i : Fin 256) (c : Prop) [Decidable c] (kind : FaultKind) (detail : BitVec 32)
    (slots : Vector (Option FaultRecord) 9) : Vector (Option FaultRecord) 9 :=
  if c then put slots (segmentSlot (postSegment i))
    (some (FaultRecord.next (slots.get (segmentSlot (postSegment i))) kind ((postDrop i).val + 1) detail now))
  else slots

/-- A fault of a post recorded where a condition holds. -/
def State.faultIf (i : Fin 256) (c : Prop) [Decidable c] (kind : FaultKind) (detail : BitVec 32) (s : State) : State :=
  if c then s.recordFault (segmentSlot (postSegment i)) kind ((postDrop i).val + 1) detail else s

theorem recordFault_keepsReports (k : Fin 9) (kind : FaultKind) (object : Nat) (detail : BitVec 32) (s : State) :
    s.KeepsReports (s.recordFault k kind object detail) := by
  intro o ho
  have hmarked := markObject_keeps (slotOwner k) false false true s.time ho
  unfold State.recordFault
  dsimp only
  split
  · exact markObject_keeps _ _ _ _ _ hmarked
  · exact hmarked

theorem faultIf_keepsReports (i : Fin 256) (c : Prop) [Decidable c] (kind : FaultKind) (detail : BitVec 32) (s : State) :
    s.KeepsReports (s.faultIf i c kind detail) := by
  unfold State.faultIf
  split
  · exact recordFault_keepsReports _ _ _ _ s
  · exact .refl s

theorem faultIf_frame (i : Fin 256) (c : Prop) [Decidable c] (kind : FaultKind) (detail : BitVec 32) (s : State) :
    ∃ l, s.faultIf i c kind detail = { s with reports := { s.reports with
      slots := slotsIf s.time i c kind detail s.reports.slots, list := l } } := by
  by_cases h : c
  · obtain ⟨l, hl⟩ := recordFault_frame (segmentSlot (postSegment i)) kind ((postDrop i).val + 1) detail s
    exact ⟨l, by rw [State.faultIf, if_pos h, hl, slotsIf, if_pos h]⟩
  · exact ⟨s.reports.list, by rw [State.faultIf, if_neg h, slotsIf, if_neg h]⟩

/-! ### The far limit (R83) -/

/-- Lowering the far limit changes the break of the post's segment alone, where its drop lies below that limit. -/
theorem lowerFar_frame (i : Fin 256) (s : State) :
    (∃ sg l, s.lowerFar i = { s with segments := sg, reports := { s.reports with list := l } })
      ∧ s.KeepsReports (s.lowerFar i) := by
  have hbreak (b : Break) : (∃ sg l, s.setBreak (postSegment i) b = { s with
      segments := sg, reports := { s.reports with list := l } }) ∧ s.KeepsReports (s.setBreak (postSegment i) b) := by
    unfold State.setBreak State.setSegment
    split
    · exact ⟨⟨_, _, rfl⟩, keepsReports_report _ _ _ _ _⟩
    · exact ⟨⟨_, _, rfl⟩, .refl s⟩
  unfold State.lowerFar
  dsimp only
  repeat' split
  · exact ⟨⟨_, _, rfl⟩, .refl s⟩
  · exact hbreak _
  · exact ⟨⟨_, _, rfl⟩, .refl s⟩
  · exact ⟨⟨_, _, rfl⟩, .refl s⟩

theorem lowerFar_lowers {i : Fin 256} {s : State} {b : Break} {far : Fin 32} (hb : s.broken (postSegment i) = some b)
    (hcut : b.state ≠ .cut) (hfar : b.farLimit = some far) (hlt : (postDrop i).val < far.val) :
    (s.lowerFar i).segments = put s.segments (postSegment i) { s.segment (postSegment i) with
      broken := some { b with farLimit := some (postDrop i)
                              interval := s.breakInterval (postSegment i) { b with farLimit := some (postDrop i) } } } := by
  have hcond : (b.state != .cut && decide (postDrop i < far)) = true := by
    rw [Bool.and_eq_true, decide_eq_true_eq]
    exact ⟨by simpa using hcut, Fin.lt_def.mpr hlt⟩
  have hmoved : b.farLimit ≠ some (postDrop i) := by
    rw [hfar]
    exact fun e => absurd (congrArg Fin.val (Option.some.inj e)) (by omega)
  have hset : s.lowerFar i = s.setBreak (postSegment i) { b with farLimit := some (postDrop i) } := by
    simp only [State.lowerFar, hb, hfar, hcond, if_true]
  rw [hset, State.setBreak, measuredBreak_farLimit hb hmoved]
  obtain ⟨l, hl⟩ := setSegment_frame (postSegment i) { s.segment (postSegment i) with
    broken := some { b with farLimit := some (postDrop i)
                            interval := s.breakInterval (postSegment i) { b with farLimit := some (postDrop i) } } } s
  rw [hl]

theorem lowerFar_keeps {i : Fin 256} {s : State} (h : ∀ b far, s.broken (postSegment i) = some b → b.farLimit = some far →
    b.state = .cut ∨ far.val ≤ (postDrop i).val) : s.lowerFar i = s := by
  unfold State.lowerFar
  dsimp only
  split
  · rfl
  next b hb =>
    split
    next far hfar =>
      refine if_neg fun hcond => ?_
      rw [Bool.and_eq_true, decide_eq_true_eq, Fin.lt_def] at hcond
      rcases h b far hb hfar with hcut | hle
      · simp [hcut] at hcond
      · omega
    · rfl

/-! ### The post record -/

/-- A post as a good telegram leaves it: its fields as reported, and the identity with its judgement (R51, R53, R54). -/
def State.told (s : State) (i : Fin 256) (t : PostTelegram) : Post :=
  match t.identity with
  | some x => { (s.post i).updated t with identity := some x, identityMatch := s.judge i (some x) }
  | none => (s.post i).updated t

/-- The fault slots as a good telegram leaves them: a MISMATCH that is new or of another identity, a first FAIL and a first
supply low (R53, R54). -/
def State.toldSlots (s : State) (i : Fin 256) (t : PostTelegram) : Vector (Option FaultRecord) 9 :=
  let p := s.post i
  let q := p.updated t
  let judged := match t.identity with
    | some x => slotsIf s.time i (s.judge i (some x) = .differs ∧ (p.identityMatch ≠ .differs ∨ p.identity ≠ some x))
        .wrongIdentity (x.setWidth 32) s.reports.slots
    | none => s.reports.slots
  slotsIf s.time i (q.supplyLow && !p.supplyLow) .supplyLow 0
    (slotsIf s.time i (q.selfTest == .fail && p.selfTest != .fail) .selfTestFail 0 judged)

/-- What a good telegram that a line side hears leaves of its post and of what follows the post (R51 to R54, R77, R83). -/
structure State.Hears (s u : State) (l : LineId) (i : Fin 256) (t : PostTelegram) : Prop where
  frame : ∃ ps ls sg sl list d, u = { s with
    posts := ps, lines := ls, segments := sg, reports := { s.reports with slots := sl, list := list }, dispatchDue := d }
  post : u.post i = s.told i t
  posts : ∀ j, j ≠ i → u.post j = s.post j
  lines : ∀ k, k.segment ≠ postSegment i → u.line k = s.line k
  keeps : s.KeepsReports u
  slots : u.reports.slots = s.toldSlots i t
  far : postSegment i = l.segment → s.FarLimitFollows u l (postDrop i)
  dispatch : u.dispatchDue = (s.dispatchDue || (s.post i).state != .present && (s.told i t).state == .present)

theorem updated_corrupt (p : Post) (t : PostTelegram) : (p.updated t).corrupt = p.corrupt := by
  cases t <;> rfl

theorem updated_side (p : Post) (t : PostTelegram) : (p.updated t).side = p.side := by
  cases t <;> rfl

theorem told_state (s : State) (i : Fin 256) (t : PostTelegram) : (s.told i t).state = ((s.post i).updated t).state := by
  unfold State.told
  split <;> rfl

theorem told_corrupt {s : State} {i : Fin 256} (t : PostTelegram) (h : (s.post i).corrupt = false) :
    (s.told i t).corrupt = false := by
  unfold State.told
  split <;> exact (updated_corrupt _ t).trans h

/-- The post record written with what a telegram reports, and its identity judged. -/
def State.writeTold (s : State) (i : Fin 256) (t : PostTelegram) : State :=
  match t.identity with
  | some x => s.writeJudged i ((s.post i).updated t) (some x)
  | none => s.setPost i ((s.post i).updated t)

/-- The fault slots once the identity that a telegram reports has been judged. -/
def State.judgedSlots (s : State) (i : Fin 256) (t : PostTelegram) : Vector (Option FaultRecord) 9 :=
  match t.identity with
  | some x => slotsIf s.time i (s.judge i (some x) = .differs ∧ ((s.post i).identityMatch ≠ .differs
      ∨ (s.post i).identity ≠ some x)) .wrongIdentity (x.setWidth 32) s.reports.slots
  | none => s.reports.slots

theorem writeTold_hears {s : State} {i : Fin 256} (t : PostTelegram) (h : (s.post i).corrupt = false) :
    (∃ ps ls list, s.writeTold i t = { s with
        posts := ps, lines := ls, reports := { s.reports with slots := s.judgedSlots i t, list := list } })
      ∧ (s.writeTold i t).post i = s.told i t ∧ (∀ j, j ≠ i → (s.writeTold i t).post j = s.post j)
      ∧ s.LinesServe (s.writeTold i t) ∧ (∀ k, k.segment ≠ postSegment i → (s.writeTold i t).line k = s.line k)
      ∧ s.KeepsReports (s.writeTold i t) := by
  obtain ⟨v, hv⟩ : ∃ v, v = s.setPost i (s.told i t) := ⟨_, rfl⟩
  have htouch : s.TouchesPost v i := hv ▸ touchesPost_setPost i _ s
  have hserve : s.LinesServe v := hv ▸ setPost_linesServe i _ s
  have hpost : v.post i = s.told i t := hv ▸ setPost_checked i (told_corrupt t h) s
  obtain ⟨ps, ls, list, hvf⟩ := htouch.frame
  cases hx : t.identity with
  | none =>
    have hwritten : s.writeTold i t = v := by rw [hv, State.writeTold, State.told, hx]
    have hslots : s.judgedSlots i t = s.reports.slots := by rw [State.judgedSlots, hx]
    rw [hwritten, hslots]
    exact ⟨⟨ps, ls, list, hvf⟩, hpost, htouch.posts, hserve, htouch.lines, htouch.reports⟩
  | some x =>
    obtain ⟨c, hc⟩ : ∃ c : Prop, c = (s.judge i (some x) = .differs ∧ ((s.post i).identityMatch ≠ .differs
      ∨ (s.post i).identity ≠ some x)) := ⟨_, rfl⟩
    have hwritten : s.writeTold i t = v.faultIf i (s.judge i (some x) = .differs ∧ ((s.post i).identityMatch ≠ .differs
        ∨ (s.post i).identity ≠ some x)) .wrongIdentity (x.setWidth 32) := by
      rw [hv, State.writeTold, State.told, hx]
      rfl
    obtain ⟨list', hl⟩ := faultIf_frame i (s.judge i (some x) = .differs ∧ ((s.post i).identityMatch ≠ .differs
        ∨ (s.post i).identity ≠ some x)) .wrongIdentity (x.setWidth 32) v
    have hkeeps := faultIf_keepsReports i (s.judge i (some x) = .differs ∧ ((s.post i).identityMatch ≠ .differs
        ∨ (s.post i).identity ≠ some x)) .wrongIdentity (x.setWidth 32) v
    have hslots : s.judgedSlots i t = slotsIf v.time i (s.judge i (some x) = .differs
        ∧ ((s.post i).identityMatch ≠ .differs ∨ (s.post i).identity ≠ some x)) .wrongIdentity (x.setWidth 32)
        v.reports.slots := by rw [State.judgedSlots, hx, hvf]
    rw [← hwritten] at hl hkeeps
    rw [hslots]
    refine ⟨⟨ps, ls, list', by rw [hl, hvf]⟩, by rw [hl]; exact hpost, fun j hj => by rw [hl]; exact htouch.posts j hj,
      hserve.trans (.of_lines (by rw [hl])), fun k hk => by rw [hl]; exact htouch.lines k hk,
      htouch.reports.trans hkeeps⟩

/-- A good telegram applied to a post that keeps its side. -/
theorem applyTelegram_hears {s : State} {l : LineId} {i : Fin 256} {side : Side} (t : PostTelegram)
    (h : (s.post i).corrupt = false) (hside : side = (s.post i).side) :
    ∃ u, applyTelegram l i t side s = .ok () u ∧ s.Hears u l i t ∧ s.LinesServe u := by
  subst hside
  obtain ⟨hvf, hpost, hposts, hserve, hlines, hkeeps⟩ := writeTold_hears t h
  obtain ⟨v, hv⟩ : ∃ v, v = s.writeTold i t := ⟨_, rfl⟩
  rw [← hv] at hvf hpost hposts hserve hlines hkeeps
  obtain ⟨ps, ls, list, hvf⟩ := hvf
  obtain ⟨q, hq⟩ : ∃ q, q = (s.post i).updated t := ⟨_, rfl⟩
  obtain ⟨a, ha⟩ : ∃ a, a = v.faultIf i (q.selfTest == .fail && (s.post i).selfTest != .fail) .selfTestFail 0 := ⟨_, rfl⟩
  obtain ⟨list₁, haf⟩ := faultIf_frame i (q.selfTest == .fail && (s.post i).selfTest != .fail) .selfTestFail 0 v
  have hak := faultIf_keepsReports i (q.selfTest == .fail && (s.post i).selfTest != .fail) .selfTestFail 0 v
  rw [← ha] at haf hak
  obtain ⟨b, hb⟩ : ∃ b, b = a.faultIf i (q.supplyLow && !(s.post i).supplyLow) .supplyLow 0 := ⟨_, rfl⟩
  obtain ⟨list₂, hbf⟩ := faultIf_frame i (q.supplyLow && !(s.post i).supplyLow) .supplyLow 0 a
  have hbk := faultIf_keepsReports i (q.supplyLow && !(s.post i).supplyLow) .supplyLow 0 a
  rw [← hb] at hbf hbk
  obtain ⟨hears, hhears⟩ : ∃ hears : Bool, hears = (l.side == .far && (s.post i).side == .far && q.state == .present) := ⟨_, rfl⟩
  obtain ⟨c, hc⟩ : ∃ c, c = if hears then b.lowerFar i else b := ⟨_, rfl⟩
  obtain ⟨rises, hrises⟩ : ∃ rises : Bool, rises = ((s.post i).state != .present && q.state == .present) := ⟨_, rfl⟩
  obtain ⟨u, hu⟩ : ∃ u, u = if rises then c.wantDispatch else c := ⟨_, rfl⟩
  have hrun : applyTelegram l i t (s.post i).side s = .ok () u := by
    have hsame : s.setSide i (s.post i).side = s := if_pos (by simp)
    refine (Op.bind_ok (readPost_ok s i h)).trans ((Op.bind_ok (Op.modify_apply _ _)).trans ?_)
    rw [hsame, Op.modify_apply, hu, hc, hb, ha, hv, hrises, hhears, hq]
    rfl
  have hbs : b = { s with posts := ps, lines := ls, reports := b.reports } := by rw [hbf, haf, hvf]
  have hbslots : b.reports.slots = s.toldSlots i t := by
    rw [hbf, haf, hvf, State.toldSlots, hq]
    rfl
  have hcf : (∃ sg l, c = { b with segments := sg, reports := { b.reports with list := l } }) ∧ b.KeepsReports c := by
    rw [hc]
    split
    · exact lowerFar_frame i b
    · exact ⟨⟨_, _, rfl⟩, .refl b⟩
  obtain ⟨⟨sg, list₃, hcf⟩, hck⟩ := hcf
  have huf : u = { c with dispatchDue := c.dispatchDue || rises } := by
    rw [hu]
    cases rises <;> simp [State.wantDispatch]
  have hup (j : Fin 256) : u.post j = v.post j := by rw [huf, hcf, hbf, haf]; rfl
  have hstate : (u.post i).state = q.state := by rw [hup, hpost, told_state, hq]
  refine ⟨u, hrun, ⟨?_, (hup i).trans hpost, fun j hj => (hup j).trans (hposts j hj),
    fun k hk => Eq.trans ?_ (hlines k hk), ?_, ?_, fun hg => ?_, ?_⟩, hserve.trans (.of_lines ?_)⟩
  · rw [huf, hcf, hbf, haf, hvf]
    exact ⟨_, _, _, _, _, _, rfl⟩
  · rw [huf, hcf, hbf, haf]; rfl
  · have hcu : c.KeepsReports u := by rw [huf]; exact .refl c
    exact hkeeps.trans (hak.trans (hbk.trans (hck.trans hcu)))
  · rw [huf, hcf]
    exact hbslots
  · have hi : postIndex l.segment (postDrop i) = i := by rw [← hg]; exact postIndex_postSegment_postDrop i
    have hsegments : u.segments = c.segments := by rw [huf]
    have hwhen : hears = true ↔ l.side = .far ∧ (s.post i).side = .far ∧ (u.post i).state = .present := by
      rw [hhears, hstate]
      simp [and_assoc]
    have hbg (g : Fin 8) : b.broken g = s.broken g ∧ b.segment g = s.segment g ∧ b.segments = s.segments
        ∧ ∀ x, b.breakInterval g x = s.breakInterval g x := by rw [hbs]; exact ⟨rfl, rfl, rfl, fun _ => rfl⟩
    obtain ⟨hbroken, hsegment, hsegs, hinterval⟩ := hbg (postSegment i)
    unfold State.FarLimitFollows
    dsimp only
    rw [hi, ← hg, hsegments, hc]
    refine ⟨fun x far hh hx hcut hfar hlt => ?_, fun hno => ?_⟩
    · rw [if_pos (hwhen.mpr hh), lowerFar_lowers (by rw [hbroken]; exact hx) hcut hfar hlt, hsegs, hsegment, hinterval]
    · split
      next hh =>
        rw [lowerFar_keeps fun x far hx hfar => (hno.resolve_left fun e => e (hwhen.mp hh)) x far (by rw [← hbroken]; exact hx) hfar]
        exact hsegs
      next => exact hsegs
  · rw [huf, hcf, hbs, hrises, told_state, hq]
  · rw [huf, hcf, hbf, haf]

end Sys2Proof.Machine
end

section
/-! SUPPORT. A good reply to a telegram exchange (R24), the hook state it hands to the call table (R101), and the obligations
about STATUS, IDENT and the DONE of a CONNECT. -/

namespace Sys2Proof.Machine

/-! ### Reception (R24, R30) -/

theorem receiveTelegram_reply {s : State} {l : LineId} {e : Exchange} {deadline : Time} (f : Option (Fin 32 × PostTelegram))
    (hx : (s.line l).exchange = some e) (hphase : e.phase = .awaiting deadline) (hp : e.purpose ≠ .window) :
    receiveTelegram l f s = receiveReply l e f s := by
  refine (Op.bind_ok (Op.get_apply _)).trans ?_
  rw [hx]
  dsimp only
  rw [hphase]
  cases hpurpose : e.purpose with
  | window => exact absurd hpurpose hp
  | _ => rfl

theorem receiveTelegram_window {s : State} {l : LineId} {e : Exchange} {deadline : Time} (f : Option (Fin 32 × PostTelegram))
    (hx : (s.line l).exchange = some e) (hphase : e.phase = .awaiting deadline) (hp : e.purpose = .window) :
    receiveTelegram l f s = receiveInWindow l e f s := by
  refine (Op.bind_ok (Op.get_apply _)).trans ?_
  rw [hx]
  dsimp only
  rw [hphase, hp]

theorem receiveTelegram_stray {s : State} {l : LineId} (f : Option (Fin 32 × PostTelegram))
    (hx : (s.line l).exchange = none) : receiveTelegram l f s = receiveStray l f s := by
  refine (Op.bind_ok (Op.get_apply _)).trans ?_
  rw [hx]

theorem receiveReply_good {l : LineId} {e : Exchange} {t t' : PostTelegram} (ht : e.taken t = some t')
    (hexpects : e.telegram.expects t' = true) : receiveReply l e (some (e.drop, t)) = goodReply l e t' := by
  simp only [receiveReply, if_true, ht, hexpects]

/-! ### The end of a telegram exchange with a good reply (R24) -/

/-- A line side in SERVING that a telegram exchange with a good reply has left. -/
structure State.Replied (u : State) (l : LineId) : Prop where
  exchange : (u.line l).exchange = none
  errors : (u.line l).errors = 0
  after : (u.line l).afterTelegram = true
  state : (u.line l).state = .serving

theorem State.Replied.of_serve {t u : State} {l : LineId} (h : t.Replied l) (hserve : t.LinesServe u) : u.Replied l := by
  obtain ⟨_, _, hl⟩ := hserve l
  exact ⟨by rw [hl]; exact h.exchange, by rw [hl]; exact h.errors, by rw [hl]; exact h.after, by rw [hl]; exact h.state⟩

/-- A telegram heard after a change of its own line side alone is heard as before it. -/
theorem State.Hears.of_updateLine {s u : State} {l : LineId} {i : Fin 256} {t : PostTelegram} {f : LineSide → LineSide}
    (h : (s.updateLine l f).Hears u l i t) (hi : postSegment i = l.segment) : s.Hears u l i t where
  frame := by
    obtain ⟨_, _, _, _, _, _, hu⟩ := h.frame
    exact ⟨_, _, _, _, _, _, hu⟩
  post := h.post
  posts := h.posts
  lines k hk := (h.lines k hk).trans (updateLine_line_ne f s fun e => hk (by rw [e, hi]))
  keeps := h.keeps
  slots := h.slots
  far := h.far
  dispatch := h.dispatch

/-- A good reply to a poll or a command: the exchange ends, and the post hears the telegram; its hook state and its outcome
follow. -/
theorem goodReply_hears {s : State} {l : LineId} {e : Exchange} {i : Fin 256} (t : PostTelegram)
    (hst : (s.line l).state = .serving) (hp : e.purpose = .poll ∨ ∃ c, e.purpose = .command c)
    (hi : i = postIndex l.segment e.drop) (hc : (s.post i).corrupt = false) :
    ∃ v, s.Hears v l i t ∧ v.Replied l ∧ ∀ u, u.Replied l →
      (reportHook i t >>= fun _ => replyOutcome l e i (s.post i).liveCall.isSome t) v = .ok () u →
      goodReply l e t s = .ok () u := by
  subst hi
  obtain ⟨f, hf⟩ : ∃ f : LineSide → LineSide, f = fun x => ({ x with errors := 0 } : LineSide).ended e.purpose e.drop s.time :=
    ⟨_, rfl⟩
  obtain ⟨w, hw⟩ : ∃ w, w = s.updateLine l f := ⟨_, rfl⟩
  have hline : w.line l = f (s.line l) := by rw [hw]; exact updateLine_self_line l f s
  have hside (p : Post) : sideHeard l e.purpose p = p.side := by
    rcases hp with hp | ⟨c, hp⟩ <;> cases hl : l.side <;> simp only [sideHeard, hp, hl]
  obtain ⟨v, hv, hhears, hserve⟩ := applyTelegram_hears (l := l) (s := w) (i := postIndex l.segment e.drop)
    (side := sideHeard l e.purpose (s.post (postIndex l.segment e.drop))) t (by rw [hw]; exact hc)
    (by rw [hside, hw]; rfl)
  have hwindow : e.purpose ≠ .window := by rcases hp with hp | ⟨c, hp⟩ <;> simp [hp]
  have hreplied : w.Replied l := by
    constructor <;> rw [hline, hf]
    · rfl
    · rfl
    · simp [LineSide.ended, hwindow]
    · exact hst
  refine ⟨v, (hw ▸ hhears).of_updateLine (postSegment_postIndex _ _), hreplied.of_serve hserve, fun u hu hrest => ?_⟩
  have hended : (((s.updateLine l (fun x => { x with errors := 0 })).endExchange l e).noteAnswer l e) = w := by
    have hnote (x : State) : x.noteAnswer l e = x := by
      rcases hp with hp | ⟨c, hp⟩ <;> rw [State.noteAnswer, hp] <;> rfl
    rw [hnote, State.endExchange, State.updateLine, updateLine_self_line, hw, hf]
    simp only [State.updateLine]
    rw [put_put]
  have hlive : ¬ (s.discards l || e.purpose == .probe true) = true := by
    rw [discards_serving hst]
    rcases hp with hp | ⟨c, hp⟩ <;> simp [hp]
  have hread : readPost (postIndex l.segment e.drop) w = .ok (s.post (postIndex l.segment e.drop)) w := by
    have hp : w.post (postIndex l.segment e.drop) = s.post (postIndex l.segment e.drop) := by rw [hw]; rfl
    rw [← hp]
    exact readPost_ok w _ (by rw [hp]; exact hc)
  refine (Op.bind_ok (Op.get_apply _)).trans ((Op.bind_ok (Op.set_apply _ _)).trans ?_)
  rw [hended]
  refine (congrFun (if_neg hlive) _).trans ?_
  refine (Op.bind_ok hread).trans ((Op.bind_ok hv).trans ?_)
  refine Eq.trans ?_ ((Op.bind_ok (f := fun _ => afterExchange l) hrest).trans (afterExchange_serving hu.state))
  rw [bind_assoc]

/-! ### What a heard telegram leaves as it was -/

section Heard

variable {s v : State} {l : LineId} {i : Fin 256} {t : PostTelegram} (h : s.Hears v l i t)
include h

theorem State.Hears.sound (hs : s.Sound) : v.Sound := by
  obtain ⟨_, _, _, _, _, _, hv⟩ := h.frame
  have hpost (j : Fin 256) : (v.post j).corrupt = false := by
    by_cases hj : j = i
    · rw [hj, h.post]; exact told_corrupt t (hs.posts i)
    · rw [h.posts j hj]; exact hs.posts j
  rw [hv] at hpost ⊢
  exact ⟨hpost, hs.positions, hs.calls, hs.incidents, hs.channels, hs.crosspoints⟩

/-- A post of side NEAR leaves the far limit as it was (R83). -/
theorem State.Hears.segments (hi : postSegment i = l.segment) (hnear : (s.post i).side = .near) : v.segments = s.segments := by
  have hpost : postIndex l.segment (postDrop i) = i := by rw [← hi]; exact postIndex_postSegment_postDrop i
  refine (h.far hi).2 (.inl fun e => ?_)
  rw [hpost, hnear] at e
  exact Side.noConfusion e.2.1

theorem State.Hears.touchesOnly (hsegments : v.segments = s.segments) (r : Fin 64) (p : Fin 16) (k : Fin 32) :
    s.TouchesOnly v r p i k := by
  obtain ⟨_, _, _, _, _, _, hv⟩ := h.frame
  have hposts := h.posts
  have hlines := h.lines
  rw [hv] at hposts hlines hsegments ⊢
  exact { State.TouchesOnly.refl r p i k s with
    posts := hposts, lines := hlines, tables := ⟨rfl, hsegments, rfl, rfl⟩ }

end Heard

/-! ### The hook state (R101) -/

theorem hookReport_none {s : State} {i : Fin 256} {hook : Hook} (h : (s.post i).liveCall = none)
    (hd : hook = .off ∨ (s.post i).deferred = false) : hookReport i hook s = .ok () s := by
  have hno : ¬ (hook = .on ∧ (s.post i).liveCall = none ∧ (s.post i).deferred = true) := by
    rintro ⟨hon, -, hdef⟩
    rcases hd with hd | hd
    · exact Hook.noConfusion (hd.symm.trans hon)
    · simp [hd] at hdef
  refine (Op.bind_ok (Op.get_apply _)).trans ?_
  rw [h]
  rw [h] at hno
  exact congrFun (if_neg hno) _

theorem hookReport_live {s : State} {i : Fin 256} {hook : Hook} {r : Fin 64} {c : Call}
    (h : (s.post i).liveCall = some c.number) (hn : s.callNumbered c.number = some r) (hr : s.call r = some c)
    (hc : c.corrupt = false) : hookReport i hook s = (match hook, c.state with
      | .on, .ringing => pure ()
      | .off, .ringing => callbackAnswered r
      | .on, _ => endCall r (if c.answered then .callerHungUp else .abandoned)
      | .off, _ => pure () : Op Unit) s := by
  refine (Op.bind_ok (Op.get_apply _)).trans ?_
  rw [h, Option.bind_some, hn]
  exact withCall_ok s r c _ hr hc

theorem hookReport_quiet {s : State} {i : Fin 256} {hook : Hook} {r : Fin 64} {c : Call}
    (h : (s.post i).liveCall = some c.number) (hn : s.callNumbered c.number = some r) (hr : s.call r = some c)
    (hc : c.corrupt = false) (hq : hook = .on ∧ c.state = .ringing ∨ hook = .off ∧ c.state ≠ .ringing) :
    hookReport i hook s = .ok () s := by
  rw [hookReport_live h hn hr hc]
  rcases hq with ⟨hh, hst⟩ | ⟨hh, hst⟩
  · rw [hh, hst]; rfl
  · rw [hh]
    cases hstate : c.state with
    | ringing => exact absurd hstate hst
    | _ => rfl

theorem hookReport_hangsUp {s : State} {i : Fin 256} {r : Fin 64} {c : Call}
    (h : (s.post i).liveCall = some c.number) (hn : s.callNumbered c.number = some r) (hr : s.call r = some c)
    (hc : c.corrupt = false) (hq : c.state ≠ .ringing) :
    hookReport i .on s = endCall r (if c.answered then .callerHungUp else .abandoned) s := by
  rw [hookReport_live h hn hr hc]
  cases hstate : c.state with
  | ringing => exact absurd hstate hq
  | _ => rfl

end Sys2Proof.Machine
end

section
/-! SUPPORT. The obligations about IDENT and STATUS replies to a poll (R51, R53, R54, R101). -/

namespace Sys2Proof.Machine

theorem slotsIf_neg {now : Time} {i : Fin 256} {c : Prop} [Decidable c] {kind : FaultKind} {detail : BitVec 32}
    {slots : Vector (Option FaultRecord) 9} (h : ¬ c) : slotsIf now i c kind detail slots = slots := if_neg h

theorem slotsIf_ne (now : Time) (i : Fin 256) (c : Prop) [Decidable c] (kind : FaultKind) (detail : BitVec 32)
    (slots : Vector (Option FaultRecord) 9) {k : Fin 9} (hk : k ≠ segmentSlot (postSegment i)) :
    (slotsIf now i c kind detail slots).get k = slots.get k := by
  unfold slotsIf
  split
  · exact put_get_ne _ _ _ _ hk
  · rfl

theorem slotsIf_self (now : Time) (i : Fin 256) (c : Prop) [Decidable c] (kind : FaultKind) (detail : BitVec 32)
    (slots : Vector (Option FaultRecord) 9) : (slotsIf now i c kind detail slots).get (segmentSlot (postSegment i))
      = if c then some (FaultRecord.next (slots.get (segmentSlot (postSegment i))) kind ((postDrop i).val + 1) detail now)
        else slots.get (segmentSlot (postSegment i)) := by
  unfold slotsIf
  split
  · exact put_get_self _ _ _
  · rfl

/-! ### IDENT (R43, R51, R53) -/

theorem toldSlots_ident (s : State) (i : Fin 256) (x : Identity) (own : OwnState) (offHook : Bool) :
    s.toldSlots i (.ident x own offHook) = slotsIf s.time i (s.judge i (some x) = .differs
      ∧ ((s.post i).identityMatch ≠ .differs ∨ (s.post i).identity ≠ some x)) .wrongIdentity (x.setWidth 32)
      s.reports.slots :=
  (slotsIf_neg (by simp [Post.updated, Post.heard])).trans (slotsIf_neg (by simp [Post.updated, Post.heard]))

/-- Settles O55: the post hears the telegram, and an idle post asks for nothing more. -/
theorem identIdentifiesPolledPost : Obligations.IdentIdentifiesPolledPost := by
  intro s l e deadline drop payload check x i hx hst hp htel hphase _ hi hdecode hc hlive hdef hstate
  obtain ⟨v, hears, hreplied, hrun⟩ := goodReply_hears (t := .ident x .idle false) hst (.inl hp) hi hc
  have hg : postSegment i = l.segment := by rw [hi]; exact postSegment_postIndex _ _
  have hd : postDrop i = e.drop := by rw [hi]; exact postDrop_postIndex _ _
  obtain ⟨_, _, _, _, _, _, hv⟩ := hears.frame
  have htold : s.told i (.ident x .idle false) = { s.post i with
      state := .present, misses := 0, hook := .on, identity := some x, identityMatch := s.judge i (some x) } := by
    rcases hstate with h | h <;> simp [State.told, PostTelegram.identity, Post.updated, Post.heard, h, Hook.ofBit]
  have hquiet : hookReport i .on v = .ok () v :=
    hookReport_none (by rw [hears.post, htold]; exact hlive) (.inr (by rw [hears.post, htold]; exact hdef))
  have hoff (b : Bool) : identRequest l i b (.ident x .idle false) v = .ok () v := by
    refine (Op.bind_ok (Op.get_apply _)).trans ?_
    rfl
  have hgood : goodReply l e (.ident x .idle false) s = .ok () v := by
    refine hrun v hreplied ((Op.bind_ok (t := v) hquiet).trans ?_)
    rw [replyOutcome, hp]
    exact hoff _
  refine ⟨v, s.judge i (some x), next_event ?_, ?_, hears.post.trans htold, hreplied.exchange, hreplied.errors, ?_,
    hears.posts, hd ▸ hears.far hg, by rw [hv]⟩
  · rw [decodeParts, hdecode, receiveTelegram_reply _ hx hphase (by simp [hp]), receiveReply_good rfl (by rw [htel]; rfl)]
    exact hgood
  · simp only [State.judge, State.entryInUse, Bool.and_eq_true]
  · rw [hears.slots, toldSlots_ident, slotsIf, hg, hd]

/-! ### STATUS (R54, R101) -/

theorem toldSlots_status (s : State) (i : Fin 256) (hook : Hook) (request : Bool) (test : SelfTest) (low door : Bool) :
    s.toldSlots i (.status hook request test low door) = slotsIf s.time i (low && !(s.post i).supplyLow) .supplyLow 0
      (slotsIf s.time i (test == .fail && (s.post i).selfTest != .fail) .selfTestFail 0 s.reports.slots) := rfl

/-- The post's record as a STATUS leaves it. -/
def Post.reportedStatus (p : Post) (hook : Hook) (request : Bool) (test : SelfTest) (low door : Bool) : Post :=
  { p with
    state := if p.state = .isolated then .isolated else .present
    misses := 0, hook := hook, requestPending := request, selfTest := test, supplyLow := low, doorOpen := door }

theorem told_status (s : State) (i : Fin 256) (hook : Hook) (request : Bool) (test : SelfTest) (low door : Bool) :
    s.told i (.status hook request test low door) = (s.post i).reportedStatus hook request test low door := by
  rw [Post.reportedStatus]
  cases h : (s.post i).state <;> simp [State.told, PostTelegram.identity, Post.updated, Post.heard, h]

section Status

variable {s v : State} {l : LineId} {e : Exchange} {i : Fin 256} {hook : Hook} {request : Bool} {test : SelfTest} {low door : Bool}
  (hears : s.Hears v l i (.status hook request test low door)) (hi : i = postIndex l.segment e.drop)
include hears hi

/-- A STATUS records its faults, and its hook state leaves what they and the exchange are. -/
theorem hears_status_slots {u : State} (hu : u.reports.slots = v.reports.slots) :
    u.reports.slots.get (segmentSlot l.segment) = (if low = true ∧ (s.post i).supplyLow = false then some (FaultRecord.next
        (if test = .fail ∧ (s.post i).selfTest ≠ .fail then some (FaultRecord.next (s.reports.slots.get (segmentSlot l.segment))
          .selfTestFail (e.drop.val + 1) 0 s.time) else s.reports.slots.get (segmentSlot l.segment))
        .supplyLow (e.drop.val + 1) 0 s.time)
      else if test = .fail ∧ (s.post i).selfTest ≠ .fail then some (FaultRecord.next
          (s.reports.slots.get (segmentSlot l.segment)) .selfTestFail (e.drop.val + 1) 0 s.time)
        else s.reports.slots.get (segmentSlot l.segment)) := by
  have hg : postSegment i = l.segment := by rw [hi]; exact postSegment_postIndex _ _
  have hd : postDrop i = e.drop := by rw [hi]; exact postDrop_postIndex _ _
  rw [hu, hears.slots, toldSlots_status, ← hg, slotsIf_self, slotsIf_self, hd]
  simp only [Bool.and_eq_true, Bool.not_eq_true', beq_iff_eq, bne_iff_ne]

theorem hears_status_otherSlots {u : State} (hu : u.reports.slots = v.reports.slots) (k : Fin 9)
    (hk : k ≠ segmentSlot l.segment) : u.reports.slots.get k = s.reports.slots.get k := by
  have hg : postSegment i = l.segment := by rw [hi]; exact postSegment_postIndex _ _
  rw [← hg] at hk
  rw [hu, hears.slots, toldSlots_status, slotsIf_ne _ _ _ _ _ _ hk, slotsIf_ne _ _ _ _ _ _ hk]

end Status

/-- The cause that a hang-up gives the call of its post (R101). -/
def Call.hangUp (c : Call) : EndCause := if c.answered = true then .callerHungUp else .abandoned

theorem hangUp_keeps (c : Call) (st : CallState) (p : PostState) : c.hangUp.releases st p = false := by
  unfold Call.hangUp
  split <;> rfl

theorem hangUp_offerOutcome (c : Call) : c.hangUp.offerOutcome = .callerGone := by
  unfold Call.hangUp
  split <;> rfl

/-- The post of a call that a hang-up has ended. -/
theorem endsCall_hangUp_post {v u : State} {r : Fin 64} {c : Call} {p : Fin 16} {k : Fin 32} (h : v.EndsCall u r c p k c.hangUp)
    (hlive : (v.post c.post).liveCall = some c.number) : u.post c.post = { v.post c.post with liveCall := none } := by
  refine h.post.trans ?_
  rw [hangUp_keeps]
  simp only [State.postEnded, Bool.false_eq_true, if_false, hlive, if_true]

/-- Settles O54: the post hears the telegram, and the call table what its hook state says of the live call. -/
theorem statusUpdatesPolledPost : Obligations.StatusUpdatesPolledPost := by
  intro s l e deadline drop payload check hook request test low door i hx hst hp htel hphase _ hi hdecode hc
  obtain ⟨v, hears, hreplied, hrun⟩ := goodReply_hears (t := .status hook request test low door) hst (.inl hp) hi hc
  have hg : postSegment i = l.segment := by rw [hi]; exact postSegment_postIndex _ _
  have hd : postDrop i = e.drop := by rw [hi]; exact postDrop_postIndex _ _
  have htold := hears.post.trans (told_status s i hook request test low door)
  have hlive : (v.post i).liveCall = (s.post i).liveCall := by rw [htold]; rfl
  have hdef : (v.post i).deferred = (s.post i).deferred := by rw [htold]; rfl
  obtain ⟨ps, ls, sg, sl, list, du, hv⟩ := hears.frame
  have hcall (q : Fin 64) : v.call q = s.call q := by rw [hv]; rfl
  have hnumbered (n : Nat) : v.callNumbered n = s.callNumbered n := callNumbered_congr (fun q => by rw [hcall]) n
  have hexec {u : State} (hu : u.Replied l) (hhook : hookReport i hook v = .ok () u) :
      exec (.status l drop payload check) s = .next u.followUp := by
    have hgood : goodReply l e (.status hook request test low door) s = .ok () u := by
      refine hrun u hu ((Op.bind_ok (t := u) hhook).trans ?_)
      rw [replyOutcome, hp]
      exact Op.bind_ok (Op.get_apply _)
    refine next_event (op := receiveTelegram l _) ?_
    rw [decodeParts, hdecode, receiveTelegram_reply _ hx hphase (by simp [hp]), receiveReply_good rfl (by rw [htel]; rfl)]
    exact hgood
  refine ⟨fun hquiet => ?quiet, fun r c hs hon hlivec hl hpost hnear => ?hangsUp⟩
  case quiet =>
    have hhook : hookReport i hook v = .ok () v := by
      rcases hquiet with ⟨hnone, hoff⟩ | ⟨r, c, hsome, hl, hcc, hstate⟩
      · exact hookReport_none (by rw [hlive]; exact hnone) (by rw [hdef]; exact hoff)
      · obtain ⟨hr, -, -⟩ := liveCall_eq_some hl
        exact hookReport_quiet (by rw [hlive]; exact hsome) ((hnumbered _).trans (liveCall_numbered hl))
          ((hcall r).trans hr) hcc hstate
    refine ⟨v, ⟨hexec hreplied hhook, hreplied.exchange, hreplied.errors, hreplied.after, hears_status_slots hears hi rfl,
      hears_status_otherSlots hears hi rfl, hears.posts⟩, htold, hd ▸ hears.far hg, ?_, by rw [hv]⟩
    rw [hears.dispatch, told_status, Post.reportedStatus]
    cases (s.post i).state <;> rfl
  case hangsUp =>
    subst hpost hon
    obtain ⟨hr, -, -⟩ := liveCall_eq_some hl
    have hvr : v.call r = some c := (hcall r).trans hr
    have hvs := hears.sound hs
    have hsegments := hears.segments hg hnear
    have hvlive : (v.post c.post).liveCall = some c.number := hlive.trans hlivec
    have hvnear : (v.post c.post).side = .near := by rw [htold]; exact hnear
    have hruns {u : State} {p : Fin 16} {k : Fin 32} (hne : c.state ≠ .ringing) (hends : v.EndsCall u r c p k c.hangUp)
        (hu : endCall r c.hangUp v = .ok () u) : exec (.status l drop payload check) s = .next u.followUp ∧ u.Replied l
          ∧ u.reports.slots = v.reports.slots ∧ (∀ j, j ≠ c.post → u.post j = s.post j)
          ∧ u.post c.post = { (s.post c.post).reportedStatus .on request test low door with liveCall := none } := by
      have hrep := hreplied.of_serve hends.lines
      obtain ⟨_, _, _, _, _, _, _, _, _, _, huf⟩ := hends.frame
      refine ⟨hexec hrep ((hookReport_hangsUp hvlive ((hnumbered _).trans (liveCall_numbered hl)) hvr
        (hs.call_checked hr) hne).trans hu), hrep, by rw [huf], fun j hj =>
          (hends.touches.posts j hj).trans (hears.posts j hj), (endsCall_hangUp_post hends hvlive).trans (by rw [htold])⟩
    refine ⟨fun hstate hch => ?waits, fun p ch st hspeech hps hch hfree ho hconn => ?speech,
      fun p ch hoffered hps hch ho => ?offered⟩
    case waits =>
      have hst : c.state = .queued ∨ c.state = .held ∨ c.state = .reserved := hstate.imp_right .inl
      obtain ⟨u, hu, hends, hpositions, hspeech, -⟩ := endCall_waits c.hangUp (c.holder.getD 0) 0 hvs hvr hst hch
        fun q _ e => by rw [e]; rfl
      obtain ⟨hnext, hrep, hslots, hposts, hpost⟩ := hruns (by rcases hstate with e | e <;> simp [e]) hends hu
      obtain ⟨_, _, _, _, _, _, _, _, _, _, huf⟩ := hends.frame
      refine ⟨u, ⟨hnext, hrep.exchange, hrep.errors, hrep.after, hears_status_slots hears hi hslots,
        hears_status_otherSlots hears hi hslots, hposts⟩, hends.call, hpost, hends.reported, ?_, ?_, fun q => ?_,
        fun q hq => (hends.touches.calls q hq).trans (hcall q), ?_, ?_, ?_, ?_,
        hends.touches.tables.2.1.trans hsegments⟩
      · rw [hends.queue, hv]
      · rw [hends.overflow, hv]; rfl
      · rw [hpositions, State.heldDropped, hv]; rfl
      · rw [hends.touches.tables.2.2.1, hv]
      · rw [huf, hv]
      · rw [huf, hv]
      · rw [hspeech, hv]
    case speech =>
      have hparty : c.state.hasParty := by rcases hspeech with e | e | e <;> simp [CallState.hasParty, e]
      have hne : c.state ≠ .ringing ∧ c.state ≠ .queued := by rcases hspeech with e | e | e <;> simp [e]
      rw [← hg] at ho hconn ⊢
      obtain ⟨u, hu, hends, hposition, hconnected, hchannel, hreported⟩ := endCall_party c.hangUp hvs hvr hparty hps
        (by rw [hv]; exact hch) hfree (by rw [hv]; exact ho) fun _ => .inl hvnear
      obtain ⟨hnext, hrep, hslots, hposts, hpost⟩ := hruns hne.1 hends hu
      refine ⟨u, ⟨hnext, hrep.exchange, hrep.errors, hrep.after, hg ▸ hears_status_slots hears hi hslots,
        hg ▸ hears_status_otherSlots hears hi hslots, hposts⟩, hends.call, hpost, ?_,
        hconnected (by rw [hv]; exact hconn), hchannel, hends.reported, hreported, ?_, ?_,
        (hears.touchesOnly hsegments r p _).trans hends.touches⟩
      · rw [hposition, State.partyFreed, if_neg hne.1, hv]; rfl
      · rw [hends.queue, if_neg hne.2, hv]
      · rw [hends.overflow, if_neg hne.2, hv]
    case offered =>
      have hne : c.state ≠ .ringing ∧ c.state ≠ .queued := by simp [hoffered]
      rw [← hg] at ho ⊢
      obtain ⟨u, hu, hends, hposition, -, hchannel, hreported⟩ := endCall_onOffer c.hangUp hvs hvr hoffered hps
        (by rw [hv]; exact hch) (by rw [hv]; exact ho)
      obtain ⟨hnext, hrep, hslots, hposts, hpost⟩ := hruns hne.1 hends hu
      refine ⟨u, ⟨hnext, hrep.exchange, hrep.errors, hrep.after, hg ▸ hears_status_slots hears hi hslots,
        hg ▸ hears_status_otherSlots hears hi hslots, hposts⟩, hends.call, hpost, ?_, hchannel, hends.reported, hreported,
        ?_, ?_, (hears.touchesOnly hsegments r p _).trans hends.touches⟩
      · rw [hposition, State.offerEnded, hangUp_offerOutcome, hv]; rfl
      · rw [hends.queue, if_neg hne.2, hv]
      · rw [hends.overflow, if_neg hne.2, hv]

end Sys2Proof.Machine
end

section
/-! SUPPORT. The DONE of a CONNECT (R102, R121, R152), and the obligation about it. -/

namespace Sys2Proof.Machine

/-- Where no check code fails, the lead of an answered member's incident is fixed (R121). -/
theorem memberAnswered_sound (c : Call) (s : State) (h : ∀ k x, s.incident k = some x → x.corrupt = false) :
    ∃ t, memberAnswered c s = .ok () t ∧ s.TouchesIncidents t := by
  have same : s.TouchesIncidents s := ⟨⟨_, _, rfl⟩, .refl s⟩
  cases hk : c.incident.bind s.liveIncident with
  | none => exact ⟨s, by simp [memberAnswered, hk], same⟩
  | some k =>
    cases hx : s.incident k with
    | none => exact ⟨s, by simp [memberAnswered, hk, hx], same⟩
    | some x =>
      have hread := readIncident_ok s k x hx (h k x hx)
      by_cases hlead : (x.isLead c.number c.arrivalSeq && !x.leadAnswered) = true
      · refine ⟨_, by simp only [memberAnswered, Op.bind_apply, Op.get_apply, hk, hread, if_pos hlead, Op.set_apply]; rfl,
          ⟨_, _, rfl⟩, ?_⟩
        exact keepsReports_report (.incident k) true true false (s.setIncident k _)
      · exact ⟨s, by simp only [memberAnswered, Op.bind_apply, Op.get_apply, hk, hread, if_neg hlead, Op.pure_apply], same⟩

/-- What the DONE of a CONNECT that shows off-hook leaves (R102, R152). -/
theorem connectDone_activates {s : State} {n : Nat} {r : Fin 64} {c : Call} {ch : Fin 4} (hn : s.callNumbered n = some r)
    (hr : s.call r = some c) (hc : c.corrupt = false) (hnumber : c.number = n)
    (hst : c.state = .connecting ∨ c.state = .retrieving) (hch : s.HoldsChannel c ch .reserved)
    (hinc : ∀ k x, s.incident k = some x → x.corrupt = false) :
    ∃ u cl l, connectDone n .off s = .ok () u ∧ u = { s with
      calls := { s.calls with records := put s.calls.records r (some { c with state := .active, answered := true }) }
      speech := { s.speech with channels := (put s.speech.channels (channelIndex (postSegment c.post) ch)
        { state := .inUse, call := some n, corrupt := false }) }
      cluster := cl, reports := { s.reports with list := l } } := by
  subst hnumber
  obtain ⟨d, hd⟩ : ∃ d, d = { c with state := .active, answered := true } := ⟨_, rfl⟩
  obtain ⟨t, ht⟩ : ∃ t, t = s.setCall r d := ⟨_, rfl⟩
  have hdc : d.corrupt = false := by rw [hd]; exact hc
  have htf : t = { s with calls := { s.calls with records := put s.calls.records r (some d) } } := by
    rw [ht, State.setCall, ← hdc]
  have htr : t.call r = some d := by rw [htf]; exact put_get_self _ _ _
  have hhold : t.HoldsChannel d ch .reserved := by rw [htf, hd]; exact hch
  obtain ⟨v, hv⟩ : ∃ v, v = t.setChannel (postSegment c.post) ch { state := .inUse, call := some c.number, corrupt := false } :=
    ⟨_, rfl⟩
  have hvrun : channelInUse r t = .ok () v := by
    rw [hv, channelInUse_ok r t d ch htr hdc hhold, hd]
  obtain ⟨w, hw, cl, l, hwf⟩ : ∃ w, (if c.answered then pure () else memberAnswered c : Op Unit) v = .ok () w
      ∧ ∃ cl l, w = { v with cluster := cl, reports := { v.reports with list := l } } := by
    by_cases ha : c.answered = true
    · exact ⟨v, congrFun (if_pos ha) _, _, _, rfl⟩
    · obtain ⟨w, hw, hwf, -⟩ := memberAnswered_sound c v (by rw [hv, htf]; exact hinc)
      exact ⟨w, (congrFun (if_neg ha) _).trans hw, hwf⟩
  refine ⟨w.reportCall r, cl, (w.reportCall r).reports.list, ?_, ?_⟩
  · refine (Op.bind_ok (Op.get_apply _)).trans ?_
    rw [hn]
    refine (withCall_ok s r c _ hr hc).trans ((congrFun (if_pos ⟨rfl, hst⟩) _).trans ?_)
    refine (Op.bind_ok (Op.modify_apply _ _)).trans ?_
    rw [← hd, ← ht]
    refine (Op.bind_ok hvrun).trans ?_
    by_cases ha : c.answered = true
    · rw [if_pos ha] at hw ⊢
      obtain rfl : v = w := (EStateM.Result.ok.inj hw).2
      rfl
    · rw [if_neg ha] at hw ⊢
      exact Op.bind_ok hw
  · subst hd
    rw [State.reportCall, hwf, hv, htf]
    rfl

/-- Settles O56: the post hears the telegram, its hook state is no news, and the CONNECT's call becomes ACTIVE. -/
theorem doneToConnectMakesCallActive : Obligations.DoneToConnectMakesCallActive := by
  intro s l e deadline drop payload check n ch r c request hs hx hst hp htel hphase _ hi hdecode hpresent hlive hl hstate hch
  have hcp := hs.posts c.post
  obtain ⟨v, hears, hreplied, hrun⟩ := goodReply_hears (t := .done .off none) hst (.inr ⟨_, hp⟩) hi hcp
  obtain ⟨hr, -, hnumber⟩ := liveCall_eq_some hl
  have hg : postSegment c.post = l.segment := by rw [hi]; exact postSegment_postIndex _ _
  have hd : postDrop c.post = e.drop := by rw [hi]; exact postDrop_postIndex _ _
  have htold : v.post c.post = { s.post c.post with misses := 0, hook := .off } := by
    rw [hears.post]
    simp [State.told, PostTelegram.identity, Post.updated, Post.heard, hpresent]
  obtain ⟨ps, ls, sg, sl, list, du, hv⟩ := hears.frame
  have hvr : v.call r = some c := by rw [hv]; exact hr
  have hnum : v.callNumbered n = some r := by rw [hv]; exact liveCall_numbered hl
  have hc := hs.call_checked hr
  have hhook : hookReport c.post .off v = .ok () v :=
    hookReport_quiet (by rw [htold, hnumber]; exact hlive) (by rw [hnumber]; exact hnum) hvr hc
      (.inr ⟨rfl, by rcases hstate with h | h <;> simp [h]⟩)
  obtain ⟨u, cl, list', hu, huf⟩ := connectDone_activates hnum hvr hc hnumber hstate (by rw [hv]; exact hch)
    fun k x hk => (hears.sound hs).incident_checked hk
  have hserve : v.LinesServe u := .of_lines (by rw [huf])
  have hgood : goodReply l e (.done .off none) s = .ok () u := by
    refine hrun u (hreplied.of_serve hserve) ((Op.bind_ok (t := v) hhook).trans ?_)
    rw [replyOutcome, hp]
    exact hu
  have hup (j : Fin 256) : u.post j = v.post j := by rw [huf]; rfl
  have hfar := hears.far hg
  rw [hd] at hfar
  refine ⟨u, next_event (op := receiveTelegram l _) ?_, ?_, ?_, (hup _).trans htold, (hreplied.of_serve hserve).exchange,
    (hreplied.of_serve hserve).errors, fun q hq => ?_, fun j hj => (hup j).trans (hears.posts j hj), ?_, ?_, ?_, ?_, ?_, ?_⟩
  · rw [decodeParts, hdecode, receiveTelegram_reply _ hx hphase (by simp [hp]),
      receiveReply_good (t' := .done .off none) (by cases request <;> simp [Exchange.taken, htel]) (by rw [htel]; rfl)]
    exact hgood
  · rw [huf]; exact put_get_self _ _ _
  · rw [huf]; exact put_get_self _ _ _
  · rw [huf, hv]; exact put_get_ne _ _ _ _ hq
  · rw [huf, hv]
  · rw [huf, hv]
  · rw [huf, hv]
  · rw [huf, hv]
  · rw [huf, hv]
  · have hsegs : u.segments = v.segments := by rw [huf]
    unfold State.FarLimitFollows
    dsimp only
    rw [hup, hsegs]
    exact hfar

end Sys2Proof.Machine
end

section
/-! SUPPORT. Unusable and missing replies (R24 to R27, R40, R41, R52, R74), and the obligation about them. -/

namespace Sys2Proof.Machine

/-! ### A telegram sent again (R25) -/

theorem noReply_repeats {l : LineId} {s : State} {e : Exchange} (hx : (s.line l).exchange = some e) (hr : e.retry = false) :
    noReply l s = .ok () (s.updateLine l (fun x => { x with
      exchange := some { e with retry := true, phase := .sending }, sent := some (e.telegram.frame e.drop) })) := by
  refine (Op.bind_ok (Op.get_apply _)).trans ?_
  rw [hx]
  exact congrFun (if_neg (by simp [hr])) _

section Unusable

variable {l : LineId} {s : State} {e : Exchange} (hst : (s.line l).state = .serving)
  (herr : (s.line l).errors + 1 < s.errorLimit) (hx : (s.line l).exchange = some e) (hr : e.retry = false)
include hst herr hx hr

theorem badReply_repeats : badReply l s = .ok () ((s.updateLine l (fun x => { x with errors := x.errors + 1 })).updateLine l
    (fun x => { x with
      exchange := some { e with retry := true, phase := .sending }, sent := some (e.telegram.frame e.drop) })) :=
  (Op.bind_ok (lineError_below hst herr)).trans (noReply_repeats (by rw [updateLine_self_line]; exact hx) hr)

theorem receiveReply_garbled : receiveReply l e none s = .ok () ((s.updateLine l (fun x =>
    { x with errors := x.errors + 1 })).updateLine l (fun x => { x with
      exchange := some { e with retry := true, phase := .sending }, sent := some (e.telegram.frame e.drop) })) :=
  badReply_repeats hst herr hx hr

/-- A telegram of the drop addressed that the exchange does not expect (R24). -/
theorem receiveReply_otherKind {t t' : PostTelegram} (ht : e.taken t = some t') (hexpects : e.telegram.expects t' = false) :
    receiveReply l e (some (e.drop, t)) s = .ok () ((s.updateLine l (fun x =>
      { x with errors := x.errors + 1 })).updateLine l (fun x => { x with
        exchange := some { e with retry := true, phase := .sending }, sent := some (e.telegram.frame e.drop) })) := by
  have hbad : receiveReply l e (some (e.drop, t)) = badReply l := by
    simp only [receiveReply, if_true, ht, hexpects, Bool.false_eq_true, if_false]
  rw [hbad]
  exact badReply_repeats hst herr hx hr

/-- A telegram of another drop is recorded (R26). -/
theorem receiveReply_otherDrop {d : Fin 32} (t : PostTelegram) (hd : d ≠ e.drop) :
    receiveReply l e (some (d, t)) s = .ok () (((s.updateLine l (fun x =>
      { x with errors := x.errors + 1 })).wrongResponderFault l e.drop d).updateLine l (fun x => { x with
        exchange := some { e with retry := true, phase := .sending }, sent := some (e.telegram.frame e.drop) })) := by
  obtain ⟨w, hw⟩ : ∃ w, w = s.updateLine l (fun x => { x with errors := x.errors + 1 }) := ⟨_, rfl⟩
  have herror := lineError_below hst herr
  rw [← hw] at herror ⊢
  have hfault : (w.wrongResponderFault l e.drop d).line l = w.line l := by
    obtain ⟨_, hf⟩ := recordFault_frame (segmentSlot l.segment) .wrongResponder (e.drop.val + 1)
      (BitVec.ofNat 32 ((e.drop.val + 1) * 256 + (d.val + 1))) w
    rw [State.wrongResponderFault, hf]
    rfl
  refine (congrFun (if_neg hd) _).trans ((Op.bind_ok herror).trans ((Op.bind_ok (Op.modify_apply _ _)).trans ?_))
  exact noReply_repeats (by rw [hfault, hw, updateLine_self_line]; exact hx) hr

end Unusable

/-! ### The kind of a decoded telegram (12.7) -/

theorem payload_of_decode {drop kind : Byte} {payload : List Byte} {check : Word} {d : Fin 32} {t : PostTelegram}
    (h : Frame.decode ⟨drop, kind, payload, check⟩ = some (d, t)) : decodePayload kind payload = some t := by
  unfold Frame.decode at h
  split at h
  · split at h
    next d' t' _ ht =>
      obtain ⟨-, rfl⟩ : d' = d ∧ t' = t := by simpa using h
      exact ht
    · simp at h
  · simp at h

theorem decode_ident {drop : Byte} {payload : List Byte} {check : Word} {d : Fin 32} {t : PostTelegram}
    (h : Frame.decode ⟨drop, 0x41, payload, check⟩ = some (d, t)) : ∃ x own hook, t = .ident x own hook := by
  have ht := payload_of_decode h
  simp only [decodePayload, if_true] at ht
  split at ht <;> simp only [Option.some.injEq, reduceCtorEq] at ht
  exact ⟨_, _, _, ht.symm⟩

theorem decode_status {drop : Byte} {payload : List Byte} {check : Word} {d : Fin 32} {t : PostTelegram}
    (h : Frame.decode ⟨drop, 0x42, payload, check⟩ = some (d, t)) :
    ∃ hook request test low door, t = .status hook request test low door := by
  have ht := payload_of_decode h
  unfold decodePayload at ht
  rw [if_neg (show ¬ (0x42 : Byte) = 0x41 by decide), if_pos rfl] at ht
  split at ht <;> simp only [Option.some.injEq, reduceCtorEq] at ht
  exact ⟨_, _, _, _, _, ht.symm⟩

theorem decode_done {drop : Byte} {payload : List Byte} {check : Word} {d : Fin 32} {t : PostTelegram}
    (h : Frame.decode ⟨drop, 0x43, payload, check⟩ = some (d, t)) : ∃ hook request, t = .done hook request := by
  have ht := payload_of_decode h
  unfold decodePayload at ht
  rw [if_neg (show ¬ (0x43 : Byte) = 0x41 by decide), if_neg (show ¬ (0x43 : Byte) = 0x42 by decide), if_pos rfl] at ht
  split at ht
  · exact ⟨_, _, (Option.some.inj ht).symm⟩
  · split at ht
    · obtain ⟨_, -, rfl⟩ := Option.map_eq_some_iff.mp ht
      exact ⟨_, _, rfl⟩
    · exact ⟨_, _, (Option.some.inj ht).symm⟩
  · simp at ht

theorem decode_request {drop : Byte} {payload : List Byte} {check : Word} {d : Fin 32} {t : PostTelegram}
    (h : Frame.decode ⟨drop, 0x44, payload, check⟩ = some (d, t)) : ∃ type x, t = .request type x := by
  have ht := payload_of_decode h
  unfold decodePayload at ht
  rw [if_neg (show ¬ (0x44 : Byte) = 0x41 by decide), if_neg (show ¬ (0x44 : Byte) = 0x42 by decide),
    if_neg (show ¬ (0x44 : Byte) = 0x43 by decide), if_pos rfl] at ht
  split at ht
  · obtain ⟨_, -, rfl⟩ := Option.map_eq_some_iff.mp ht
    exact ⟨_, _, rfl⟩
  · simp at ht

/-! ### The reply time runs out (R25) -/

theorem replyTimeOut_noReply {s : State} {l : LineId} {e : Exchange} {deadline : Time} (hx : (s.line l).exchange = some e)
    (hphase : e.phase = .awaiting deadline) (hdue : reached s.time deadline = true) (hp : e.purpose ≠ .window) :
    replyTimeOut l s = noReply l s := by
  refine (Op.bind_ok (Op.get_apply _)).trans ?_
  rw [hx]
  dsimp only
  rw [hphase]
  exact (congrFun (if_pos hdue) _).trans (congrFun (if_neg hp) _)

/-- A line side in SERVING that a telegram exchange without a reply has left. -/
structure State.Missed (s u : State) (l : LineId) : Prop where
  exchange : (u.line l).exchange = none
  after : (u.line l).afterTelegram = true
  errors : (u.line l).errors = (s.line l).errors
  state : (u.line l).state = .serving

theorem State.Missed.of_serve {s t u : State} {l : LineId} (h : s.Missed t l) (hserve : t.LinesServe u) : s.Missed u l := by
  obtain ⟨_, _, hl⟩ := hserve l
  exact ⟨by rw [hl]; exact h.exchange, by rw [hl]; exact h.after, by rw [hl]; exact h.errors, by rw [hl]; exact h.state⟩

theorem endExchange_missed {s : State} {l : LineId} {e : Exchange} (hst : (s.line l).state = .serving)
    (hp : e.purpose ≠ .window) : s.Missed (s.endExchange l e) l := by
  have hline : (s.endExchange l e).line l = (s.line l).ended e.purpose e.drop s.time := updateLine_self_line l _ s
  constructor <;> rw [hline]
  · rfl
  · simp [LineSide.ended, hp]
  · rfl
  · exact hst

theorem noReply_misses {s u : State} {l : LineId} {e : Exchange} (hx : (s.line l).exchange = some e) (hr : e.retry = true)
    (hst : (s.line l).state = .serving) (hm : missed l e (s.endExchange l e) = .ok () u) (hu : s.Missed u l) :
    noReply l s = .ok () u := by
  refine (Op.bind_ok (Op.get_apply _)).trans ?_
  rw [hx]
  refine (congrFun (if_pos hr) _).trans ((Op.bind_ok (Op.set_apply _ _)).trans ?_)
  have hlive : ¬ s.discards l = true := by rw [discards_serving hst]; decide
  refine (congrFun (if_neg hlive) _).trans ((Op.bind_ok hm).trans (afterExchange_serving hu.state))

/-! ### A missed RELEASE (R40) -/

/-- The pending list of a post once a missed RELEASE has been put back. -/
def releasePutBack (c : PendingCommand) : List PendingCommand → List PendingCommand
  | [] => [c]
  | h :: tail => if h.kind = .release then h :: tail else c :: h :: tail

theorem putBackRelease_post {i : Fin 256} {c : PendingCommand} {s : State} (h : (s.post i).corrupt = false) :
    s.TouchesPost (s.putBackRelease i c) i ∧ s.LinesServe (s.putBackRelease i c)
      ∧ (s.putBackRelease i c).post i = { s.post i with commands := releasePutBack c (s.post i).commands } := by
  have hset (l : List PendingCommand) : (s.setCommands i l).post i = { s.post i with commands := l } :=
    (State.setCommands_self i l s).trans (by dsimp only; rw [h])
  cases hc : (s.post i).commands with
  | nil =>
    have hback : s.putBackRelease i c = s.setCommands i [c] := by rw [State.putBackRelease, hc]
    rw [hback]
    exact ⟨touchesPost_setCommands i _ s, setCommands_linesServe i _ s, hset _⟩
  | cons a tail =>
    by_cases hrel : a.kind = .release
    · have hback : s.putBackRelease i c = s := by
        rw [State.putBackRelease, hc]
        exact if_pos (beq_iff_eq.mpr hrel)
      rw [hback, releasePutBack, if_pos hrel]
      exact ⟨.refl s i, .refl s, by rw [← hc]⟩
    · have hback : s.putBackRelease i c = s.setCommands i (c :: a :: tail) := by
        rw [State.putBackRelease, hc]
        exact if_neg (by rw [beq_iff_eq]; exact hrel)
      rw [hback, releasePutBack, if_neg hrel]
      exact ⟨touchesPost_setCommands i _ s, setCommands_linesServe i _ s, hset _⟩

theorem commandMissed_release {i : Fin 256} {c : PendingCommand} {s : State} (hk : c.kind = .release)
    (h : (s.post i).corrupt = false) : commandMissed i c s = .ok () (s.putBackRelease i c) := by
  have hrun : commandMissed i c = (do let _ ← readPost i; modify (fun s => s.putBackRelease i c)) := by
    rw [commandMissed, hk]
  rw [hrun]
  exact Op.bind_ok (readPost_ok s i h)

/-! ### A miss reaches the post table (R52, R74) -/

section Miss

variable {s : State} {i : Fin 256} (hc : (s.post i).corrupt = false)
  (hst : (s.post i).state = .unknown ∨ (s.post i).state = .present) (hlow : s.postMissLimit ≤ 15)
include hc hst hlow

theorem postMiss_counts (hm : (s.post i).misses + 1 < s.postMissLimit) :
    postMiss i s = .ok () (s.setPost i { s.post i with misses := (s.post i).misses + 1 }) := by
  have hmin : min 15 ((s.post i).misses + 1) = (s.post i).misses + 1 := by omega
  have hnot : ¬ s.postMissLimit ≤ (s.post i).misses + 1 := by omega
  refine (Op.bind_ok (readPost_ok s i hc)).trans ((Op.bind_ok (Op.get_apply _)).trans ?_)
  dsimp only
  rw [hmin]
  rcases hst with h | h <;> rw [h] <;> exact congrFun (if_neg hnot) _

/-- The miss that reaches the limit, with the post's record as the record check and R41 leave it before POST_SILENT acts. -/
theorem postMiss_reaches (hm : (s.post i).misses + 1 = s.postMissLimit) :
    postMiss i s = postSilent i ((s.setPost i { s.post i with
      state := .silent, misses := (s.post i).misses + 1 }).emptyCommands i true) := by
  have hmin : min 15 ((s.post i).misses + 1) = (s.post i).misses + 1 := by omega
  refine (Op.bind_ok (readPost_ok s i hc)).trans ((Op.bind_ok (Op.get_apply _)).trans ?_)
  dsimp only
  rw [hmin]
  rcases hst with h | h <;> rw [h] <;>
    exact (congrFun (if_pos (le_of_eq hm.symm)) _).trans (Op.bind_ok (Op.modify_apply _ _))

end Miss

/-- POST_SILENT in mode PROBE, for a post with no call and no deferral on a segment without a break (R74). -/
theorem postSilent_recorded {s : State} {i : Fin 256} (hmode : s.silentMode = .probe) (hbreak : s.breakMode = .off)
    (hnone : s.broken (postSegment i) = none) (hlive : (s.post i).liveCall = none) (hdef : (s.post i).deferred = false) :
    postSilent i s
      = .ok () (s.recordFault (segmentSlot (postSegment i)) .postSilent ((postDrop i).val + 1) 0) := by
  obtain ⟨t, ht⟩ : ∃ t, t = s.recordFault (segmentSlot (postSegment i)) .postSilent ((postDrop i).val + 1) 0 := ⟨_, rfl⟩
  obtain ⟨_, htf⟩ := recordFault_frame (segmentSlot (postSegment i)) .postSilent ((postDrop i).val + 1) 0 s
  rw [← ht] at htf
  have hlost : lostPost i t = .ok () t := by
    refine lostPost_quiet ⟨fun n r c hn => ?_, fun hd => ?_⟩
    · rw [htf] at hn
      exact absurd (hn.symm.trans hlive) (by simp)
    · rw [htf] at hd
      exact absurd (hd.symm.trans hdef) (by simp)
  have hfollow : followFar i t = .ok () t := followFar_quiet fun b hb => by
    rw [htf] at hb
    exact absurd (hb.symm.trans hnone) (by simp)
  have hanalyse : analyseBreak (postSegment i) t = .ok () t := by
    have hoff : t.breakMode = .off := by rw [htf]; exact hbreak
    refine (Op.bind_ok (Op.get_apply _)).trans (congrFun (if_neg ?_) _)
    rintro ⟨-, -, h⟩
    exact h hoff
  refine (Op.bind_ok (Op.get_apply _)).trans ?_
  dsimp only
  rw [hmode]
  refine (congrFun (if_neg (by decide)) _).trans ((Op.bind_ok (Op.modify_apply _ _)).trans ?_)
  rw [← ht]
  refine (Op.bind_ok hlost).trans ((congrFun (if_neg (by decide)) _).trans ((Op.bind_ok hfollow).trans hanalyse))

section Counted

variable {s : State} {i : Fin 256} (hc : (s.post i).corrupt = false)
  (hst : (s.post i).state = .unknown ∨ (s.post i).state = .present) (hlow : s.postMissLimit ≤ 15)
include hc hst hlow

theorem postMiss_counted (hm : (s.post i).misses + 1 < s.postMissLimit) : ∃ u, postMiss i s = .ok () u ∧ s.TouchesPost u i
    ∧ s.LinesServe u ∧ u.post i = { s.post i with misses := (s.post i).misses + 1 } :=
  ⟨s.setPost i { s.post i with misses := (s.post i).misses + 1 }, postMiss_counts hc hst hlow hm,
    touchesPost_setPost i _ s, setPost_linesServe i _ s,
    setPost_checked i (p := { s.post i with misses := (s.post i).misses + 1 }) hc s⟩

/-- The miss that makes a post SILENT, in mode PROBE, where it has no call and no deferral and its segment no break (R74). -/
theorem postMiss_silences (hm : (s.post i).misses + 1 = s.postMissLimit) (hmode : s.silentMode = .probe)
    (hbreak : s.breakMode = .off) (hnone : s.broken (postSegment i) = none) (hlive : (s.post i).liveCall = none)
    (hdef : (s.post i).deferred = false) : ∃ u, postMiss i s = .ok () u
      ∧ (∃ ps ls rs, u = { s with posts := ps, lines := ls, reports := rs }) ∧ s.LinesServe u
      ∧ u.post i = { s.post i with
        state := .silent, misses := (s.post i).misses + 1, commands := []
        testCancelled := (s.post i).testCancelled || (s.post i).commands.any PendingCommand.isTest }
      ∧ (∀ j, j ≠ i → u.post j = s.post j)
      ∧ u.reports.slots = put s.reports.slots (segmentSlot (postSegment i)) (some (FaultRecord.next
        (s.reports.slots.get (segmentSlot (postSegment i))) .postSilent ((postDrop i).val + 1) 0 s.time)) := by
  obtain ⟨v, hv⟩ : ∃ v, v = s.setPost i { s.post i with state := .silent, misses := (s.post i).misses + 1 } := ⟨_, rfl⟩
  have hvself : v.post i = { s.post i with state := .silent, misses := (s.post i).misses + 1 } := by
    rw [hv]; exact setPost_checked i (p := { s.post i with state := .silent, misses := (s.post i).misses + 1 }) hc s
  have hsv : s.TouchesPost v i := by rw [hv]; exact touchesPost_setPost i _ s
  have hlv : s.LinesServe v := by rw [hv]; exact setPost_linesServe i _ s
  have hmiss := postMiss_reaches hc hst hlow hm
  rw [← hv] at hmiss
  obtain ⟨x, hx⟩ : ∃ x, x = v.emptyCommands i true := ⟨_, rfl⟩
  have hxself : x.post i = { v.post i with
      commands := [], testCancelled := (v.post i).testCancelled || (v.post i).commands.any PendingCommand.isTest } := by
    rw [hx]; exact emptyCommands_post (by rw [hvself]; exact hc)
  have hsx : s.TouchesPost x i := by rw [hx]; exact hsv.trans (emptyCommands_touches i true v)
  have hlx : s.LinesServe x := by rw [hx]; exact hlv.trans (emptyCommands_linesServe i true v)
  obtain ⟨_, _, _, hxf⟩ := hsx.frame
  rw [← hx, postSilent_recorded (by rw [hxf]; exact hmode) (by rw [hxf]; exact hbreak) (by rw [hxf]; exact hnone)
    (by rw [hxself, hvself]; exact hlive) (by rw [hxself, hvself]; exact hdef)] at hmiss
  obtain ⟨u, hu⟩ : ∃ u, u = x.recordFault (segmentSlot (postSegment i)) .postSilent ((postDrop i).val + 1) 0 := ⟨_, rfl⟩
  obtain ⟨l', huf⟩ := recordFault_frame (segmentSlot (postSegment i)) .postSilent ((postDrop i).val + 1) 0 x
  rw [← hu] at hmiss huf
  have hup (j : Fin 256) : u.post j = x.post j := by rw [huf]; rfl
  refine ⟨u, hmiss, ⟨_, _, _, by rw [huf, hxf]⟩, hlx.trans (.of_lines (by rw [huf])), ?_,
    fun j hj => (hup j).trans (hsx.posts j hj), by rw [huf, hxf]⟩
  rw [hup, hxself, hvself]

end Counted

/-- What a miss of a poll or a RELEASE does before it reaches the post table (R40). -/
theorem missed_reaches {s : State} {l : LineId} {e : Exchange} {i : Fin 256} {c : PendingCommand}
    (hi : i = postIndex l.segment e.drop) (hc : (s.post i).corrupt = false)
    (hp : e.purpose = .poll ∨ e.purpose = .command c ∧ c.kind = .release) :
    ∃ t, missed l e (s.endExchange l e) = postMiss i t ∧ (s.endExchange l e).TouchesPost t i
      ∧ (s.endExchange l e).LinesServe t ∧ t.post i = { s.post i with
        commands := if e.purpose = .poll then (s.post i).commands else releasePutBack c (s.post i).commands } := by
  subst hi
  obtain ⟨w, hw⟩ : ∃ w, w = s.endExchange l e := ⟨_, rfl⟩
  have hwp : w.post (postIndex l.segment e.drop) = s.post (postIndex l.segment e.drop) := by rw [hw]; rfl
  rw [← hw, ← hwp]
  have hwc : (w.post (postIndex l.segment e.drop)).corrupt = false := by rw [hwp]; exact hc
  rcases hp with hp | ⟨hp, hk⟩
  · refine ⟨w, ?_, .refl w _, .refl w, ?_⟩
    · simp only [missed, hp]
    · rw [if_pos hp]
  · obtain ⟨htouch, hserve, hpost⟩ := putBackRelease_post (c := c) hwc
    refine ⟨_, ?_, htouch, hserve, hpost.trans (by rw [if_neg (by simp [hp])])⟩
    simp only [missed, hp]
    exact Op.bind_ok (commandMissed_release hk hwc)

/-- Settles O58: an unusable reply and a first silence repeat the telegram, and a second silence is a miss. -/
theorem unusableReplyIsCountedAndTelegramRepeated : Obligations.UnusableReplyIsCountedAndTelegramRepeated := by
  intro s l bytes hst herr
  refine ⟨fun e deadline hx hp hphase hr => ⟨fun _ => ⟨fun hnone => ?garbled, fun d t hd hne => ?otherDrop,
      fun drop payload check t => ⟨fun htel hdecode => ?ident, fun htel hdecode => ?status, fun htel hdecode => ?done,
        fun hdecode => ?request⟩⟩, fun hdue => ?silence⟩,
    fun e deadline i c hx hphase hr hdue hi hc hstate hp => ?misses, fun hx => ?stray⟩
  case garbled =>
    refine next_event (op := receiveTelegram l _) ?_
    rw [hnone, receiveTelegram_reply _ hx hphase hp]
    exact receiveReply_garbled hst herr hx hr
  case otherDrop =>
    refine next_event (op := receiveTelegram l _) ?_
    rw [hd, receiveTelegram_reply _ hx hphase hp]
    exact receiveReply_otherDrop hst herr hx hr t hne
  case ident =>
    obtain ⟨x, own, hook, rfl⟩ := decode_ident hdecode
    refine next_event (op := receiveTelegram l _) ?_
    rw [decodeParts, hdecode, receiveTelegram_reply _ hx hphase hp]
    refine receiveReply_otherKind hst herr hx hr rfl ?_
    cases htelegram : e.telegram with
    | identify => exact absurd htelegram htel
    | _ => rfl
  case status =>
    obtain ⟨hook, request, test, low, door, rfl⟩ := decode_status hdecode
    refine next_event (op := receiveTelegram l _) ?_
    rw [decodeParts, hdecode, receiveTelegram_reply _ hx hphase hp]
    refine receiveReply_otherKind hst herr hx hr rfl ?_
    cases htelegram : e.telegram with
    | poll => exact absurd htelegram htel
    | _ => rfl
  case done =>
    obtain ⟨hook, request, rfl⟩ := decode_done hdecode
    refine next_event (op := receiveTelegram l _) ?_
    rw [decodeParts, hdecode, receiveTelegram_reply _ hx hphase hp]
    refine receiveReply_otherKind (t' := .done hook none) hst herr hx hr ?_ ?_
    · cases htelegram : e.telegram with
      | command k => exact absurd htelegram (htel k)
      | _ => cases hook <;> cases request <;> simp [Exchange.taken, htelegram]
    · cases htelegram : e.telegram with
      | command k => exact absurd htelegram (htel k)
      | _ => rfl
  case request =>
    obtain ⟨type, x, rfl⟩ := decode_request hdecode
    refine next_event (op := receiveTelegram l _) ?_
    rw [decodeParts, hdecode, receiveTelegram_reply _ hx hphase hp]
    refine receiveReply_otherKind hst herr hx hr rfl ?_
    cases e.telegram <;> rfl
  case silence =>
    exact next_event ((replyTimeOut_noReply hx hphase hdue hp).trans (noReply_repeats hx hr))
  case misses =>
    have hwindow : e.purpose ≠ .window := by rcases hp with h | ⟨h, -⟩ <;> simp [h]
    have hg : postSegment i = l.segment := by rw [hi]; exact postSegment_postIndex _ _
    have hd : postDrop i = e.drop := by rw [hi]; exact postDrop_postIndex _ _
    obtain ⟨kept, hkept⟩ : ∃ kept, kept = if e.purpose = .poll then (s.post i).commands
      else releasePutBack c (s.post i).commands := ⟨_, rfl⟩
    obtain ⟨w, hw⟩ : ∃ w, w = s.endExchange l e := ⟨_, rfl⟩
    have hended := endExchange_missed hst hwindow
    obtain ⟨t, hmissed, htouch, hserve, hpost⟩ := missed_reaches (s := s) (c := c) hi hc hp
    rw [← hw] at hmissed htouch hserve hended
    rw [← hkept] at hpost
    obtain ⟨ps, ls, list, htf⟩ := htouch.frame
    have htc : (t.post i).corrupt = false := by rw [hpost]; exact hc
    have htstate : (t.post i).state = .unknown ∨ (t.post i).state = .present := by rw [hpost]; exact hstate
    have htlimit : t.postMissLimit = s.postMissLimit := by rw [htf, hw]; rfl
    have htmisses : (t.post i).misses = (s.post i).misses := by rw [hpost]
    have htposts (j : Fin 256) (hj : j ≠ i) : t.post j = s.post j := (htouch.posts j hj).trans (by rw [hw]; rfl)
    have hruns {u : State} (hu : postMiss i t = .ok () u) (hserves : t.LinesServe u) :
        exec (.replyTimeExpiry l) s = .next u.followUp ∧ s.Missed u l := by
      have hm := hended.of_serve (hserve.trans hserves)
      exact ⟨next_event ((replyTimeOut_noReply hx hphase hdue hwindow).trans
        (noReply_misses hx hr hst (by rw [← hw]; exact hmissed.trans hu) hm)), hm⟩
    intro kept'
    have hsame : kept' = kept := by rw [hkept]; rfl
    rw [hsame]
    refine ⟨fun hm hlow => ?_, fun hm hlow hlive hdef hmode hbreak hnone => ?_⟩
    · obtain ⟨u, hu, hwrite, hserves, hself⟩ := postMiss_counted htc htstate (by rw [htlimit]; exact hlow)
        (by rw [htlimit, htmisses]; exact hm)
      obtain ⟨_, _, _, huf⟩ := hwrite.frame
      obtain ⟨hnext, hm⟩ := hruns hu hserves
      refine ⟨u, hnext, ?_, hm.exchange, hm.after, hm.errors, fun j hj => (hwrite.posts j hj).trans (htposts j hj), ?_⟩
      · rw [hself, hpost]
      · rw [huf, htf, hw]; rfl
    · obtain ⟨u, hu, ⟨_, _, _, huf⟩, hserves, hself, hposts, hslots⟩ := postMiss_silences htc htstate
        (by rw [htlimit]; exact hlow) (by rw [htlimit, htmisses]; exact hm) (by rw [htf, hw]; exact hmode)
        (by rw [htf, hw]; exact hbreak) (by rw [htf, hw, hg]; exact hnone) (by rw [hpost]; exact hlive)
        (by rw [hpost]; exact hdef)
      obtain ⟨hnext, hm⟩ := hruns hu hserves
      refine ⟨u, hnext, ?_, hm.exchange, ?_, fun j hj => (hposts j hj).trans (htposts j hj), ?_⟩
      · rw [hself, hpost]
      · rw [hslots, htf, hw, hg, hd]; rfl
      · rw [huf, htf, hw]; rfl
  case stray =>
    refine next_event (op := receiveTelegram l _) ((receiveTelegram_stray _ hx).trans ?_)
    refine (Op.bind_ok (Op.get_apply _)).trans ((congrFun (if_neg (by rw [hst]; decide)) _).trans ?_)
    cases hb : decodeBytes bytes with
    | none => exact countError_below herr
    | some x => rfl

end Sys2Proof.Machine
end

section
/-! SUPPORT. Registration of a REQUEST up to its clustering (R93): the record taken and filled, its place in the queue, and
what is left once the call has been clustered. -/

namespace Sys2Proof.Machine

/-! ### The record filled (R93 steps 2 to 5) -/

/-- The record of a call registered from a window. -/
def State.registeredCall (s : State) (i : Fin 256) (type : RequestType) (far : Bool) (incident : Option Nat) : Call :=
  { Call.fresh s.nextCallNumber.1 i .incoming .queued with
    requestType := some type, snapshot := s.snapshot i, arrivalTime := some s.time
    arrivalSeq := some s.calls.nextSequence, far := far, incident := incident }

/-- What the filling of a free record leaves: the record, the counters, the queue and the post. -/
structure State.FillsRecord (s w : State) (i : Fin 256) (r : Fin 64) (type : RequestType) (far : Bool) : Prop where
  frame : ∃ ps ls sl list q, w = { s with
    posts := ps, lines := ls, reports := { s.reports with slots := sl, list := list }
    calls := { s.calls with
      records := put s.calls.records r (some (s.registeredCall i type far none)), queue := q
      nextNumber := s.nextCallNumber.2, nextSequence := s.calls.nextSequence + 1 } }
  queue : w.calls.queue = w.insertBySequence r s.calls.queue
  post : w.post i = { s.post i with liveCall := some s.nextCallNumber.1 }
  posts : ∀ j, j ≠ i → w.post j = s.post j
  serve : s.LinesServe w

theorem takeRecord_frame (r : Fin 64) (i : Fin 256) (kind : CallKind) (st : CallState) (s : State) :
    ∃ l, s.takeRecord r i kind st = { s with
      calls := { s.calls with
        records := put s.calls.records r (some (Call.fresh s.nextCallNumber.1 i kind st)), nextNumber := s.nextCallNumber.2 }
      reports := { s.reports with list := l } } := ⟨_, rfl⟩

/-- A record filled, its call numbered and in the queue, and its post's live call set, in the order of R93. -/
def State.filledWith (s : State) (r : Fin 64) (i : Fin 256) (d : Call) (n : Nat) : State :=
  let a := s.setCall r d
  let b : State := { a with calls := { a.calls with nextSequence := a.calls.nextSequence + 1 } }
  let f := b.faultIf i (d.snapshot.isSome && (b.post i).identityMatch == .differs) .wrongIdentity
    (((b.post i).identity.getD 0).setWidth 32)
  let e := f.joinQueue r
  e.setPost i { e.post i with liveCall := some n }

theorem fillRegistration_eq {s : State} {r : Fin 64} {i : Fin 256} {type : RequestType} {far again : Bool} {c d : Call}
    (hr : s.call r = some c) (hd : d = { Call.fresh c.number i .incoming .queued with
      requestType := some type, snapshot := s.snapshot i, arrivalTime := some s.time, arrivalSeq := some s.calls.nextSequence
      reRegistered := again, far := far }) : s.fillRegistration r i type far again
        = if ((s.filledWith r i d c.number).post i).deferred then (s.filledWith r i d c.number).removeDeferral i
          else s.filledWith r i d c.number := by
  subst hd
  rw [State.fillRegistration, hr]
  rfl

theorem filledWith_fills {s : State} {r : Fin 64} {i : Fin 256} {d : Call} {n : Nat} (hd : d.corrupt = false)
    (hc : (s.post i).corrupt = false) : (∃ ps ls sl list q, s.filledWith r i d n = { s with
        posts := ps, lines := ls, reports := { s.reports with slots := sl, list := list }
        calls := { s.calls with
          records := put s.calls.records r (some d), queue := q, nextSequence := s.calls.nextSequence + 1 } })
      ∧ (s.filledWith r i d n).calls.queue = (s.filledWith r i d n).insertBySequence r s.calls.queue
      ∧ (s.filledWith r i d n).post i = { s.post i with liveCall := some n }
      ∧ (∀ j, j ≠ i → (s.filledWith r i d n).post j = s.post j) ∧ s.LinesServe (s.filledWith r i d n) := by
  obtain ⟨b, hb⟩ : ∃ b : State, b = { s with calls := { s.calls with
    records := put s.calls.records r (some d), nextSequence := s.calls.nextSequence + 1 } } := ⟨_, rfl⟩
  have hset : ({ s.setCall r d with calls := { (s.setCall r d).calls with
      nextSequence := (s.setCall r d).calls.nextSequence + 1 } } : State) = b := by
    rw [hb, State.setCall, ← hd]
  obtain ⟨f, hf⟩ : ∃ f, f = b.faultIf i (d.snapshot.isSome && (b.post i).identityMatch == .differs) .wrongIdentity
    (((b.post i).identity.getD 0).setWidth 32) := ⟨_, rfl⟩
  obtain ⟨lf, hff⟩ := faultIf_frame i (d.snapshot.isSome && (b.post i).identityMatch == .differs) .wrongIdentity
    (((b.post i).identity.getD 0).setWidth 32) b
  rw [← hf] at hff
  obtain ⟨e, he⟩ : ∃ e, e = f.joinQueue r := ⟨_, rfl⟩
  have hep (j : Fin 256) : e.post j = s.post j := by rw [he, hff, hb]; rfl
  obtain ⟨w, hw⟩ : ∃ w, w = e.setPost i { e.post i with liveCall := some n } := ⟨_, rfl⟩
  have hfilled : s.filledWith r i d n = w := by
    rw [hw, he, hf, ← hset]
    rfl
  have htouch : e.TouchesPost w i := by rw [hw]; exact touchesPost_setPost i _ e
  have hself : w.post i = { e.post i with liveCall := some n } := by
    rw [hw]; exact setPost_checked i (p := { e.post i with liveCall := some n }) (by rw [hep]; exact hc) e
  have hserve : e.LinesServe w := by rw [hw]; exact setPost_linesServe i _ e
  obtain ⟨_, _, _, hwe⟩ := htouch.frame
  rw [hfilled]
  refine ⟨?_, ?_, hself.trans (by rw [hep]), fun j hj => (htouch.posts j hj).trans (hep j),
    State.LinesServe.trans (.of_lines ?_) hserve⟩
  · rw [hwe, he, hff, hb]
    exact ⟨_, _, _, _, _, rfl⟩
  · have hqueue : e.calls.queue = f.insertBySequence r s.calls.queue := by rw [he, hff, hb]; rfl
    have hcall (q : Fin 64) : w.sequenceOf q = f.sequenceOf q := by rw [hwe, he]; rfl
    rw [insertBySequence_congr hcall, ← hqueue, hwe]
  · rw [he, hff, hb]; rfl

theorem fillRegistration_fills {s : State} {i : Fin 256} {r : Fin 64} (type : RequestType) (far : Bool)
    (hc : (s.post i).corrupt = false) (hdef : (s.post i).deferred = false) :
    s.FillsRecord ((s.takeRecord r i .incoming .queued).fillRegistration r i type far false) i r type far := by
  obtain ⟨a, ha⟩ : ∃ a, a = s.takeRecord r i .incoming .queued := ⟨_, rfl⟩
  obtain ⟨la, haf⟩ := takeRecord_frame r i .incoming .queued s
  rw [← ha] at haf ⊢
  have har : a.call r = some (Call.fresh s.nextCallNumber.1 i .incoming .queued) := by rw [haf]; exact put_get_self _ _ _
  have hap : a.post i = s.post i := by rw [haf]; rfl
  obtain ⟨d, hd⟩ : ∃ d, d = s.registeredCall i type far none := ⟨_, rfl⟩
  obtain ⟨⟨_, _, _, _, _, hframe⟩, hqueue, hpost, hposts, hserve⟩ := filledWith_fills (s := a) (r := r) (i := i) (d := d)
    (n := s.nextCallNumber.1) (by rw [hd]; rfl) (by rw [hap]; exact hc)
  have hfill := fillRegistration_eq (type := type) (far := far) (again := false) har (d := d) (by rw [hd, haf]; rfl)
  have hundeferred : ¬ ((a.filledWith r i d s.nextCallNumber.1).post i).deferred = true := by
    rw [hpost, hap]; simp [hdef]
  have hfilled : a.fillRegistration r i type far false = a.filledWith r i d s.nextCallNumber.1 :=
    hfill.trans (if_neg hundeferred)
  rw [hfilled]
  refine ⟨?_, hqueue.trans (by rw [haf]), hpost.trans (by rw [hap]), fun j hj => (hposts j hj).trans (by rw [haf]; rfl),
    State.LinesServe.trans (.of_lines (by rw [haf])) hserve⟩
  rw [hframe, haf]
  simp only [put_put, hd]
  exact ⟨_, _, _, _, _, rfl⟩

end Sys2Proof.Machine
end

section
/-! SUPPORT. A REQUEST accepted in a window and registered (R29, R92, R93): what stands before the cluster unit sees the call,
and what is left once it has. -/

namespace Sys2Proof.Machine

/-- What the cluster unit leaves of a registered call: its incident, records and the report list alone change. -/
structure State.Clusters (w u : State) (r : Fin 64) (c : Call) (incident : Option Nat) : Prop where
  frame : ∃ cr cl list, u = { w with
    calls := { w.calls with records := cr }, cluster := cl, reports := { w.reports with list := list } }
  call : u.call r = some { c with incident := incident }
  sequences : ∀ q, u.sequenceOf q = w.sequenceOf q

/-! ### The end of a registration (R93 step 7) -/

/-- A registered call once overflow has been judged, it has been reported and its answer is being sent. -/
def State.registeredIn (s : State) (r : Fin 64) (l : LineId) (type : RequestType) : State :=
  (((s.judgeOverflow).reportCall r).wantDispatch).answerWindow l (some (.registered (s.registeredMessage type)))

theorem registerCall_window {s w u : State} {r : Fin 64} {i : Fin 256} {type : RequestType} {far : Bool}
    (hr : s.call r = none) (hw : w = (s.takeRecord r i .incoming .queued).fillRegistration r i type far false)
    (hu : clusterCall r w = .ok () u) : registerCall r i type far false .window s
      = .ok (some (.registered (u.registeredMessage type))) ((u.judgeOverflow).reportCall r).wantDispatch := by
  refine (Op.bind_ok (readCall_free s r hr)).trans ((Op.bind_ok (Op.modify_apply _ _)).trans ?_)
  rw [hr]
  refine Eq.trans ?_ ((Op.bind_ok (f := fun _ => do
    let s ← get
    let answer := PartTelegram.registered (s.registeredMessage type)
    modify (fun s => ((s.judgeOverflow).reportCall r).wantDispatch)
    pure (some answer)) hu).trans rfl)
  rw [hw]
  rfl

/-- What the end of a registration adds. -/
theorem registeredIn_frame {s : State} {r : Fin 64} {l : LineId} {e : Exchange} (type : RequestType)
    (hx : (s.line l).exchange = some e) :
    (∃ ls pa en list t, s.registeredIn r l type = { s with
        lines := ls, path := pa, engine := en, reports := { s.reports with list := list }, dispatchDue := true
        calls := { s.calls with overflow := s.overflowAt s.calls.queue.length, reannounce := t } })
      ∧ ((s.registeredIn r l type).line l).exchange
        = some { e with phase := .answering, telegram := .registered (s.registeredMessage type) }
      ∧ s.KeepsReports (s.registeredIn r l type) ∧ (s.registeredIn r l type).Reported (.call r) := by
  obtain ⟨j, hj⟩ : ∃ j, j = s.judgeOverflow := ⟨_, rfl⟩
  obtain ⟨t, pa, en, list, hjf⟩ := judgedIf_frame True s
  have hjk := keepsReports_judgeOverflow s
  simp only [if_true] at hjf
  rw [← hj] at hjf hjk
  obtain ⟨v, hv⟩ : ∃ v, v = (j.reportCall r).wantDispatch := ⟨_, rfl⟩
  have hvl : v.line l = s.line l := by rw [hv, hjf]; rfl
  have hanswered : s.registeredIn r l type = v.updateLine l (fun x => { x with
      exchange := some { e with telegram := .registered (s.registeredMessage type), phase := .answering }
      sent := some ((PartTelegram.registered (s.registeredMessage type)).frame e.drop) }) := by
    rw [State.registeredIn, ← hj, ← hv]
    refine updateLine_congr ?_
    rw [hvl, hx]
  rw [hanswered]
  refine ⟨?_, ?_, ?_, ?_⟩
  · rw [hv, hjf]
    exact ⟨_, _, _, _, _, rfl⟩
  · rw [updateLine_self_line]
  · have hvk : j.KeepsReports v := by
      rw [hv]
      exact keepsReports_report (.call r) true true false j
    exact hjk.trans hvk
  · have hvr : v.Reported (.call r) := by
      rw [hv]
      exact reportBoth_reported (.call r) j
    exact hvr

/-! ### The snapshot (R64) -/

section Snapshot

variable {s v : State} {l : LineId} {i : Fin 256} {type : RequestType} {x : Identity} (h : s.Hears v l i (.request type x))
include h

theorem hears_configured : v.configured i = s.configured i ∧ v.entry i = s.entry i := by
  obtain ⟨_, _, _, _, _, _, hv⟩ := h.frame
  rw [hv]
  exact ⟨rfl, rfl⟩

theorem hears_snapshot_unconfigured (hc : s.configured i = false) : v.snapshot i = none := by
  rw [State.snapshot, (hears_configured h).1, hc]
  rfl

theorem hears_snapshot_configured (hc : s.configured i = true) {way : Carriageway}
    (hway : entryCarriageway (s.entry i).words = some way) : v.snapshot i = some
      { carriageway := way, chainage := entryChainage (s.entry i).words, kind := entryKind (s.entry i).words
        critical := entryCritical (s.entry i).words, confirmed := decide (x = entryIdentity (s.entry i).words) } := by
  obtain ⟨hconf, hentry⟩ := hears_configured h
  have huse : s.entryInUse i = true := by
    rw [State.configured, Bool.and_eq_true] at hc
    exact hc.2
  have hmatch : (v.post i).identityMatch = if x = entryIdentity (s.entry i).words then .same else .differs := by
    rw [h.post, State.told]
    simp only [PostTelegram.identity, State.judge, huse, if_true]
  rw [State.snapshot, hconf, hc, if_pos rfl, hentry, hmatch]
  dsimp only
  rw [hway]
  by_cases hx : x = entryIdentity (s.entry i).words
  · simp only [hx, decide_true]
    rfl
  · simp only [hx, decide_false]
    rfl

end Snapshot

/-! ### A REQUEST up to its clustering -/

/-- The record of a REQUEST's call before it is clustered. -/
def State.awaiting (s : State) (l : LineId) (i : Fin 256) (n : Nat) (type : RequestType) (snapshot : Option Snapshot) : Call :=
  { Call.fresh n i .incoming .queued with
    requestType := some type, arrivalTime := some s.time, arrivalSeq := some s.calls.nextSequence
    far := l.side == .far, snapshot := snapshot }

/-- A state in which an accepted REQUEST's call stands in the queue and waits for the cluster unit. -/
def State.AwaitsCluster (s w : State) (r : Fin 64) (c : Call) : Prop :=
  ∃ ps ls sg rs d q a b, w = { s with
    posts := ps, lines := ls, segments := sg, reports := rs, dispatchDue := d
    calls := { s.calls with records := put s.calls.records r (some c), queue := q, nextNumber := a, nextSequence := b } }

theorem freeCall_free {s : State} {r : Fin 64} (h : s.freeCall = some r) : s.call r = none := by
  simpa using List.find?_some h

section Request

variable {s : State} {l : LineId} {e : Exchange} {deadline : Time} {drop : Byte} {payload : List Byte} {check : Word}
  {type : RequestType} {x : Identity} {i : Fin 256} {r : Fin 64}

/-- An accepted REQUEST is heard and decided by the last row of R92: a free record is taken. -/
theorem acceptRequest_registers {v : State} (hs : s.Sound) (hrun : s.inRun = true) (hst : (s.line l).state = .serving)
    (hi : i = postIndex l.segment e.drop) (hpresent : (s.post i).state = .present) (hlive : (s.post i).liveCall = none)
    (hres : s.reservedFor i = none) (hover : s.calls.overflow = false ∨ type = .emergency) (hfree : s.freeCall = some r)
    (hv : applyTelegram l i (.request type x) (s.post i).side (s.updateLine l (fun y => { y with errors := 0 })) = .ok () v)
    (hears : s.Hears v l i (.request type x)) {m : MessageId} {t : State}
    (hreg : registerCall r i type (l.side == .far) false .window v = .ok (some (.registered m)) t) :
    acceptRequest l e.drop type x s = .ok () (t.answerWindow l (some (.registered m))) := by
  have hvp : v.post i = s.told i (.request type x) := hears.post
  have hvc : (v.post i).corrupt = false := hears.sound hs |>.posts i
  have hvstate : (v.post i).state = .present := by
    rw [hvp, told_state]
    simp [Post.updated, Post.heard, hpresent]
  have hvlive : (v.post i).liveCall = none := by
    rw [hvp, State.told]
    exact hlive
  obtain ⟨_, _, _, _, _, _, hvf⟩ := hears.frame
  have hdecide : decideRequest i type (l.side == .far) false .window v = .ok (some (.registered m)) t := by
    have hvres : v.reservedFor i = none := by rw [hvf]; exact hres
    have hvfree : v.freeCall = some r := by rw [hvf]; exact hfree
    have hvrun : ¬ (!v.inRun) = true := by
      have hsame : v.inRun = s.inRun := by rw [hvf]; rfl
      rw [hsame, hrun]
      decide
    have hvover : ¬ v.overflowRule type = true := by
      rw [hvf, State.overflowRule]
      rcases hover with h | h <;> simp [h]
    refine (Op.bind_ok (readPost_ok v i hvc)).trans ((Op.bind_ok (Op.get_apply _)).trans ?_)
    rw [hvlive]
    refine (congrFun (if_neg hvrun) _).trans ?_
    rw [hvres]
    refine (congrFun (if_neg (by decide)) _).trans ((congrFun (if_neg hvover) _).trans ?_)
    rw [hvfree]
    exact hreg
  have hanswer : requestAnswer l i type v = .ok (some (.registered m)) t := by
    refine (Op.bind_ok (Op.get_apply _)).trans ((congrFun (if_neg ?_) _).trans hdecide)
    rw [hvstate]
    decide
  have hlive' : ¬ s.discards l = true := by rw [discards_serving hst]; decide
  have hread : readPost (postIndex l.segment e.drop) (s.updateLine l (fun y => { y with errors := 0 }))
      = .ok (s.post i) (s.updateLine l (fun y => { y with errors := 0 })) := by
    rw [← hi]
    exact readPost_ok _ i (hs.posts i)
  refine (Op.bind_ok (Op.get_apply _)).trans ((congrFun (if_neg hlive') _).trans ((Op.bind_ok (Op.modify_apply _ _)).trans
    ((Op.bind_ok hread).trans ?_)))
  rw [← hi]
  have hside : (if (s.post i).state = .unreachable then l.side else (s.post i).side) = (s.post i).side :=
    if_neg (by rw [hpresent]; decide)
  rw [hside]
  exact (Op.bind_ok hv).trans ((Op.bind_ok hanswer).trans (Op.modify_apply _ _))

/-- An accepted REQUEST: its call stands before the cluster unit, and is registered once it has been clustered. -/
theorem request_awaitsCluster (hrun : s.inRun = true) (hs : s.Sound) (hx : (s.line l).exchange = some e)
    (hst : (s.line l).state = .serving) (hp : e.purpose = .window) (hphase : e.phase = .awaiting deadline)
    (hi : i = postIndex l.segment e.drop)
    (hdecode : Frame.decode { drop := drop, kind := 0x44, payload := payload, check := check }
      = some (e.drop, .request type x))
    (hpresent : (s.post i).state = .present) (hlive : (s.post i).liveCall = none) (hdef : (s.post i).deferred = false)
    (hres : s.reservedFor i = none) (hover : s.calls.overflow = false ∨ type = .emergency) (hfree : s.freeCall = some r)
    {snapshot : Option Snapshot} (hsnap : ∀ v, s.Hears v l i (.request type x) → v.snapshot i = snapshot) :
    ∃ w, s.AwaitsCluster w r (s.awaiting l i s.nextCallNumber.1 type snapshot) ∧ ∀ w' inc,
      clusterCall r w = .ok () w' → w.Clusters w' r (s.awaiting l i s.nextCallNumber.1 type snapshot) inc →
      ∃ u, exec (.request l drop payload check) s = .next u.followUp
        ∧ s.Registered u l e i r s.nextCallNumber.1 type x snapshot inc ∧ u.calls.records = w'.calls.records
        ∧ u.cluster = w'.cluster ∧ w'.KeepsReports u := by
  have hc := hs.posts i
  have hg : postSegment i = l.segment := by rw [hi]; exact postSegment_postIndex _ _
  have hd : postDrop i = e.drop := by rw [hi]; exact postDrop_postIndex _ _
  obtain ⟨a, ha⟩ : ∃ a, a = s.updateLine l (fun y => { y with errors := 0 }) := ⟨_, rfl⟩
  have haline : (a.line l).exchange = some e := by rw [ha, updateLine_self_line]; exact hx
  obtain ⟨v, hv, hears, hvserve⟩ := applyTelegram_hears (l := l) (s := a) (i := i) (side := (s.post i).side)
    (.request type x) (by rw [ha]; exact hc) (by rw [ha]; rfl)
  have hears : s.Hears v l i (.request type x) := (ha ▸ hears).of_updateLine hg
  rw [ha] at hv
  obtain ⟨_, _, sg, _, _, _, hvf⟩ := hears.frame
  have hvp : v.post i = { s.post i with
      misses := 0, hook := .off, identity := some x, identityMatch := s.judge i (some x) } := by
    rw [hears.post]
    simp [State.told, PostTelegram.identity, Post.updated, Post.heard, hpresent]
  have hvr : v.call r = none := by rw [hvf]; exact freeCall_free hfree
  obtain ⟨w, hw⟩ : ∃ w, w = (v.takeRecord r i .incoming .queued).fillRegistration r i type (l.side == .far) false := ⟨_, rfl⟩
  have hfills := fillRegistration_fills (s := v) (r := r) type (l.side == .far) (by rw [hvp]; exact hc)
    (by rw [hvp]; exact hdef)
  rw [← hw] at hfills
  have hrecord : v.registeredCall i type (l.side == .far) none = s.awaiting l i s.nextCallNumber.1 type snapshot := by
    rw [State.registeredCall, hsnap v hears, hvf]
    rfl
  have hvnext : v.nextCallNumber = s.nextCallNumber := by rw [hvf]; rfl
  obtain ⟨_, _, _, _, _, hwf⟩ := hfills.frame
  rw [hrecord, hvnext] at hwf
  have hwpost : w.post i = { v.post i with liveCall := some s.nextCallNumber.1 } := by rw [hfills.post, hvnext]
  refine ⟨w, ⟨_, _, _, _, _, _, _, _, by rw [hwf, hvf]⟩, fun w' inc hcl hclusters => ?_⟩
  obtain ⟨cr, cl, list, hw'⟩ := hclusters.frame
  have hreg := registerCall_window hvr hw hcl
  obtain ⟨u, hu⟩ : ∃ u, u = w'.registeredIn r l type := ⟨_, rfl⟩
  have hw'line : (w'.line l).exchange = some e := by
    obtain ⟨_, _, h1⟩ := hvserve l
    obtain ⟨_, _, h2⟩ := hfills.serve l
    have h3 : w'.line l = w.line l := by rw [hw']; rfl
    rw [h3, h2, h1]
    exact haline
  obtain ⟨⟨_, _, _, _, _, huf⟩, hline, hkeeps, hreported⟩ := registeredIn_frame (r := r) type hw'line
  rw [← hu] at huf hline hkeeps hreported
  have hrun : exec (.request l drop payload check) s = .next u.followUp := by
    refine next_event (op := receiveTelegram l _) ?_
    rw [decodeParts, hdecode, receiveTelegram_window _ hx hphase hp]
    refine (congrFun (if_pos rfl) _).trans ?_
    rw [hu]
    exact acceptRequest_registers hs hrun hst hi hpresent hlive hres hover hfree hv hears hreg
  have hup (j : Fin 256) : u.post j = w.post j := by rw [huf, hw']; rfl
  have hupost : u.post i = { s.post i with
      misses := 0, hook := .off, identity := some x, liveCall := some s.nextCallNumber.1
      identityMatch := s.judge i (some x) } := by rw [hup, hwpost, hvp]
  have hcall (q : Fin 64) : u.call q = w'.call q := by rw [huf]; rfl
  refine ⟨u, hrun, ⟨(hcall r).trans hclusters.call, ?_, ?_, ?_, ?_, ?_, hreported, hupost, ⟨w'.registeredMessage type, ?_, hline⟩,
    by rw [huf], fun j hj => ((hup j).trans (hfills.posts j hj)).trans (hears.posts j hj), ?_, ?_, ?_, ?_, ?_, ?_, ?_⟩,
    by rw [huf], by rw [huf], hkeeps⟩
  · rw [huf, hw', hwf]
  · rw [huf, hw', hwf, hvf]
  · have hsequence (q : Fin 64) : u.sequenceOf q = w.sequenceOf q := by
      rw [← hclusters.sequences q, State.sequenceOf, hcall]
      rfl
    have hqueue : u.calls.queue = w.calls.queue := by rw [huf, hw']
    have hvq : v.calls.queue = s.calls.queue := by rw [hvf]
    rw [insertBySequence_congr hsequence, hqueue, hfills.queue, hvq]
  · have hlength : w'.calls.queue.length = s.calls.queue.length + 1 := by
      have hw'q : w'.calls.queue = w.calls.queue := by rw [hw']
      have hvq : v.calls.queue = s.calls.queue := by rw [hvf]
      rw [hw'q, hfills.queue, insertBySequence_length, hvq]
    have hoverflow : u.calls.overflow = w'.overflowAt w'.calls.queue.length := by rw [huf]
    rw [hoverflow, hlength]
    exact overflowAt_congr (by rw [hw', hwf, hvf]) (by rw [hw', hwf, hvf]) _
  · rw [huf, hw', hwf, hvf]
  · have hflag : w'.calls.overflow = s.calls.overflow := by rw [hw', hwf, hvf]
    rw [State.registeredMessage, hflag]
    simp only [Bool.and_eq_true, beq_iff_eq]
  · rw [huf, hw', hwf, hvf]
  · rw [huf, hw', hwf, hvf]
  · rw [huf, hw', hwf, hvf]
  · rw [huf, hw', hwf, hvf]
  · have hsegments : u.segments = v.segments := by rw [huf, hw', hwf]
    have hstate : (u.post (postIndex l.segment e.drop)).state = (v.post (postIndex l.segment e.drop)).state := by
      rw [← hi, hupost, hvp]
    have hfar := hears.far hg
    rw [hd] at hfar
    unfold State.FarLimitFollows at hfar ⊢
    dsimp only at hfar ⊢
    rw [hstate, hsegments]
    exact hfar
  · rw [huf, hw', hwf, hvf]
  · rw [huf, hw', hwf, hvf]

end Request

end Sys2Proof.Machine
end

section
/-! SUPPORT. A registered call in the cluster unit (R114 to R120): no incident, a new one, one joined, or two merged. -/

namespace Sys2Proof.Machine

/-- Actions that leave a state as it is, one after another. -/
theorem forM_stays {α : Type} {s : State} {f : α → Op PUnit} (h : ∀ a, f a s = .ok ⟨⟩ s) (l : List α) :
    l.forM f s = .ok ⟨⟩ s := by
  induction l with
  | nil => rfl
  | cons a l ih =>
    simp only [List.forM_eq_forM, List.forM_cons] at ih ⊢
    exact (Op.bind_ok (h a)).trans ih

/-! ### The incidents that a chainage matches (R115) -/

/-- The incident of a record matches a chainage on a carriageway; a free record does not. -/
def State.matchesAt (s : State) (way : Carriageway) (at_ : Nat) (k : Fin 16) : Bool :=
  (s.incident k).any (s.incidentMatches way at_)

section Matching

variable {s : State} {way : Carriageway} {at_ : Nat}

theorem matchingIncidents_eq : s.matchingIncidents way at_
    = ((List.finRange 16).filter (s.matchesAt way at_)).foldr s.insertByCreation [] := by
  unfold State.matchingIncidents
  congr 1
  refine List.filter_congr fun k _ => ?_
  rw [State.matchesAt]
  cases s.incident k <;> rfl

theorem mem_matching_filter (k : Fin 16) : k ∈ (List.finRange 16).filter (s.matchesAt way at_)
      ↔ ∃ x, s.incident k = some x ∧ s.incidentMatches way at_ x = true := by
  rw [List.mem_filter, State.matchesAt, Option.any_eq_true]
  simp

theorem matchingIncidents_none (h : ∀ j z, s.incident j = some z → s.incidentMatches way at_ z = false) :
    s.matchingIncidents way at_ = [] := by
  obtain ⟨l, hl⟩ : ∃ l, l = (List.finRange 16).filter (s.matchesAt way at_) := ⟨_, rfl⟩
  have hnil : l = [] := by
    rw [List.eq_nil_iff_forall_not_mem]
    intro k hk
    rw [hl] at hk
    obtain ⟨x, hx, hm⟩ := (mem_matching_filter k).mp hk
    exact Bool.false_ne_true ((h k x hx).symm.trans hm)
  rw [matchingIncidents_eq, ← hl, hnil]
  rfl

theorem matchingIncidents_one {k : Fin 16} {y : Incident} (hk : s.incident k = some y)
    (hm : s.incidentMatches way at_ y = true)
    (h : ∀ j z, j ≠ k → s.incident j = some z → s.incidentMatches way at_ z = false) :
    s.matchingIncidents way at_ = [k] := by
  obtain ⟨l, hl⟩ : ∃ l, l = (List.finRange 16).filter (s.matchesAt way at_) := ⟨_, rfl⟩
  have hnodup : l.Nodup := by rw [hl]; exact (List.nodup_finRange 16).filter _
  have hmem (j : Fin 16) : j ∈ l ↔ j ∈ [k] := by
    rw [hl, mem_matching_filter, List.mem_singleton]
    refine ⟨fun ⟨x, hx, hxm⟩ => by_contra fun hj => Bool.false_ne_true ((h j x hj hx).symm.trans hxm), ?_⟩
    rintro rfl
    exact ⟨y, hk, hm⟩
  have hlist : l = [k] :=
    List.perm_singleton.mp ((List.perm_ext_iff_of_nodup hnodup (List.nodup_singleton k)).mpr hmem)
  rw [matchingIncidents_eq, ← hl, hlist]
  rfl

theorem matchingIncidents_two {k j : Fin 16} {y z : Incident} (hkj : j ≠ k) (hk : s.incident k = some y)
    (hj : s.incident j = some z) (hmy : s.incidentMatches way at_ y = true) (hmz : s.incidentMatches way at_ z = true)
    (h : ∀ m v, m ≠ k → m ≠ j → s.incident m = some v → s.incidentMatches way at_ v = false)
    (hfirst : earlier y.creation z.creation = true) (hlast : earlier z.creation y.creation = false) :
    s.matchingIncidents way at_ = [k, j] := by
  obtain ⟨l, hl⟩ : ∃ l, l = (List.finRange 16).filter (s.matchesAt way at_) := ⟨_, rfl⟩
  have hnodup : l.Nodup := by rw [hl]; exact (List.nodup_finRange 16).filter _
  have hmem (m : Fin 16) : m ∈ l ↔ m ∈ [k, j] := by
    rw [hl, mem_matching_filter, List.mem_pair]
    refine ⟨fun ⟨x, hx, hxm⟩ => ?_, ?_⟩
    · by_contra hne
      rw [not_or] at hne
      exact Bool.false_ne_true ((h m x hne.1 hne.2 hx).symm.trans hxm)
    · rintro (rfl | rfl)
      · exact ⟨y, hk, hmy⟩
      · exact ⟨z, hj, hmz⟩
  have hperm : l.Perm [k, j] := (List.perm_ext_iff_of_nodup hnodup (by simpa using hkj.symm)).mpr hmem
  have hlist : l = [k, j] ∨ l = [j, k] := by
    obtain ⟨a, b, hab⟩ := List.length_eq_two.mp hperm.length_eq
    have ha := (hmem a).mp (by simp [hab])
    have hb := (hmem b).mp (by simp [hab])
    have hne : a ≠ b := by rw [hab] at hnodup; simpa using hnodup
    rw [List.mem_pair] at ha hb
    rcases ha with rfl | rfl <;> rcases hb with rfl | rfl <;> simp_all
  have hck : s.creationOf k = y.creation := by rw [State.creationOf, hk]
  have hcj : s.creationOf j = z.creation := by rw [State.creationOf, hj]
  rw [matchingIncidents_eq, ← hl]
  rcases hlist with hlist | hlist
  · rw [hlist]
    simp only [List.foldr_cons, List.foldr_nil, State.insertByCreation, hck, hcj, hfirst, if_true]
  · rw [hlist]
    simp only [List.foldr_cons, List.foldr_nil, State.insertByCreation, hck, hcj, hlast, Bool.false_eq_true, if_false]

end Matching

/-! ### An incident assigned (R114, R116, R117) -/

section Assigned

variable {s : State} {way : Carriageway} {at_ : Nat} {lead : Lead}

theorem readIncidents_sound (h : ∀ k x, s.incident k = some x → x.corrupt = false) (k : Fin 16) :
    (match s.incident k with
      | some x => if x.state == .opened && x.carriageway == way then do let _ ← readIncident k else pure ()
      | none => pure () : Op PUnit) s = .ok ⟨⟩ s := by
  cases hk : s.incident k with
  | none => rfl
  | some x =>
    dsimp only
    split
    · exact Op.bind_ok (readIncident_ok s k x hk (h k x hk))
    · rfl

theorem assignIncident_founds (h : ∀ k x, s.incident k = some x → x.corrupt = false)
    (hm : s.matchingIncidents way at_ = []) : assignIncident way at_ lead s
      = .ok (s.createIncident way at_ lead).1 (s.createIncident way at_ lead).2 := by
  refine (Op.bind_ok (Op.get_apply _)).trans ((Op.bind_ok (forM_stays (readIncidents_sound h) _)).trans ?_)
  rw [hm]
  rfl

theorem assignIncident_joins {k : Fin 16} {others : List (Fin 16)} {t : State} {x : Incident}
    (h : ∀ k x, s.incident k = some x → x.corrupt = false) (hm : s.matchingIncidents way at_ = k :: others)
    (ht : mergeIncidents k others s = .ok () t) (hx : t.incident k = some x) : assignIncident way at_ lead s
      = .ok (some x.number)
        ((t.setIncident k (x.join at_ lead t.time (t.after t.incidentTicks)).estimated).reportIncident k) := by
  refine (Op.bind_ok (Op.get_apply _)).trans ((Op.bind_ok (forM_stays (readIncidents_sound h) _)).trans ?_)
  rw [hm]
  refine (Op.bind_ok ht).trans ((Op.bind_ok (Op.get_apply _)).trans ?_)
  rw [hx]
  rfl

theorem mergeIncidents_alone (k : Fin 16) : mergeIncidents k [] s = .ok () s := rfl

theorem estimated_join (x : Incident) : (x.join at_ lead s.time (s.after s.incidentTicks)).estimated = s.joined x at_ lead := by
  rw [State.joined]
  cases hl : x.lead <;> simp only [Incident.estimated, Incident.join, hl] <;> rfl

end Assigned

/-! ### The registered call takes its incident's number -/

theorem clusterCall_skips {s : State} {r : Fin 64} {c : Call} (hr : s.call r = some c) (hc : c.corrupt = false)
    (h : ∀ x, c.snapshot = some x → x.carriageway = .x) : clusterCall r s = .ok () s := by
  refine (withCall_ok s r c _ hr hc).trans ?_
  cases hx : c.snapshot with
  | none => rfl
  | some x =>
    cases hq : c.arrivalSeq with
    | none => rfl
    | some q => exact congrFun (if_pos (h x hx)) _

/-- The cluster unit assigns an incident to a registered call, where its records have changed as the frame says. -/
theorem clusterCall_assigns {s t : State} {r : Fin 64} {c : Call} {x : Snapshot} {q : Sequence} {inc : Option Nat}
    (hr : s.call r = some c) (hc : c.corrupt = false) (hx : c.snapshot = some x) (hq : c.arrivalSeq = some q)
    (hway : x.carriageway ≠ .x)
    (ht : assignIncident x.carriageway x.chainage { call := c.number, sequence := q } s = .ok inc t)
    (hframe : ∃ cr cl list, t = { s with
      calls := { s.calls with records := cr }, cluster := cl, reports := { s.reports with list := list } })
    (htr : t.call r = some c) (hseq : ∀ p, t.sequenceOf p = s.sequenceOf p) :
    ∃ u, clusterCall r s = .ok () u ∧ s.Clusters u r c inc ∧ (∀ p, p ≠ r → u.call p = t.call p)
      ∧ u.cluster = t.cluster ∧ t.KeepsReports u := by
  obtain ⟨_, _, _, htf⟩ := hframe
  obtain ⟨u, hu⟩ : ∃ u, u = t.setCall r { c with incident := inc } := ⟨_, rfl⟩
  have hself : u.call r = some { c with incident := inc } := by
    rw [hu, State.setCall_self, hc]
  have hne (p : Fin 64) (hp : p ≠ r) : u.call p = t.call p := by rw [hu]; exact put_get_ne _ _ _ _ hp
  refine ⟨u, ?_, ⟨⟨_, _, _, by rw [hu, htf]; rfl⟩, hself, fun p => ?_⟩, hne, by rw [hu]; rfl, by rw [hu]; exact .refl t⟩
  · refine (withCall_ok s r c _ hr hc).trans ?_
    rw [hx, hq]
    refine (congrFun (if_neg hway) _).trans ((Op.bind_ok ht).trans ((Op.modify_apply _ _).trans ?_))
    rw [State.modifyCall, htr, hu]
  · rw [← hseq p]
    by_cases hp : p = r
    · rw [hp, State.sequenceOf, State.sequenceOf, hself, htr]
    · rw [State.sequenceOf, State.sequenceOf, hne p hp]

end Sys2Proof.Machine
end

section
/-! SUPPORT. Two incidents merged (R119, R120), and the obligation about a REQUEST. -/

namespace Sys2Proof.Machine

/-! ### The members of an absorbed incident (R119) -/

/-- A member call that has taken another incident's number. -/
def Call.renumbered (n : Nat) (c : Call) : Call := { c with incident := some n }

theorem withCall_free {s : State} {r : Fin 64} (f : Call → Op Unit) (h : s.call r = none) : withCall r f s = .ok () s :=
  Op.bind_ok (readCall_free s r h)

theorem renumberMember_sound {s : State} (n : Nat) (r : Fin 64) (h : ∀ q c, s.call q = some c → c.corrupt = false) :
    ∃ u, renumberMember n r s = .ok () u
      ∧ (∃ cr list, u = { s with calls := { s.calls with records := cr }, reports := { s.reports with list := list } })
      ∧ s.KeepsReports u
      ∧ ∀ q, u.call q = if q = r then (s.call q).map (Call.renumbered n) else s.call q := by
  cases hr : s.call r with
  | none =>
    refine ⟨s, withCall_free _ hr, ⟨_, _, rfl⟩, .refl s, fun q => ?_⟩
    split
    next hq => rw [hq, hr]; rfl
    next => rfl
  | some c =>
    have hc := h r c hr
    obtain ⟨t, ht⟩ : ∃ t, t = s.setCall r { c with incident := some n } := ⟨_, rfl⟩
    refine ⟨t.reportCall r, ?_, ⟨_, _, by rw [ht]; rfl⟩, ?_, fun q => ?_⟩
    · rw [ht]
      exact (withCall_ok s r c _ hr hc).trans (Op.modify_apply _ _)
    · have hst : s.KeepsReports t := by rw [ht]; exact .refl s
      exact hst.trans (keepsReports_report (.call r) true true false t)
    · have hcall : (t.reportCall r).call q = t.call q := rfl
      rw [hcall, ht]
      by_cases hq : q = r
      · rw [hq, State.setCall_self, if_pos rfl, hr, Option.map_some, Call.renumbered, hc]
      · rw [if_neg hq]
        exact put_get_ne _ _ _ _ hq

theorem renumberMembers_sound (n : Nat) (l : List (Fin 64)) {s : State} (h : ∀ q c, s.call q = some c → c.corrupt = false) :
    ∃ u, (l.forM (renumberMember n) : Op PUnit) s = .ok ⟨⟩ u
      ∧ (∃ cr list, u = { s with calls := { s.calls with records := cr }, reports := { s.reports with list := list } })
      ∧ s.KeepsReports u
      ∧ ∀ q, u.call q = if q ∈ l then (s.call q).map (Call.renumbered n) else s.call q := by
  induction l generalizing s with
  | nil => exact ⟨s, rfl, ⟨_, _, rfl⟩, .refl s, fun q => (if_neg (List.not_mem_nil)).symm⟩
  | cons r l ih =>
    obtain ⟨t, ht, ⟨_, _, htf⟩, hst, htc⟩ := renumberMember_sound n r h
    have hsound (q : Fin 64) (c : Call) (hq : t.call q = some c) : c.corrupt = false := by
      rw [htc] at hq
      split at hq
      · obtain ⟨d, hd, rfl⟩ := Option.map_eq_some_iff.mp hq
        exact h q d hd
      · exact h q c hq
    obtain ⟨u, hu, ⟨_, _, huf⟩, htu, huc⟩ := ih hsound
    refine ⟨u, ?_, ⟨_, _, by rw [huf, htf]⟩, hst.trans htu, fun q => ?_⟩
    · simp only [List.forM_eq_forM, List.forM_cons] at hu ⊢
      exact (Op.bind_ok ht).trans hu
    · have htwice : ((s.call q).map (Call.renumbered n)).map (Call.renumbered n) = (s.call q).map (Call.renumbered n) :=
        Option.map_map ..
      rw [huc, htc]
      by_cases hq : q = r
      · rw [if_pos hq, if_pos (List.mem_cons.mpr (.inl hq)), htwice, ite_self]
      · rw [if_neg hq]
        by_cases hl : q ∈ l
        · rw [if_pos hl, if_pos (List.mem_cons_of_mem r hl)]
        · rw [if_neg hl, if_neg fun e => (List.mem_cons.mp e).elim hq hl]

/-! ### Two incidents become one (R119, R120) -/

theorem chooseLead_two {y z : Incident} {a b : Lead} (hy : y.lead = some a) (hz : z.lead = some b) :
    chooseLead [y, z] = (if (if y.leadAnswered = z.leadAnswered then earlier b.sequence a.sequence else z.leadAnswered) = true
      then some b else some a, y.leadAnswered || z.leadAnswered) := by
  cases ha : y.leadAnswered <;> cases hb : z.leadAnswered <;> cases he : earlier b.sequence a.sequence <;>
    simp [chooseLead, earlierLead, hy, hz, ha, hb, he]

theorem absorbIncident_sound {s : State} {k j : Fin 16} {y z : Incident} (hkj : j ≠ k) (hk : s.incident k = some y)
    (hj : s.incident j = some z) (hyc : y.corrupt = false) (hzc : z.corrupt = false)
    (h : ∀ q c, s.call q = some c → c.corrupt = false) :
    ∃ u, absorbIncident k j s = .ok () u
      ∧ (∃ cr ir list, u = { s with
        calls := { s.calls with records := cr }, cluster := { s.cluster with records := ir }
        reports := { s.reports with list := list } })
      ∧ u.Reported (.incident j) ∧ u.incident k = some (y.absorb z) ∧ u.incident j = some (z.absorbed y.number)
      ∧ (∀ m, m ≠ k → m ≠ j → u.incident m = s.incident m)
      ∧ ∀ q, u.call q = if q ∈ s.membersOf z.number then (s.call q).map (Call.renumbered y.number) else s.call q := by
  obtain ⟨a, ha⟩ : ∃ a, a = ((s.setIncident k (y.absorb z)).setIncident j (z.absorbed y.number)).reportIncident j := ⟨_, rfl⟩
  have hak : a.incident k = some (y.absorb z) := by
    have hput : a.incident k = (s.setIncident k (y.absorb z)).incident k := by rw [ha]; exact put_get_ne _ _ _ _ hkj.symm
    rw [hput]
    refine (put_get_self _ _ _).trans ?_
    rw [Incident.absorb, hyc]
  have haj : a.incident j = some (z.absorbed y.number) := by
    have hput : a.incident j = some { z.absorbed y.number with corrupt := false } := by rw [ha]; exact put_get_self _ _ _
    rw [hput, Incident.absorbed, hzc]
  have ham (m : Fin 16) (hmk : m ≠ k) (hmj : m ≠ j) : a.incident m = s.incident m := by
    have hput : a.incident m = (s.setIncident k (y.absorb z)).incident m := by rw [ha]; exact put_get_ne _ _ _ _ hmj
    rw [hput]
    exact put_get_ne _ _ _ _ hmk
  have hac (q : Fin 64) : a.call q = s.call q := by rw [ha]; rfl
  have hrep : a.Reported (.incident j) := by rw [ha]; exact reportBoth_reported _ _
  obtain ⟨u, hu, ⟨cr, list, huf⟩, hkeeps, hcalls⟩ := renumberMembers_sound y.number (s.membersOf z.number) (s := a)
    fun q c hq => h q c (by rw [← hac]; exact hq)
  have hinc (m : Fin 16) : u.incident m = a.incident m := by rw [huf]; rfl
  refine ⟨u, ?_, ⟨_, _, _, by rw [huf, ha]; rfl⟩, hkeeps _ hrep, (hinc k).trans hak, (hinc j).trans haj,
    fun m hmk hmj => (hinc m).trans (ham m hmk hmj), fun q => by rw [hcalls, hac]⟩
  refine (Op.bind_ok (Op.get_apply _)).trans ?_
  rw [hk, hj]
  refine (Op.bind_ok (Op.set_apply _ _)).trans ?_
  rw [← ha]
  exact hu

theorem mergeIncidents_two {s : State} {k j : Fin 16} {y z : Incident} {a b : Lead} (hkj : j ≠ k)
    (hk : s.incident k = some y) (hj : s.incident j = some z) (hyc : y.corrupt = false) (hzc : z.corrupt = false)
    (h : ∀ q c, s.call q = some c → c.corrupt = false) (hy : y.lead = some a) (hz : z.lead = some b) :
    ∃ u, mergeIncidents k [j] s = .ok () u
      ∧ (∃ cr ir list, u = { s with
        calls := { s.calls with records := cr }, cluster := { s.cluster with records := ir }
        reports := { s.reports with list := list } })
      ∧ u.Reported (.incident j) ∧ u.incident k = some { y.absorb z with
          leadAnswered := y.leadAnswered || z.leadAnswered
          lead := if (if y.leadAnswered = z.leadAnswered then earlier b.sequence a.sequence else z.leadAnswered) = true
            then some b else some a }
      ∧ u.incident j = some (z.absorbed y.number) ∧ (∀ m, m ≠ k → m ≠ j → u.incident m = s.incident m)
      ∧ ∀ q, u.call q = if q ∈ s.membersOf z.number then (s.call q).map (Call.renumbered y.number) else s.call q := by
  obtain ⟨t, ht, ⟨_, _, _, htf⟩, hrep, htk, htj, htm, htc⟩ := absorbIncident_sound hkj hk hj hyc hzc h
  obtain ⟨x, hx⟩ : ∃ x, x = { y.absorb z with
    leadAnswered := y.leadAnswered || z.leadAnswered
    lead := if (if y.leadAnswered = z.leadAnswered then earlier b.sequence a.sequence else z.leadAnswered) = true
      then some b else some a } := ⟨_, rfl⟩
  have hxc : x.corrupt = false := by rw [hx]; exact hyc
  rw [← hx]
  refine ⟨t.setIncident k x, ?_, ⟨_, _, _, by rw [htf]; rfl⟩, hrep, ?_, ?_, fun m hmk hmj => ?_, htc⟩
  · have hlead : chooseLead ([k, j].filterMap s.incident) = (x.lead, x.leadAnswered) := by
      rw [hx, List.filterMap_cons_some hk, List.filterMap_cons_some hj, List.filterMap_nil]
      exact chooseLead_two hy hz
    refine (Op.bind_ok (Op.get_apply _)).trans ((congrFun (if_neg (by simp)) _).trans ?_)
    rw [hlead]
    refine (Op.bind_ok (t := t) (Op.bind_ok ht)).trans ((Op.modify_apply _ _).trans ?_)
    rw [htk, hx]
  · refine (put_get_self _ _ _).trans ?_
    rw [← hxc]
  · exact (put_get_ne _ _ _ _ hkj).trans htj
  · exact (put_get_ne _ _ _ _ hmk).trans (htm m hmk hmj)

/-! ### Records changed at one or two places -/

theorem put_of_same {α : Type} {n : Nat} {v w : Vector α n} {k : Fin n} (h : ∀ m, m ≠ k → w.get m = v.get m) :
    w = put v k (w.get k) := by
  refine Vector.ext fun m hm => ?_
  have hget : w.get ⟨m, hm⟩ = (put v k (w.get k)).get ⟨m, hm⟩ := by
    by_cases hk : ⟨m, hm⟩ = k
    · rw [hk, put_get_self]
    · rw [put_get_ne _ _ _ _ hk, h _ hk]
  exact hget

theorem put_of_same_two {α : Type} {n : Nat} {v w : Vector α n} {k j : Fin n}
    (h : ∀ m, m ≠ k → m ≠ j → w.get m = v.get m) : w = put (put v k (w.get k)) j (w.get j) := by
  refine put_of_same fun m hm => ?_
  by_cases hk : m = k
  · rw [hk, put_get_self]
  · rw [put_get_ne _ _ _ _ hk, h m hk hm]

end Sys2Proof.Machine
end

section
/-! SUPPORT. The obligation about a REQUEST (R93, R114 to R120). -/

namespace Sys2Proof.Machine

/-! ### What the cluster unit finds -/

section Awaits

variable {s w : State} {r : Fin 64} {c : Call} (h : s.AwaitsCluster w r c)
include h

theorem State.AwaitsCluster.call : w.call r = some c := by
  obtain ⟨_, _, _, _, _, _, _, _, hw⟩ := h
  rw [hw]
  exact put_get_self _ _ _

theorem State.AwaitsCluster.calls (q : Fin 64) (hq : q ≠ r) : w.call q = s.call q := by
  obtain ⟨_, _, _, _, _, _, _, _, hw⟩ := h
  rw [hw]
  exact put_get_ne _ _ _ _ hq

theorem State.AwaitsCluster.cluster : w.cluster = s.cluster := by
  obtain ⟨_, _, _, _, _, _, _, _, hw⟩ := h
  rw [hw]

theorem State.AwaitsCluster.incident (k : Fin 16) : w.incident k = s.incident k := by
  rw [State.incident, h.cluster]
  rfl

theorem State.AwaitsCluster.matches (way : Carriageway) (at_ : Nat) (x : Incident) :
    w.incidentMatches way at_ x = s.incidentMatches way at_ x := by
  obtain ⟨_, _, _, _, _, _, _, _, hw⟩ := h
  rw [hw]
  rfl

theorem State.AwaitsCluster.joined (x : Incident) (at_ : Nat) (lead : Lead) : w.joined x at_ lead = s.joined x at_ lead := by
  obtain ⟨_, _, _, _, _, _, _, _, hw⟩ := h
  rw [hw]
  rfl

theorem State.AwaitsCluster.sound (hs : s.Sound) (hc : c.corrupt = false) :
    (∀ k x, w.incident k = some x → x.corrupt = false) ∧ ∀ q d, w.call q = some d → d.corrupt = false := by
  refine ⟨fun k x hx => hs.incident_checked (by rw [← h.incident]; exact hx), fun q d hd => ?_⟩
  by_cases hq : q = r
  · rw [hq, h.call] at hd
    exact Option.some.inj hd ▸ hc
  · exact hs.call_checked (by rw [← h.calls q hq]; exact hd)

end Awaits

theorem mem_membersOf {s : State} {n : Nat} {q : Fin 64} :
    q ∈ s.membersOf n ↔ ∃ c, s.call q = some c ∧ c.incident = some n ∧ c.state ≠ .ended := by
  rw [State.membersOf, List.mem_filter]
  cases s.call q with
  | none => simp
  | some c => simp

/-! ### The cases of R114 -/

section Cases

variable {s w : State} {r : Fin 64} {c : Call} (h : s.AwaitsCluster w r c) (hs : s.Sound) (hc : c.corrupt = false)
include h hs hc

omit hs in
theorem clusters_none (hnone : c.incident = none) (hskip : ∀ x, c.snapshot = some x → x.carriageway = .x) :
    clusterCall r w = .ok () w ∧ w.Clusters w r c none :=
  ⟨clusterCall_skips h.call hc hskip, ⟨⟨_, _, _, rfl⟩, by rw [h.call, ← hnone], fun _ => rfl⟩⟩

variable {x : Snapshot} {q : Sequence} (hx : c.snapshot = some x) (hq : c.arrivalSeq = some q) (hway : x.carriageway ≠ .x)
include hx hq hway

theorem clusters_full (hno : ∀ j z, s.incident j = some z → s.incidentMatches x.carriageway x.chainage z = false)
    (hfree : s.freeIncident = none) : ∃ u, clusterCall r w = .ok () u ∧ w.Clusters u r c none
      ∧ (∀ p, p ≠ r → u.call p = s.call p) ∧ u.cluster = s.cluster := by
  have hmatch : w.matchingIncidents x.carriageway x.chainage = [] := matchingIncidents_none fun j z hz => by
    rw [h.matches]; exact hno j z (by rw [← h.incident]; exact hz)
  have hwfree : w.freeIncident = none := by
    rw [State.freeIncident]
    simp only [h.incident]
    exact hfree
  have hassign := assignIncident_founds (lead := { call := c.number, sequence := q }) (h.sound hs hc).1 hmatch
  have hcreate : w.createIncident x.carriageway x.chainage { call := c.number, sequence := q } = (none, w) := by
    rw [State.createIncident, hwfree]
  rw [hcreate] at hassign
  obtain ⟨u, hu, hclusters, hcalls, hcluster, -⟩ := clusterCall_assigns h.call hc hx hq hway hassign ⟨_, _, _, rfl⟩ h.call
    fun _ => rfl
  exact ⟨u, hu, hclusters, fun p hp => (hcalls p hp).trans (h.calls p hp), hcluster.trans h.cluster⟩

theorem clusters_founds {k : Fin 16}
    (hno : ∀ j z, s.incident j = some z → s.incidentMatches x.carriageway x.chainage z = false)
    (hfree : s.freeIncident = some k) : ∃ u, clusterCall r w = .ok () u ∧ w.Clusters u r c (some s.nextIncidentNumber.1)
      ∧ (∀ p, p ≠ r → u.call p = s.call p) ∧ u.incident k = some
        { number := s.nextIncidentNumber.1, state := .opened, carriageway := x.carriageway, lo := x.chainage
          hi := x.chainage, sum := x.chainage, count := 1, live := 1, lastCall := s.time
          lead := some { call := c.number, sequence := q }, leadAnswered := false, creation := s.cluster.nextCreation
          estimate := x.chainage, marker := markerOf x.chainage
          windowTimer := some (s.after (s.parameter 47 * 100)), quietCause := none, closeCause := none, corrupt := false }
      ∧ u.Reported (.incident k) ∧ (∀ j, j ≠ k → u.incident j = s.incident j)
      ∧ u.cluster = { records := u.cluster.records, nextNumber := s.nextIncidentNumber.2
                      nextCreation := s.cluster.nextCreation + 1 } := by
  have hmatch : w.matchingIncidents x.carriageway x.chainage = [] := matchingIncidents_none fun j z hz => by
    rw [h.matches]; exact hno j z (by rw [← h.incident]; exact hz)
  have hwfree : w.freeIncident = some k := by
    rw [State.freeIncident]
    simp only [h.incident]
    exact hfree
  have hwnext : w.nextIncidentNumber = s.nextIncidentNumber := by
    obtain ⟨_, _, _, _, _, _, _, _, hw⟩ := h
    rw [hw]
    rfl
  have hwtime : w.time = s.time ∧ w.after w.incidentTicks = s.after (s.parameter 47 * 100) := by
    obtain ⟨_, _, _, _, _, _, _, _, hw⟩ := h
    rw [hw]
    exact ⟨rfl, rfl⟩
  have hassign := assignIncident_founds (lead := { call := c.number, sequence := q }) (h.sound hs hc).1 hmatch
  obtain ⟨z, hz⟩ : ∃ z : Incident, z = { number := s.nextIncidentNumber.1, state := .opened, carriageway := x.carriageway
                                         lo := x.chainage, hi := x.chainage, sum := x.chainage, count := 1, live := 1
                                         lastCall := s.time, lead := some { call := c.number, sequence := q }
                                         leadAnswered := false, creation := s.cluster.nextCreation
                                         estimate := x.chainage, marker := markerOf x.chainage
                                         windowTimer := some (s.after (s.parameter 47 * 100)), quietCause := none
                                         closeCause := none, corrupt := false } := ⟨_, rfl⟩
  have hzc : z.corrupt = false := by rw [hz]
  obtain ⟨v, hv⟩ : ∃ v : State, v = { w with cluster := { w.cluster with
    nextNumber := s.nextIncidentNumber.2, nextCreation := s.cluster.nextCreation + 1 } } := ⟨_, rfl⟩
  obtain ⟨t, ht⟩ : ∃ t, t = ((v.setIncident k z).reportIncident k).reportCounts := ⟨_, rfl⟩
  have hcreate : w.createIncident x.carriageway x.chainage { call := c.number, sequence := q }
      = (some s.nextIncidentNumber.1, t) := by
    rw [State.createIncident, hwfree, ht, hv, hz, hwnext, ← hwtime.1, ← hwtime.2, h.cluster]
  rw [hcreate] at hassign
  have htk : t.incident k = some z := by
    have hput : t.incident k = some { z with corrupt := false } := by rw [ht]; exact put_get_self _ _ _
    rw [hput, ← hzc]
  have htj (j : Fin 16) (hj : j ≠ k) : t.incident j = s.incident j := by
    have hput : t.incident j = w.incident j := by rw [ht, hv]; exact put_get_ne _ _ _ _ hj
    rw [hput, h.incident]
  have hrep : t.Reported (.incident k) := by
    rw [ht]
    exact keepsReports_report .engine true false false _ _ (reportBoth_reported (.incident k) _)
  obtain ⟨u, hu, hclusters, hcalls, hcluster, hkeeps⟩ := clusterCall_assigns h.call hc hx hq hway hassign
    ⟨_, _, _, by rw [ht, hv]; rfl⟩ (by rw [ht, hv]; exact h.call) fun p => by rw [ht, hv]; rfl
  have hinc (j : Fin 16) : u.incident j = t.incident j := by rw [State.incident, hcluster]; rfl
  refine ⟨u, hu, hclusters, fun p hp => (hcalls p hp).trans ?_, (hinc k).trans (htk.trans (by rw [hz])), hkeeps _ hrep,
    fun j hj => (hinc j).trans (htj j hj), ?_⟩
  · have htp : t.call p = w.call p := by rw [ht, hv]; rfl
    rw [htp, h.calls p hp]
  · rw [hcluster, ht, hv]
    rfl

theorem clusters_joins {k : Fin 16} {y : Incident} (hk : s.incident k = some y)
    (hm : s.incidentMatches x.carriageway x.chainage y = true)
    (hno : ∀ j z, j ≠ k → s.incident j = some z → s.incidentMatches x.carriageway x.chainage z = false) :
    ∃ u, clusterCall r w = .ok () u ∧ w.Clusters u r c (some y.number) ∧ (∀ p, p ≠ r → u.call p = s.call p)
      ∧ u.incident k = some (s.joined y x.chainage { call := c.number, sequence := q }) ∧ u.Reported (.incident k)
      ∧ u.cluster = { s.cluster with records := put s.cluster.records k (u.incident k) } := by
  have hwk : w.incident k = some y := (h.incident k).trans hk
  have hmatch : w.matchingIncidents x.carriageway x.chainage = [k] :=
    matchingIncidents_one hwk (by rw [h.matches]; exact hm) fun j z hj hz => by
      rw [h.matches]; exact hno j z hj (by rw [← h.incident]; exact hz)
  have hassign := assignIncident_joins (lead := { call := c.number, sequence := q }) (h.sound hs hc).1 hmatch
    (mergeIncidents_alone k) hwk
  rw [estimated_join, h.joined] at hassign
  have hyc : (s.joined y x.chainage { call := c.number, sequence := q }).corrupt = false :=
    (hs.incident_checked hk :)
  obtain ⟨z, hz⟩ : ∃ z, z = s.joined y x.chainage { call := c.number, sequence := q } := ⟨_, rfl⟩
  rw [← hz] at hassign hyc ⊢
  obtain ⟨t, ht⟩ : ∃ t, t = (w.setIncident k z).reportIncident k := ⟨_, rfl⟩
  rw [← ht] at hassign
  have htcluster : t.cluster = { s.cluster with records := put s.cluster.records k (some z) } := by
    have hput : t.cluster = { w.cluster with records := put w.cluster.records k (some { z with corrupt := false }) } := by
      rw [ht]; rfl
    rw [hput, h.cluster, ← hyc]
  have hrep : t.Reported (.incident k) := by rw [ht]; exact reportBoth_reported _ _
  obtain ⟨u, hu, hclusters, hcalls, hcluster, hkeeps⟩ := clusterCall_assigns h.call hc hx hq hway hassign
    ⟨_, _, _, by rw [ht]; rfl⟩ (by rw [ht]; exact h.call) fun p => by rw [ht]; rfl
  have huk : u.incident k = some z := by rw [State.incident, hcluster, htcluster]; exact put_get_self _ _ _
  refine ⟨u, hu, hclusters, fun p hp => (hcalls p hp).trans ?_, huk, hkeeps _ hrep, ?_⟩
  · have htp : t.call p = w.call p := by rw [ht]; rfl
    rw [htp, h.calls p hp]
  · rw [huk, hcluster, htcluster]

theorem clusters_merges (hnone : c.incident = none) {k j : Fin 16} {y z : Incident} {a b : Lead} (hkj : j ≠ k)
    (hk : s.incident k = some y) (hj : s.incident j = some z)
    (hmy : s.incidentMatches x.carriageway x.chainage y = true) (hmz : s.incidentMatches x.carriageway x.chainage z = true)
    (hno : ∀ m v, m ≠ k → m ≠ j → s.incident m = some v → s.incidentMatches x.carriageway x.chainage v = false)
    (hfirst : earlier y.creation z.creation = true) (hlast : earlier z.creation y.creation = false)
    (hy : y.lead = some a) (hz : z.lead = some b) :
    ∃ u, clusterCall r w = .ok () u ∧ w.Clusters u r c (some y.number)
      ∧ u.incident k = some (s.joined { y.absorb z with
          leadAnswered := y.leadAnswered || z.leadAnswered
          lead := if (if y.leadAnswered = z.leadAnswered then earlier b.sequence a.sequence else z.leadAnswered) = true
            then some b else some a } x.chainage { call := c.number, sequence := q })
      ∧ u.incident j = some (z.absorbed y.number)
      ∧ (∀ p d, p ≠ r → s.call p = some d → u.call p = some (if d.incident = some z.number ∧ d.state ≠ .ended then
          { d with incident := some y.number } else d))
      ∧ u.Reported (.incident k) ∧ u.Reported (.incident j)
      ∧ u.cluster = { s.cluster with records := put (put s.cluster.records k (u.incident k)) j (u.incident j) } := by
  have hwk := (h.incident k).trans hk
  have hwj := (h.incident j).trans hj
  have hmatch : w.matchingIncidents x.carriageway x.chainage = [k, j] :=
    matchingIncidents_two hkj hwk hwj (by rw [h.matches]; exact hmy) (by rw [h.matches]; exact hmz)
      (fun m v hmk hmj hv => by rw [h.matches]; exact hno m v hmk hmj (by rw [← h.incident]; exact hv)) hfirst hlast
  obtain ⟨t, ht, ⟨cr, ir, list, htf⟩, hrepj, htk, htj, htm, htc⟩ := mergeIncidents_two hkj hwk hwj (hs.incident_checked hk)
    (hs.incident_checked hj) (h.sound hs hc).2 hy hz
  obtain ⟨m, hm⟩ : ∃ m : Incident, m = { y.absorb z with
    leadAnswered := y.leadAnswered || z.leadAnswered
    lead := if (if y.leadAnswered = z.leadAnswered then earlier b.sequence a.sequence else z.leadAnswered) = true
      then some b else some a } := ⟨_, rfl⟩
  rw [← hm] at htk ⊢
  have hassign := assignIncident_joins (lead := { call := c.number, sequence := q }) (h.sound hs hc).1 hmatch ht htk
  have hjoined : t.joined m x.chainage { call := c.number, sequence := q }
      = s.joined m x.chainage { call := c.number, sequence := q } := by
    rw [← h.joined, htf]
    rfl
  have hnumber : m.number = y.number := by rw [hm]; rfl
  have hmc : (s.joined m x.chainage { call := c.number, sequence := q }).corrupt = false := by
    rw [hm]
    exact (hs.incident_checked hk :)
  rw [estimated_join, hjoined, hnumber] at hassign
  obtain ⟨n, hn⟩ : ∃ n, n = s.joined m x.chainage { call := c.number, sequence := q } := ⟨_, rfl⟩
  rw [← hn] at hassign hmc ⊢
  obtain ⟨v, hv⟩ : ∃ v, v = (t.setIncident k n).reportIncident k := ⟨_, rfl⟩
  rw [← hv] at hassign
  have hvk : v.incident k = some n := by
    have hput : v.incident k = some { n with corrupt := false } := by rw [hv]; exact put_get_self _ _ _
    rw [hput, ← hmc]
  have hvne (p : Fin 16) (hp : p ≠ k) : v.incident p = t.incident p := by rw [hv]; exact put_get_ne _ _ _ _ hp
  have hvc (p : Fin 64) : v.call p = t.call p := by rw [hv]; rfl
  have hmember (p : Fin 64) (d : Call) (hp : w.call p = some d) :
      t.call p = some (if d.incident = some z.number ∧ d.state ≠ .ended then { d with incident := some y.number } else d) := by
    rw [htc]
    by_cases hd : d.incident = some z.number ∧ d.state ≠ .ended
    · rw [if_pos (mem_membersOf.mpr ⟨d, hp, hd⟩), if_pos hd, hp]
      rfl
    · have hnot : p ∉ w.membersOf z.number := fun hmem => by
        obtain ⟨e, he, hin⟩ := mem_membersOf.mp hmem
        exact hd (Option.some.inj (he.symm.trans hp) ▸ hin)
      rw [if_neg hnot, if_neg hd, hp]
  have hvr : v.call r = some c := by
    rw [hvc, hmember r c h.call, if_neg (by simp [hnone])]
  have hseq (p : Fin 64) : v.sequenceOf p = w.sequenceOf p := by
    rw [State.sequenceOf, State.sequenceOf, hvc]
    cases hp : w.call p with
    | none => rw [htc, hp]; simp
    | some d => rw [hmember p d hp]; dsimp only; split <;> rfl
  have hkeepk : v.Reported (.incident k) := by rw [hv]; exact reportBoth_reported _ _
  have hkeepj : v.Reported (.incident j) := by
    rw [hv]
    exact keepsReports_report (.incident k) true true false _ _ hrepj
  obtain ⟨u, hu, hclusters, hcalls, hcluster, hkeeps⟩ := clusterCall_assigns h.call hc hx hq hway hassign
    ⟨_, _, _, by rw [hv, htf]; rfl⟩ hvr hseq
  have hinc (p : Fin 16) : u.incident p = v.incident p := by rw [State.incident, hcluster]; rfl
  refine ⟨u, hu, hclusters, (hinc k).trans hvk, ((hinc j).trans (hvne j hkj)).trans htj, fun p d hp hd =>
    ((hcalls p hp).trans (hvc p)).trans (hmember p d ((h.calls p hp).trans hd)), hkeeps _ hkeepk, hkeeps _ hkeepj, ?_⟩
  have hrecords : u.cluster = { s.cluster with records := u.cluster.records } := by
    rw [hcluster, hv, htf, ← h.cluster]
    rfl
  rw [hrecords]
  refine congrArg (fun rec => ({ s.cluster with records := rec } : ClusterUnit)) (put_of_same_two fun p hpk hpj => ?_)
  exact (hinc p).trans ((hvne p hpk).trans ((htm p hpk hpj).trans (h.incident p)))

end Cases

/-- Settles O57: the post hears the REQUEST, the call takes a free record and the queue, and the cluster unit gives it the
incident that the matching incidents decide. -/
theorem requestRegistersCall : Obligations.RequestRegistersCall := by
  intro s l e deadline drop payload check type x i r n hrun hs hx hst hp hphase _ hi _ hdecode hpresent hlive hdef hres hover
    hfree hn registers others lead
  subst hn
  have hreaches {snapshot : Option Snapshot} (hsnap : ∀ v, s.Hears v l i (.request type x) → v.snapshot i = snapshot) :=
    request_awaitsCluster hrun hs hx hst hp hphase hi hdecode hpresent hlive hdef hres hover hfree hsnap
  have hothers {u w' : State} (hrec : u.calls.records = w'.calls.records) (h : ∀ p, p ≠ r → w'.call p = s.call p)
      (p : Fin 64) (hp : p ≠ r) : u.call p = s.call p := by
    rw [← h p hp, State.call, hrec]
    rfl
  refine ⟨fun hconf => ?unconfigured, fun w way at_ shown hconf hw hway hat hshown => ?configured⟩
  case unconfigured =>
    obtain ⟨w, hw, hfinish⟩ := hreaches fun v hv => hears_snapshot_unconfigured hv hconf
    obtain ⟨hcl, hclusters⟩ := clusters_none hw rfl rfl fun _ h => by simp [State.awaiting] at h
    obtain ⟨u, hnext, hreg, hrec, hcluster, -⟩ := hfinish w none hcl hclusters
    exact ⟨u, ⟨hnext, hreg⟩, hothers hrec hw.calls, hcluster.trans hw.cluster⟩
  case configured =>
    subst hw hat hshown
    obtain ⟨w, hw, hfinish⟩ := hreaches fun v hv => hears_snapshot_configured hv hconf hway
    have hincident {u w' : State} (hcluster : u.cluster = w'.cluster) (k : Fin 16) : u.incident k = w'.incident k := by
      rw [State.incident, hcluster]
      rfl
    refine ⟨fun hx => ?_, fun hx hno => ⟨fun hnone => ?_, fun k hk => ?_⟩, fun k y hx hk hm hno => ?_,
      fun k j y z a b hx hkj hk hj _ hmy hmz hno hfirst hlast hy hz => ?_⟩
    · obtain ⟨hcl, hclusters⟩ := clusters_none hw rfl rfl fun y hy => by
        obtain rfl := Option.some.inj hy
        exact hx
      obtain ⟨u, hnext, hreg, hrec, hcluster, -⟩ := hfinish w none hcl hclusters
      exact ⟨u, ⟨hnext, hreg⟩, hothers hrec hw.calls, hcluster.trans hw.cluster⟩
    · obtain ⟨w', hcl, hclusters, hcalls, hcl'⟩ := clusters_full hw hs rfl rfl rfl hx hno hnone
      obtain ⟨u, hnext, hreg, hrec, hcluster, -⟩ := hfinish w' none hcl hclusters
      exact ⟨u, ⟨hnext, hreg⟩, hothers hrec hcalls, hcluster.trans hcl'⟩
    · obtain ⟨w', hcl, hclusters, hcalls, hnew, hrep, hold, hcl'⟩ := clusters_founds hw hs rfl rfl rfl hx hno hk
      obtain ⟨u, hnext, hreg, hrec, hcluster, hkeeps⟩ := hfinish w' _ hcl hclusters
      refine ⟨u, ⟨hnext, hreg⟩, hothers hrec hcalls, (hincident hcluster k).trans hnew, hkeeps _ hrep,
        fun j hj => (hincident hcluster j).trans (hold j hj), ?_⟩
      rw [hcluster]
      exact hcl'
    · obtain ⟨w', hcl, hclusters, hcalls, hjoined, hrep, hcl'⟩ := clusters_joins hw hs rfl rfl rfl hx hk hm hno
      obtain ⟨u, hnext, hreg, hrec, hcluster, hkeeps⟩ := hfinish w' _ hcl hclusters
      refine ⟨u, ⟨hnext, hreg⟩, hothers hrec hcalls, (hincident hcluster k).trans hjoined, hkeeps _ hrep, ?_⟩
      rw [hincident hcluster, hcluster]
      exact hcl'
    · obtain ⟨w', hcl, hclusters, hwk, hwj, hcalls, hrepk, hrepj, hcl'⟩ := clusters_merges hw hs rfl rfl rfl hx rfl hkj hk hj
        hmy hmz hno hfirst hlast hy hz
      obtain ⟨u, hnext, hreg, hrec, hcluster, hkeeps⟩ := hfinish w' _ hcl hclusters
      refine ⟨u, ⟨hnext, hreg⟩, (hincident hcluster k).trans hwk, (hincident hcluster j).trans hwj, fun p d hp hd => ?_,
        hkeeps _ hrepk, hkeeps _ hrepj, ?_⟩
      · rw [← hcalls p d hp hd, State.call, hrec]
        rfl
      · rw [hincident hcluster, hincident hcluster, hcluster]
        exact hcl'

end Sys2Proof.Machine
end

section
/-! SUPPORT. The report writer's steps where the queue has room (R11, R166), and an entry that it begins to serve (R165). -/

namespace Sys2Proof.Machine

/-! ### Words queued in their order -/

theorem foldl_enqueue_length (es q : List QueueEntry) : (es.foldl enqueue q).length ≤ q.length + es.length := by
  induction es generalizing q with
  | nil => exact Nat.le_refl _
  | cons e es ih =>
    have hone := enqueue_length q e
    have hrest := ih (enqueue q e)
    rw [List.foldl_cons, List.length_cons]
    omega

/-- A state whose writer has come to a queue, a report list and a producer index. -/
def State.served (s : State) (q : List QueueEntry) (l : List ReportEntry) (p : Word) : State :=
  { s with path := { s.path with queue := q }, reports := { s.reports with list := l, producer := p } }

/-- Words as steps of the writer. -/
def wordSteps (es : List QueueEntry) : List ReportStep := es.map (fun e => .word e.address e.value)

theorem serveSteps_words (s : State) (l : List ReportEntry) (p : Word) (rest : List ReportStep) (es : List QueueEntry) :
    ∀ q : List QueueEntry, q.length + es.length ≤ 32 →
      serveSteps (wordSteps es ++ rest) (s.served q l p) = serveSteps rest (s.served (es.foldl enqueue q) l p) := by
  induction es with
  | nil => exact fun _ _ => rfl
  | cons e es ih =>
    intro q h
    rw [List.length_cons] at h
    have hlength := enqueue_length q e
    refine Eq.trans ?_ (ih (enqueue q e) (by omega))
    refine (Op.bind_ok (Op.get_apply _)).trans ((congrFun (if_pos (queueTakes_of_room _ ?_)) _).trans rfl)
    exact (by omega : q.length < 32)

theorem serveSteps_advance (s : State) (l : List ReportEntry) (p : Word) (rest : List ReportStep) {q : List QueueEntry}
    (h : q.length < 32) : serveSteps (.advanceProducer :: rest) (s.served q l p)
      = serveSteps rest (s.served (enqueue q { address := producerAddress, value := p + 1 }) l (p + 1)) :=
  (Op.bind_ok (Op.get_apply _)).trans (congrFun (if_pos (queueTakes_of_room _ h)) _)

/-- The words of a record at a ring entry, with the new producer index behind them (R168). -/
def recordWords (w : WindowSet) (p : Word) (words : List Word) : List QueueEntry :=
  wordsAt (w.eventEntry p) words ++ [{ address := producerAddress, value := p + 1 }]

theorem serveSteps_record (s : State) (l : List ReportEntry) (w : WindowSet) (p : Word) (words : List Word)
    (rest : List ReportStep) {q : List QueueEntry} (h : q.length + (recordWords w p words).length ≤ 32) :
    serveSteps (recordSteps w p words ++ rest) (s.served q l p)
      = serveSteps rest (s.served ((recordWords w p words).foldl enqueue q) l (p + 1)) := by
  have hlength : (recordWords w p words).length = (wordsAt (w.eventEntry p) words).length + 1 := by
    rw [recordWords, List.length_append]; rfl
  have hbound := foldl_enqueue_length (wordsAt (w.eventEntry p) words) q
  rw [recordSteps, List.append_assoc, List.singleton_append, recordWords, List.foldl_append]
  refine (serveSteps_words s l p _ _ q (by omega)).trans (serveSteps_advance s l p rest (by omega))

/-! ### An entry begun (R165, R166) -/

theorem rest_object_ne {e x : ReportEntry} {rest : List ReportEntry} (hwf : ReportsWf (e :: rest)) (hx : x ∈ rest) :
    x.object ≠ e.object := fun hxe => by
  have hnodup := (List.nodup_cons.mp hwf).1
  have hmem : x.object ∈ rest.map (fun e => e.object) := List.mem_map.mpr ⟨x, hx, rfl⟩
  exact hnodup (by rwa [hxe] at hmem)

/-- The report list once the first entry's marks have been taken. -/
theorem map_first_without {l rest : List ReportEntry} {e : ReportEntry} (m : Marks) (hl : l = e :: rest) (hwf : ReportsWf l) :
    l.map (fun (x : ReportEntry) => if x.object == e.object then x.without m else x) = e.without m :: rest := by
  subst hl
  rw [List.map_cons, if_pos (by simp)]
  refine congrArg (e.without m :: ·) ((List.map_congr_left fun x hx => ?_).trans (List.map_id rest))
  exact if_neg (by simpa using rest_object_ne hwf hx)

/-- The steps that a fault mark of an entry gives (R166 step 4). -/
def State.faultSteps (s : State) (w : WindowSet) (e : ReportEntry) (m : Marks) (p : Word) : List ReportStep :=
  match e.object.slot with
  | some k => if m.fault then
      (match s.reports.slots.get k with
        | some f => .faultGate k :: (recordSteps w p (faultEvent k f) ++ [.emptySlot k])
        | none => [])
    else []
  | none => []

section Begun

variable {s : State} {w : WindowSet} {e : ReportEntry} {rest : List ReportEntry} {board event : List QueueEntry} {count : Word}
  (hworks : s.writerWorks = true) (hsteps : s.reports.steps = []) (hw : s.path.windows = some w)
  (hstart : s.startFault = none) (hlist : s.reports.list = e :: rest) (hwf : ReportsWf s.reports.list)
  (hspace : e.event = true → s.ringSpace = true)
  (hboard : board = if e.board then s.boardWords w.boardBase e.object else [])
  (hevent : event = if e.event then wordsAt (w.eventBase + 16 * (s.reports.producer.toNat % w.eventCount))
      (s.eventRecord e.object e.coalesced e.time)
    ++ [{ address := Config.anchorAddress 16, value := s.reports.producer + 1 }] else [])
  (hcount : count = if e.event then s.reports.producer + 1 else s.reports.producer)
include hworks hsteps hw hstart hlist hwf hspace hboard hevent hcount

/-- The first entry's board words and event record are queued, and the steps that its fault mark gives stand next. -/
theorem serveEntry_begun (hserve : e.servable s.ringSpace = true)
    (hroom : s.path.queue.length + board.length + event.length ≤ 32) : serveEntry s
      = serveSteps (s.faultSteps w e (e.marksNow s.ringSpace) count ++ [.finish e.object])
        (s.served ((board ++ event).foldl enqueue s.path.queue) (e.without (e.marksNow s.ringSpace) :: rest) count) := by
  obtain ⟨m, hm⟩ : ∃ m, m = e.marksNow s.ringSpace := ⟨_, rfl⟩
  have hmb : m.board = e.board := by rw [hm]; rfl
  have hme : m.event = e.event := by
    rw [hm, ReportEntry.marksNow]
    cases he : e.event with
    | false => rfl
    | true => rw [hspace he]; rfl
  rw [← hm]
  have hfind : s.reports.list.find? (fun e => e.servable s.ringSpace) = some e := by
    rw [hlist, List.find?_cons_of_pos (by simpa using hserve)]
  have hbegin : serveEntry s = beginServing w e m s := by
    refine (Op.bind_ok (Op.get_apply _)).trans ?_
    rw [hworks, hsteps, hw, hstart, hfind, hm]
    rfl
  have hentry : s.entrySteps w e m = wordSteps board ++ ((if e.event then recordSteps w s.reports.producer
      (s.eventRecord e.object e.coalesced e.time) else []) ++ (s.faultSteps w e m count ++ [.finish e.object])) := by
    have hb : (if m.board then s.boardSteps e.object else []) = wordSteps board := by
      rw [hmb, hboard]
      split
      · rw [State.boardSteps, hw]
        rfl
      · rfl
    rw [State.entrySteps, hb, hme, hcount]
    simp only [List.append_assoc]
    rfl
  have hrecord (q : List QueueEntry) (l : List ReportEntry) (steps : List ReportStep) (hq : q.length + event.length ≤ 32) :
      serveSteps ((if e.event then recordSteps w s.reports.producer (s.eventRecord e.object e.coalesced e.time) else [])
        ++ steps) (s.served q l s.reports.producer) = serveSteps steps (s.served (event.foldl enqueue q) l count) := by
    rw [hevent, hcount]
    rw [hevent] at hq
    by_cases he : e.event = true
    · rw [if_pos he, if_pos he, if_pos he]
      rw [if_pos he] at hq
      exact serveSteps_record s l w s.reports.producer (s.eventRecord e.object e.coalesced e.time) steps hq
    · rw [if_neg he, if_neg he, if_neg he]
      rfl
  have hfold := foldl_enqueue_length board s.path.queue
  rw [hbegin]
  refine (Op.bind_ok (Op.get_apply _)).trans ((Op.bind_ok (Op.set_apply _ _)).trans ?_)
  rw [hentry, map_first_without m hlist hwf, List.foldl_append]
  refine (serveSteps_words s _ s.reports.producer _ board s.path.queue (by omega)).trans ?_
  exact hrecord _ _ _ (by omega)

end Begun

end Sys2Proof.Machine
end

section
/-! SUPPORT. The end of a serving (R166 steps 4 and 5, R167), and the obligation about the report writer. -/

namespace Sys2Proof.Machine

/-! ### The list at the end of a serving -/

theorem unmarked_of_bare {s : State} {o : Obj} (h : ∀ x ∈ s.reports.list, x.object = o →
    x.board = false ∧ x.event = false ∧ x.fault = false) : s.unmarked o = true := by
  rw [State.unmarked, List.all_eq_true]
  intro x hx
  by_cases ho : x.object = o
  · obtain ⟨hb, he, hf⟩ := h x hx ho
    simp [hb, he, hf]
  · simp [ho]

theorem filter_first {e : ReportEntry} {e' : ReportEntry} {rest : List ReportEntry} (hwf : ReportsWf (e :: rest))
    (he : e'.object = e.object) : (e' :: rest).filter (fun x => x.object != e.object) = rest := by
  rw [List.filter_cons_of_neg (by simp [he]), List.filter_eq_self]
  exact fun x hx => by simpa using rest_object_ne hwf hx

theorem mark_object (x : ReportEntry) (b e f : Bool) (now : Time) : (x.mark b e f now).object = x.object := rfl

/-- A mark of one object and the leaving of another do not meet. -/
theorem filter_markObject {o p : Obj} (h : p ≠ o) (l : List ReportEntry) (b e f : Bool) (now : Time) :
    (markObject l p b e f now).filter (fun x => x.object != o)
      = markObject (l.filter (fun x => x.object != o)) p b e f now := by
  have hany : (l.filter (fun x => x.object != o)).any (fun x => x.object == p) = l.any (fun x => x.object == p) := by
    rw [List.any_filter]
    congr 1
    funext x
    by_cases hx : x.object = p
    · simp [hx, h]
    · simp [hx]
  have hmark (x : ReportEntry) : (if x.object == p then x.mark b e f now else x).object = x.object := by
    split <;> rfl
  unfold markObject
  rw [hany]
  split
  · rw [List.filter_map]
    congr 1
    refine List.filter_congr fun x _ => ?_
    simp only [Function.comp_apply, hmark]
  · rw [List.filter_append, List.filter_cons_of_pos (by simpa [ReportEntry.mark] using h), List.filter_nil]

/-- An entry leaves that frees no record (R167). -/
theorem entryLeaves_keeps {s : State} {o : Obj} (h : s.freedByServing o = false) : entryLeaves o s = .ok () { s with
    reports := { s.reports with list := s.reports.list.filter (fun e => e.object != o), steps := [] } } := by
  refine (Op.bind_ok (Op.modify_apply _ _)).trans ((Op.bind_ok (Op.get_apply _)).trans ?_)
  cases o with
  | call r =>
    dsimp only
    have hcall : ({ s with reports := { s.reports with
      list := s.reports.list.filter (fun e => e.object != .call r), steps := [] } } : State).call r = s.call r := rfl
    rw [hcall]
    cases hr : s.call r with
    | none => rfl
    | some c =>
      rw [State.freedByServing, hr] at h
      exact congrFun (if_neg (by simpa using h)) _
  | incident k =>
    dsimp only
    have hinc : ({ s with reports := { s.reports with
      list := s.reports.list.filter (fun e => e.object != .incident k), steps := [] } } : State).incident k = s.incident k := rfl
    rw [hinc]
    cases hk : s.incident k with
    | none => rfl
    | some x =>
      rw [State.freedByServing, hk] at h
      exact congrFun (if_neg (by simpa using h)) _
  | post _ => rfl
  | position _ => rfl
  | segment _ => rfl
  | engine => rfl

/-! ### A freed record (R167) -/

theorem takeWords_room (es : List QueueEntry) : ∀ q : List QueueEntry, q.length + es.length ≤ 32 →
    takeWords (wordSteps es) q = ([], es.foldl enqueue q) := by
  induction es with
  | nil => exact fun _ _ => rfl
  | cons e es ih =>
    intro q h
    rw [List.length_cons] at h
    have hlength := enqueue_length q e
    refine Eq.trans ?_ (ih (enqueue q e) (by omega))
    exact if_pos (queueTakes_of_room _ (by omega))

/-- An address stands in a queue. -/
def Queued (q : List QueueEntry) (a : Nat) : Prop := ∃ x ∈ q, x.address = a

theorem queued_enqueue {q : List QueueEntry} {e : QueueEntry} {a : Nat} (h : Queued q a ∨ e.address = a) :
    Queued (enqueue q e) a := by
  by_cases he : e.address = a
  · exact ⟨e, List.mem_append_right _ (List.mem_singleton_self e), he⟩
  · obtain ⟨x, hx, hxa⟩ := h.resolve_right he
    refine ⟨x, List.mem_append_left _ (List.mem_filter.mpr ⟨hx, ?_⟩), hxa⟩
    rw [hxa]
    simpa using Ne.symm he

theorem queued_foldl {a : Nat} (es : List QueueEntry) : ∀ q : List QueueEntry, Queued q a ∨ (∃ e ∈ es, e.address = a) →
    Queued (es.foldl enqueue q) a := by
  induction es with
  | nil => exact fun q h => h.resolve_right (by simp)
  | cons e es ih =>
    intro q h
    refine ih _ ?_
    rcases h with h | ⟨x, hx, hxa⟩
    · exact .inl (queued_enqueue (.inl h))
    · rcases List.mem_cons.mp hx with rfl | hx
      · exact .inl (queued_enqueue (.inr hxa))
      · exact .inr ⟨x, hx, hxa⟩

theorem queuedValue_isSome {a : Nat} {q : List QueueEntry} (h : Queued q a) : (queuedValue q a).isSome = true := by
  induction q with
  | nil => exact absurd h (by simp [Queued])
  | cons e q ih =>
    rw [queuedValue]
    split
    next => rfl
    next he =>
      obtain ⟨x, hx, hxa⟩ := h
      rcases List.mem_cons.mp hx with rfl | hx
      · exact absurd hxa he
      · exact ih ⟨x, hx, hxa⟩

theorem queueTakes_of_queued {q : List QueueEntry} {a : Nat} (h : Queued q a) : queueTakes q a = true := by
  rw [queueTakes, queuedValue_isSome h, Bool.true_or]

/-- Words whose addresses stand in the queue are taken also where it is full (R11). -/
theorem takeWords_queued (es : List QueueEntry) : ∀ q : List QueueEntry, (∀ e ∈ es, Queued q e.address) →
    takeWords (wordSteps es) q = ([], es.foldl enqueue q) := by
  induction es with
  | nil => exact fun _ _ => rfl
  | cons e es ih =>
    intro q h
    refine Eq.trans ?_ (ih (enqueue q e) fun x hx => queued_enqueue (.inl (h x (List.mem_cons_of_mem e hx))))
    exact if_pos (queueTakes_of_queued (h e List.mem_cons_self))

theorem queueSteps_taken {s : State} {es : List QueueEntry}
    (h : takeWords (wordSteps es) s.path.queue = ([], es.foldl enqueue s.path.queue)) :
    s.queueSteps (wordSteps es) = { s with
      path := { s.path with queue := es.foldl enqueue s.path.queue }, reports := { s.reports with steps := [] } } := by
  rw [State.queueSteps, h]

theorem inviteInto_idle {s : State} {r : Fin 64} (h : s.calls.deferrals = []) : inviteInto r s = .ok () s := by
  refine (Op.bind_ok (Op.get_apply _)).trans ?_
  rw [h]
  split <;> rfl

/-- Board words of a free record. -/
theorem wordsAt_zero (a : Nat) {l m : List Word} (h : m = l.map fun _ => 0) :
    (wordsAt a l).map (fun x => { x with value := 0 }) = wordsAt a m := by
  subst h
  simp only [wordsAt, List.map_map, List.zipIdx_map, Function.comp_def]
  rfl

section Freed

variable {s : State} {w : WindowSet} (hwin : s.path.windows = some w)
include hwin

theorem entryLeaves_freesCall {r : Fin 64} {c : Call} (hr : s.call r = some c) (hst : c.state = .ended)
    (hc : c.corrupt = false) (hdef : s.calls.deferrals = [])
    (hroom : takeWords (wordSteps (wordsAt (w.boardBase + 0x100 + 6 * r.val) [0, 0, 0])) s.path.queue
      = ([], (wordsAt (w.boardBase + 0x100 + 6 * r.val) [0, 0, 0]).foldl enqueue s.path.queue)) :
    entryLeaves (.call r) s = .ok () { s with
      path := { s.path with queue := (wordsAt (w.boardBase + 0x100 + 6 * r.val) [0, 0, 0]).foldl enqueue s.path.queue }
      calls := { s.calls with records := put s.calls.records r none }
      reports := { s.reports with
        list := markObject (s.reports.list.filter (fun e => e.object != .call r)) .engine true false false s.time
        steps := [] } } := by
  obtain ⟨t, ht⟩ : ∃ t : State, t = { s with reports := { s.reports with
    list := s.reports.list.filter (fun e => e.object != .call r), steps := [] } } := ⟨_, rfl⟩
  have htr : t.call r = some c := by rw [ht]; exact hr
  obtain ⟨v, hv⟩ : ∃ v : State, v = ({ t with calls := { t.calls with
    records := put t.calls.records r none } } : State).reportCounts := ⟨_, rfl⟩
  have hsteps : v.boardSteps (.call r) = wordSteps (wordsAt (w.boardBase + 0x100 + 6 * r.val) [0, 0, 0]) := by
    have hvw : v.path.windows = some w := by rw [hv, ht]; exact hwin
    have hvr : v.call r = none := by rw [hv]; exact put_get_self _ _ _
    rw [State.boardSteps, hvw]
    dsimp only
    rw [State.boardWords, hvr]
    rfl
  have hvq : v.path.queue = s.path.queue := by rw [hv, ht]; rfl
  refine (Op.bind_ok (Op.modify_apply _ _)).trans ((Op.bind_ok (Op.get_apply _)).trans ?_)
  rw [← ht]
  dsimp only
  rw [htr]
  refine (congrFun (if_pos hst) _).trans ((Op.bind_ok (readCall_ok t r c htr hc)).trans
    ((Op.bind_ok (Op.modify_apply _ _)).trans ((Op.bind_ok (Op.modify_apply _ _)).trans ?_)))
  rw [← hv, hsteps, queueSteps_taken (by rw [hvq]; exact hroom)]
  refine (inviteInto_idle ?_).trans ?_
  · rw [hv, ht]
    exact hdef
  · rw [hv, ht]
    rfl

theorem entryLeaves_freesIncident {k : Fin 16} {x : Incident} (hk : s.incident k = some x) (hst : x.state = .closed)
    (hx : x.corrupt = false)
    (hroom : takeWords (wordSteps (wordsAt (w.boardBase + 0x360 + 8 * k.val) [0, 0, 0, 0])) s.path.queue
      = ([], (wordsAt (w.boardBase + 0x360 + 8 * k.val) [0, 0, 0, 0]).foldl enqueue s.path.queue)) :
    entryLeaves (.incident k) s = .ok () { s with
      path := { s.path with queue := (wordsAt (w.boardBase + 0x360 + 8 * k.val) [0, 0, 0, 0]).foldl enqueue s.path.queue }
      cluster := { s.cluster with records := put s.cluster.records k none }
      reports := { s.reports with
        list := markObject (s.reports.list.filter (fun e => e.object != .incident k)) .engine true false false s.time
        steps := [] } } := by
  obtain ⟨t, ht⟩ : ∃ t : State, t = { s with reports := { s.reports with
    list := s.reports.list.filter (fun e => e.object != .incident k), steps := [] } } := ⟨_, rfl⟩
  have htk : t.incident k = some x := by rw [ht]; exact hk
  obtain ⟨v, hv⟩ : ∃ v : State, v = ({ t with cluster := { t.cluster with
    records := put t.cluster.records k none } } : State).reportCounts := ⟨_, rfl⟩
  have hsteps : v.boardSteps (.incident k) = wordSteps (wordsAt (w.boardBase + 0x360 + 8 * k.val) [0, 0, 0, 0]) := by
    have hvw : v.path.windows = some w := by rw [hv, ht]; exact hwin
    have hvk : v.incident k = none := by rw [hv]; exact put_get_self _ _ _
    rw [State.boardSteps, hvw]
    dsimp only
    rw [State.boardWords, hvk]
    rfl
  have hvq : v.path.queue = s.path.queue := by rw [hv, ht]; rfl
  refine (Op.bind_ok (Op.modify_apply _ _)).trans ((Op.bind_ok (Op.get_apply _)).trans ?_)
  rw [← ht]
  dsimp only
  rw [htk]
  refine (congrFun (if_pos hst) _).trans ((Op.bind_ok (readIncident_ok t k x htk hx)).trans
    ((Op.bind_ok (Op.modify_apply _ _)).trans ((Op.modify_apply _ _).trans ?_)))
  rw [← hv, hsteps, queueSteps_taken (by rw [hvq]; exact hroom), hv, ht]
  rfl

end Freed

end Sys2Proof.Machine
end

section
/-! SUPPORT. The obligation about the report writer (R164 to R168). -/

namespace Sys2Proof.Machine

theorem slotOwner_of_slot {o : Obj} {k : Fin 9} (h : o.slot = some k) : slotOwner k = o := by
  cases o with
  | segment g =>
    obtain rfl : segmentSlot g = k := Option.some.inj h
    exact dif_pos g.isLt
  | engine =>
    obtain rfl : engineSlot = k := Option.some.inj h
    rfl
  | call _ => simp [Obj.slot] at h
  | post _ => simp [Obj.slot] at h
  | position _ => simp [Obj.slot] at h
  | incident _ => simp [Obj.slot] at h

theorem freedByServing_of_slot {o : Obj} {k : Fin 9} (s : State) (h : o.slot = some k) : s.freedByServing o = false := by
  cases o with
  | call _ => simp [Obj.slot] at h
  | incident _ => simp [Obj.slot] at h
  | post _ => rfl
  | position _ => rfl
  | segment _ => rfl
  | engine => rfl

/-- An entry of another object than the one marked stood on the list as it is. -/
theorem mem_of_markObject {l : List ReportEntry} {o : Obj} {b e f : Bool} {now : Time} {x : ReportEntry} (h : x.object ≠ o)
    (hx : x ∈ markObject l o b e f now) : x ∈ l := by
  unfold markObject at hx
  split at hx
  · obtain ⟨y, hy, rfl⟩ := List.mem_map.mp hx
    split
    next ho =>
      rw [if_pos ho] at h
      exact absurd (beq_iff_eq.mp ho) h
    next => exact hy
  · rcases List.mem_append.mp hx with hx | hx
    · exact hx
    · rw [List.mem_singleton.mp hx] at h
      exact absurd rfl h

/-- The slot of a served fault empties, and the engine is listed (R164, R166). -/
theorem emptySlot_empties {s : State} {k : Fin 9} (h : ∀ x ∈ s.reports.list, x.object = slotOwner k → x.fault = false) :
    s.emptySlot k = { s with reports := { s.reports with
      slots := put s.reports.slots k none, list := markObject s.reports.list .engine true false false s.time } } := by
  rw [State.emptySlot, if_neg]
  · rfl
  · rw [List.any_eq_true]
    rintro ⟨x, hx, hmark⟩
    rw [Bool.and_eq_true, beq_iff_eq] at hmark
    exact Bool.false_ne_true ((h x hx hmark.1).symm.trans hmark.2)

/-- The record of a fault slot is queued, and the slot empties (R166 step 4). -/
theorem serveSteps_fault {s : State} {w : WindowSet} {k : Fin 9} {f : FaultRecord} {l : List ReportEntry} {p : Word}
    {q : List QueueEntry} (rest : List ReportStep) (hw : s.path.windows = some w)
    (hspace : (p - s.reports.consumer).toNat < w.eventCount)
    (hroom : q.length + (recordWords w p (faultEvent k f)).length ≤ 32)
    (h : ∀ x ∈ l, x.object = slotOwner k → x.fault = false) :
    serveSteps (.faultGate k :: (recordSteps w p (faultEvent k f) ++ [.emptySlot k]) ++ rest) (s.served q l p)
      = serveSteps rest { s with
        path := { s.path with queue := (recordWords w p (faultEvent k f)).foldl enqueue q }
        reports := { s.reports with
          list := markObject l .engine true false false s.time, slots := put s.reports.slots k none, producer := p + 1 } } := by
  have hring : (s.served q l p).ringSpace = true := by
    have hsw : (s.served q l p).path.windows = some w := hw
    rw [State.ringSpace, hsw]
    exact decide_eq_true hspace
  rw [List.cons_append, List.append_assoc]
  refine (Op.bind_ok (Op.get_apply _)).trans ((congrFun (if_pos hring) _).trans ?_)
  refine (serveSteps_record s l w p (faultEvent k f) _ hroom).trans ?_
  refine (Op.bind_ok (Op.modify_apply _ _)).trans ?_
  rw [emptySlot_empties (s := s.served _ l (p + 1)) h]
  rfl

/-- Settles O60: the first entry's steps are carried out in their order, and an entry with no mark left leaves the list. -/
theorem servedEntryQueuesBoardThenEvent : Obligations.ServedEntryQueuesBoardThenEvent := by
  intro s w e rest board event count hworks hsteps hw hstart hlist hwf hspace hboard hevent hcount
  have hbegun := serveEntry_begun hworks hsteps hw hstart hlist hwf hspace hboard hevent hcount
  rw [hlist] at hwf
  obtain ⟨e', he'⟩ : ∃ e', e' = e.without (e.marksNow s.ringSpace) := ⟨_, rfl⟩
  rw [← he'] at hbegun
  have hobject : e'.object = e.object := by rw [he']; rfl
  have hspaced : (e.event && s.ringSpace) = e.event := by
    cases he : e.event with
    | false => rfl
    | true => rw [hspace he]; rfl
  have hcleared : e'.board = false ∧ e'.event = false := by
    rw [he']
    simp only [ReportEntry.without, ReportEntry.marksNow, hspaced, Bool.and_not_self, and_self]
  have hserve (h : e.board = true ∨ e.event = true ∨ e.fault = true ∧ s.ringSpace = true) : e.servable s.ringSpace = true := by
    rcases h with h | h | ⟨h, hs⟩
    · simp [ReportEntry.servable, h]
    · simp [ReportEntry.servable, h, hspace h]
    · simp [ReportEntry.servable, h, hs]
  have hplain (hf : e.fault = false) : e'.fault = false ∧ s.faultSteps w e (e.marksNow s.ringSpace) count = [] := by
    refine ⟨by rw [he']; simp [ReportEntry.without, hf], ?_⟩
    rw [State.faultSteps]
    cases e.object.slot <;> simp [ReportEntry.marksNow, hf]
  have hfinish (o : Obj) (t : State) (h : t.unmarked o = true) : serveSteps [.finish o] t = entryLeaves o t :=
    (Op.bind_ok (Op.get_apply _)).trans (congrFun (if_pos h) _)
  have hunmarked (t : State) (hl : t.reports.list = e' :: rest) (hf : e'.fault = false) : t.unmarked e.object = true :=
    unmarked_of_bare fun x hx ho => by
      rw [hl] at hx
      rcases List.mem_cons.mp hx with rfl | hx
      · exact ⟨hcleared.1, hcleared.2, hf⟩
      · exact absurd ho (rest_object_ne hwf hx)
  refine ⟨fun hmark hf hfreed hroom => ?plain, fun k f fault hf hk hslot hring hnext hfault hroom => ?fault,
    fun freed hmark hf hfreed hsound hdef hzero hroom => ?freed⟩
  case plain =>
    obtain ⟨hf', hnofault⟩ := hplain hf
    have hrun := hbegun (hserve (hmark.imp_right .inl)) hroom
    obtain ⟨t, ht⟩ : ∃ t, t = s.served ((board ++ event).foldl enqueue s.path.queue) (e' :: rest) count := ⟨_, rfl⟩
    have htlist : t.reports.list = e' :: rest := by rw [ht]; rfl
    have htfreed : t.freedByServing e.object = false := by rw [ht]; exact hfreed
    rw [hnofault, List.nil_append, ← ht, hfinish _ _ (hunmarked t htlist hf'), entryLeaves_keeps htfreed, ht] at hrun
    have hlists : (e' :: rest).filter (fun x => x.object != e.object) = rest := filter_first hwf hobject
    refine ⟨_, next_event hrun, hlists, rfl, ?_⟩
    rw [← hsteps]
    rfl
  case fault =>
    have hmarks : (e.marksNow s.ringSpace).fault = true := by simp [ReportEntry.marksNow, hf, hring]
    have hf' : e'.fault = false := by rw [he']; simp [ReportEntry.without, hmarks]
    have hsteps' : s.faultSteps w e (e.marksNow s.ringSpace) count
        = .faultGate k :: (recordSteps w count (faultEvent k f) ++ [.emptySlot k]) := by
      rw [State.faultSteps, hk]
      dsimp only
      rw [if_pos hmarks, hslot]
    have hwords : fault = recordWords w count (faultEvent k f) := hfault
    have howner := slotOwner_of_slot hk
    have hfold := foldl_enqueue_length (board ++ event) s.path.queue
    rw [List.length_append] at hfold
    obtain ⟨l, hl⟩ : ∃ l, l = markObject (e' :: rest) .engine true false false s.time := ⟨_, rfl⟩
    obtain ⟨t, ht⟩ : ∃ t : State, t = { s with
      path := { s.path with queue := (board ++ event ++ fault).foldl enqueue s.path.queue }
      reports := { s.reports with list := l, slots := put s.reports.slots k none, producer := count + 1 } } := ⟨_, rfl⟩
    have hrun : serveEntry s = serveSteps [.finish e.object] t := by
      rw [hbegun (hserve (.inr (.inr ⟨hf, hring⟩))) (by omega), hsteps', serveSteps_fault [.finish e.object] hw hnext
        (by rw [← hwords]; omega) ?_, ← hwords, ht, hl, ← List.foldl_append]
      intro x hx ho
      rcases List.mem_cons.mp hx with rfl | hx
      · exact hf'
      · exact absurd (ho.trans howner) (rest_object_ne hwf hx)
    by_cases hengine : e.object = .engine
    · have hmarked : l = e'.mark true false false s.time :: rest := by
        rw [hl, markObject, if_pos (by simp [hobject, hengine]), List.map_cons, if_pos (by simp [hobject, hengine])]
        refine congrArg (_ :: ·) ((List.map_congr_left fun x hx => ?_).trans (List.map_id rest))
        exact if_neg (by simpa [hengine] using rest_object_ne hwf hx)
      have hkept : t.unmarked e.object = false := by
        rw [State.unmarked, ht, hmarked]
        simp [ReportEntry.mark, hobject]
      have hfinished : serveSteps [.finish e.object] t = .ok () { t with reports := { t.reports with steps := [] } } :=
        (Op.bind_ok (Op.get_apply _)).trans (congrFun (if_neg (by rw [hkept]; decide)) _)
      refine ⟨_, next_event (hrun.trans hfinished), by rw [ht], by rw [ht], fun h => absurd hengine h, fun _ => ?_, ?_⟩
      · rw [ht]
        dsimp only
        rw [hmarked, he']
        simp only [ReportEntry.mark, ReportEntry.without, ReportEntry.marksNow, Bool.and_not_self, hf,
          Bool.or_true, Bool.or_false, Bool.false_eq_true, if_false, hring, Bool.and_true, Bool.not_true, Bool.and_false]
      · rw [ht, ← hsteps]
    · have hleft : l.filter (fun x => x.object != e.object) = markObject rest .engine true false false s.time := by
        rw [hl, filter_markObject (Ne.symm hengine), filter_first hwf hobject]
      have hbare : t.unmarked e.object = true := unmarked_of_bare fun x hx ho => by
        rw [ht, hl] at hx
        have hin : x ∈ e' :: rest := mem_of_markObject (by rw [ho]; exact hengine) hx
        rcases List.mem_cons.mp hin with rfl | hx
        · exact ⟨hcleared.1, hcleared.2, hf'⟩
        · exact absurd ho (rest_object_ne hwf hx)
      have hfinished := (hfinish e.object t hbare).trans (entryLeaves_keeps (freedByServing_of_slot t hk))
      refine ⟨_, next_event (hrun.trans hfinished), by rw [ht], by rw [ht], fun _ => ?_, fun h => absurd h hengine, ?_⟩
      · rw [ht]
        exact hleft
      · rw [ht, ← hsteps]
  case freed =>
    obtain ⟨hf', hnofault⟩ := hplain hf
    have hboardLength : board.length ≤ freed.length := by
      rw [hboard, hzero, List.length_map]
      split
      · exact Nat.le_refl _
      · exact Nat.zero_le _
    obtain ⟨t, ht⟩ : ∃ t, t = s.served ((board ++ event).foldl enqueue s.path.queue) (e' :: rest) count := ⟨_, rfl⟩
    have htlist : t.reports.list = e' :: rest := by rw [ht]; rfl
    have hrun : serveEntry s = entryLeaves e.object t := by
      rw [hbegun (hserve (hmark.imp_right .inl)) (by omega), hnofault, List.nil_append, ← ht,
        hfinish _ _ (hunmarked t htlist hf')]
    have hleft : t.reports.list.filter (fun x => x.object != e.object) = rest := by
      rw [htlist]; exact filter_first hwf hobject
    have htakes : takeWords (wordSteps freed) t.path.queue = ([], freed.foldl enqueue t.path.queue) := by
      have hq : t.path.queue = (board ++ event).foldl enqueue s.path.queue := by rw [ht]; rfl
      rw [hq]
      by_cases hb : e.board = true
      · refine takeWords_queued freed _ fun x hx => queued_foldl _ _ (.inr ?_)
        rw [hzero] at hx
        obtain ⟨y, hy, rfl⟩ := List.mem_map.mp hx
        exact ⟨y, List.mem_append_left _ (by rw [hboard, if_pos hb]; exact hy), rfl⟩
      · have hfold := foldl_enqueue_length (board ++ event) s.path.queue
        rw [List.length_append, hboard, if_neg hb, List.length_nil] at hfold
        refine takeWords_room freed _ ?_
        rw [hboard, if_neg hb]
        omega
    have hwin : t.path.windows = some w := by rw [ht]; exact hw
    cases ho : e.object with
    | call r =>
      rw [ho] at hfreed hzero hleft hrun
      obtain ⟨c, hr, hst⟩ := (Option.any_eq_true _ _).mp hfreed
      rw [State.boardWords, hr, wordsAt_zero (m := [0, 0, 0]) _ rfl] at hzero
      rw [hzero] at htakes
      have hleaves := entryLeaves_freesCall (s := t) hwin (by rw [ht]; exact hr) (beq_iff_eq.mp hst)
        (hsound.call_checked hr) (by rw [ht]; exact hdef) htakes
      rw [hleft] at hleaves
      refine ⟨_, next_event (hrun.trans hleaves), ?_, by rw [ht]; rfl, fun q => ?_, fun k => ?_, ?_⟩
      · rw [ht, hzero]; exact List.foldl_append.symm
      · by_cases hq : q = r
        · rw [hq, if_pos rfl]
          exact put_get_self _ _ _
        · rw [if_neg fun e => hq (Obj.call.inj e).symm, ht]
          exact put_get_ne _ _ _ _ hq
      · rw [if_neg (by simp), ht]; rfl
      · rw [ht, ← hsteps]; rfl
    | incident k =>
      rw [ho] at hfreed hzero hleft hrun
      obtain ⟨x, hk, hst⟩ := (Option.any_eq_true _ _).mp hfreed
      rw [State.boardWords, hk, wordsAt_zero (m := [0, 0, 0, 0]) _ rfl] at hzero
      rw [hzero] at htakes
      have hleaves := entryLeaves_freesIncident (s := t) hwin (by rw [ht]; exact hk) (beq_iff_eq.mp hst)
        (hsound.incident_checked hk) htakes
      rw [hleft] at hleaves
      refine ⟨_, next_event (hrun.trans hleaves), ?_, by rw [ht]; rfl, fun r => ?_, fun j => ?_, ?_⟩
      · rw [ht, hzero]; exact List.foldl_append.symm
      · rw [if_neg (by simp), ht]; rfl
      · by_cases hj : j = k
        · rw [hj, if_pos rfl]
          exact put_get_self _ _ _
        · rw [if_neg fun e => hj (Obj.incident.inj e).symm, ht]
          exact put_get_ne _ _ _ _ hj
      · rw [ht, ← hsteps]; rfl
    | post _ => simp [ho, State.freedByServing] at hfreed
    | position _ => simp [ho, State.freedByServing] at hfreed
    | segment _ => simp [ho, State.freedByServing] at hfreed
    | engine => simp [ho, State.freedByServing] at hfreed

end Sys2Proof.Machine
end

section
/-! SUPPORT. The used segments entering SWEEP (R89, R181, R189), the steps of a start-up (R181), and the obligation about its
end. -/

namespace Sys2Proof.Machine

/-! ### Segments that enter SWEEP one after another -/

/-- What some segments entering SWEEP leave, each by its own entry. -/
structure State.EntersSweeps (s u : State) (gs : List (Fin 8)) : Prop where
  frame : ∃ segs ls es ps l d, u = { s with
    segments := segs, lines := ls, ends := es, posts := ps, reports := { s.reports with list := l }, dispatchDue := d }
  checked : ∀ i, (u.post i).corrupt = false
  others : ∀ g, g ∉ gs → u.segment g = s.segment g ∧ (∀ i, postSegment i = g → u.post i = s.post i)
    ∧ ∀ l, l.segment = g → u.line l = s.line l
  prepared : ∀ g, g ∈ gs → ∀ i, postSegment i = g → (u.post i).side = .near ∧ (u.post i).state = (s.post i).sweptState
  either : ∀ g, g ∈ gs → (u.segment g).state = .sweep ∨ (u.segment g).state = .active
  listed : ∀ g, g ∈ gs → (s.segment g).farFeed = false → s.nearSweepList g ≠ [] → (u.segment g).state = .sweep
  unlisted : ∀ g, g ∈ gs → (s.segment g).farFeed = false → s.nearSweepList g = [] →
    (s.line (nearOf g)).exchange = none → (u.segment g).state = .active

theorem enterSweeps_runs (gs : List (Fin 8)) (hnodup : gs.Nodup) {s : State} (hc : ∀ i, (s.post i).corrupt = false) :
    ∃ u, (gs.forM enterSweep : Op PUnit) s = .ok ⟨⟩ u ∧ s.EntersSweeps u gs := by
  induction gs generalizing s with
  | nil =>
    exact ⟨s, rfl, ⟨_, _, _, _, _, _, rfl⟩, hc, fun _ _ => ⟨rfl, fun _ _ => rfl, fun _ _ => rfl⟩,
      fun _ h => absurd h List.not_mem_nil, fun _ h => absurd h List.not_mem_nil, fun _ h => absurd h List.not_mem_nil,
      fun _ h => absurd h List.not_mem_nil⟩
  | cons g gs ih =>
    obtain ⟨hg, hnodup⟩ := List.nodup_cons.mp hnodup
    obtain ⟨t, ht, hone⟩ := enterSweep_runs g s hc
    obtain ⟨u, hu, hrest⟩ := ih hnodup hone.checked
    obtain ⟨_, _, _, _, _, _, htf⟩ := hone.frame
    obtain ⟨_, _, _, _, _, _, huf⟩ := hrest.frame
    obtain ⟨hgs, hgp, hgl⟩ := hrest.others g hg
    have hlist (k : Fin 8) : t.nearSweepList k = s.nearSweepList k := nearSweepList_congr (by rw [htf]) (by rw [htf]) k
    refine ⟨u, ?_, ⟨_, _, _, _, _, _, by rw [huf, htf]⟩, hrest.checked, fun k hk => ?_, fun k hk i hi => ?_, fun k hk => ?_,
      fun k hk hf hl => ?_, fun k hk hf hl hx => ?_⟩
    · simp only [List.forM_eq_forM, List.forM_cons] at hu ⊢
      exact (Op.bind_ok ht).trans hu
    · have hkg : k ≠ g := fun e => hk (List.mem_cons.mpr (.inl e))
      have hkgs : k ∉ gs := fun h => hk (List.mem_cons_of_mem g h)
      obtain ⟨hs, hp, hl⟩ := hrest.others k hkgs
      exact ⟨hs.trans (hone.segments k hkg), fun i hi => (hp i hi).trans (hone.posts i (by rw [hi]; exact hkg)),
        fun l hk' => (hl l hk').trans (hone.lines l (by rw [hk']; exact hkg))⟩
    · by_cases hkg : k = g
      · rw [hgp i (hi.trans hkg)]
        exact hone.prepared i (hi.trans hkg)
      · obtain ⟨hside, hstate⟩ := hrest.prepared k ((List.mem_cons.mp hk).resolve_left hkg) i hi
        exact ⟨hside, by rw [hstate, Post.sweptState, Post.sweptState, hone.posts i (by rw [hi]; exact hkg)]⟩
    · by_cases hkg : k = g
      · rw [hkg, hgs]
        exact hone.either
      · exact hrest.either k ((List.mem_cons.mp hk).resolve_left hkg)
    · by_cases hkg : k = g
      · subst hkg
        rw [hgs, (hone.listed hf hl).1]
        rfl
      · exact hrest.listed k ((List.mem_cons.mp hk).resolve_left hkg) (by rw [hone.segments k hkg]; exact hf)
          (by rw [hlist]; exact hl)
    · by_cases hkg : k = g
      · subst hkg
        rw [hgs]
        exact hone.unlisted hf hl hx
      · exact hrest.unlisted k ((List.mem_cons.mp hk).resolve_left hkg) (by rw [hone.segments k hkg]; exact hf)
          (by rw [hlist]; exact hl) (by rw [hone.lines (nearOf k) hkg]; exact hx)

theorem mem_usedSegments {s : State} {g : Fin 8} : g ∈ s.usedSegments ↔ segmentUsed s.path.anchor g = true := by
  simp [State.usedSegments]

theorem sweepUsed_runs {s : State} (hc : ∀ i, (s.post i).corrupt = false) :
    ∃ u, sweepUsed s = .ok () u ∧ s.EntersSweeps u s.usedSegments := by
  obtain ⟨u, hu, h⟩ := enterSweeps_runs s.usedSegments ((List.nodup_finRange 8).filter _) hc
  exact ⟨u, (Op.bind_ok (Op.get_apply _)).trans hu, h⟩

/-! ### The steps of a start-up (R181) -/

theorem loadDirectory_eq {s : State} {w : WindowSet} (hw : s.path.windows = some w) : s.loadDirectory = { s with
    path := { s.path with partTurn := false, readWords := 0 }
    directory := Vector.ofFn (memoryEntry s.mem w.directoryBase), engine := { s.engine with step := .idle } } := by
  have hwin : s.readDone.path.windows = some w := hw
  rw [State.loadDirectory, hwin]
  rfl

theorem clearRestartCount_frame (s : State) : ∃ q n l c, s.clearRestartCount = { s with
    path := { s.path with queue := q, engineWaiting := n }, reports := { s.reports with list := l }
    engine := { s.engine with restartCount := 0, lastChange := c } } := by
  unfold State.clearRestartCount
  split
  next h => exact ⟨s.path.queue, s.path.engineWaiting, s.reports.list, s.engine.lastChange, by rw [← h]⟩
  next => exact ⟨_, _, _, _, rfl⟩

theorem clearRestartCount_lines (s : State) : s.clearRestartCount.lines = s.lines := by
  obtain ⟨_, _, _, _, h⟩ := clearRestartCount_frame s
  rw [h]

theorem writeBoard_frame (s : State) : ∃ q n, s.writeBoard
    = { s with path := { s.path with queue := q, engineWaiting := n } } := by
  unfold State.writeBoard
  split
  · exact ⟨_, _, rfl⟩
  · exact engineWrites_frame _ s

theorem keepFaultMarks_frame (s : State) : ∃ l f, s.keepFaultMarks
    = { s with reports := { s.reports with list := l, startFaults := f } } := by
  obtain ⟨l, hl⟩ := relistFaults_frame { s with reports := { s.reports with
    list := (s.reports.list.filter (fun e => e.fault)).map ReportEntry.faultOnly } }
  rw [State.keepFaultMarks, hl]
  exact ⟨_, _, rfl⟩

theorem setEngineState_frame (st : EngineState) (s : State) : ∃ q n l c, s.setEngineState st = { s with
    path := { s.path with queue := q, engineWaiting := n }, reports := { s.reports with list := l }
    engine := { s.engine with state := st, lastChange := c } } := ⟨_, _, _, _, rfl⟩

/-- The records at their start values, beside some line sides (R66, R89, R111, R127, R149, R162). -/
def State.recordsReset (s : State) (ls : Vector LineSide 16) : State := { s with
  posts := Vector.replicate 256 .reset
  positions := Vector.replicate 16 .reset
  segments := Vector.replicate 8 .reset
  calls := s.calls.emptied
  cluster := { s.cluster with records := Vector.replicate 16 none }
  speech := { s.speech with channels := Vector.replicate 32 .freed, connections := Vector.replicate 16 none }
  engine := { s.engine with history := [] }
  lines := ls }

theorem recordsReset_lines (s : State) (ls : Vector LineSide 16) : (s.recordsReset ls).lines = ls := rfl

theorem recordsReset_again (s : State) (ks ls : Vector LineSide 16) :
    { s.recordsReset ks with lines := ls } = s.recordsReset ls := rfl

theorem startRecords_eq (s : State) : s.startRecords = (s.recordsReset s.lines).syncAllPolled.clearRestartCount := by
  rw [State.startRecords, State.recordsReset]

/-- The line sides keep their exchanges where the records take their start values. -/
theorem startRecords_frame (s : State) : (∃ ls q n l c, s.startRecords = { s.recordsReset ls with
    path := { s.path with queue := q, engineWaiting := n }, reports := { s.reports with list := l }
    engine := { s.engine with history := [], restartCount := 0, lastChange := c } })
      ∧ ∀ l, (s.startRecords.line l).exchange = (s.line l).exchange := by
  obtain ⟨⟨ls, hls⟩, hlines⟩ := syncAllPolled_pollsOnly (s.recordsReset s.lines)
  obtain ⟨q, n, l, c, h⟩ := clearRestartCount_frame (s.recordsReset s.lines).syncAllPolled
  have hreset : (s.recordsReset s.lines).syncAllPolled = s.recordsReset ls := hls.trans (recordsReset_again s _ ls)
  refine ⟨⟨ls, q, n, l, c, by rw [startRecords_eq, h, hreset]; rfl⟩, fun k => ?_⟩
  have hk : s.startRecords.lines = (s.recordsReset s.lines).syncAllPolled.lines := by
    rw [startRecords_eq, clearRestartCount_lines]
  have hline : s.startRecords.line k = (s.recordsReset s.lines).syncAllPolled.line k := by simp only [State.line, hk]
  have hback : (s.recordsReset s.lines).line k = s.line k := by rw [State.line, State.line, recordsReset_lines]
  rw [hline, hlines k, hback]

end Sys2Proof.Machine
end

section
/-! SUPPORT. The obligation about the end of a start-up (R181). -/

namespace Sys2Proof.Machine

/-- The records as a start-up sets them from the directory's and the anchor's words, before the sweeps begin. -/
def State.startedUp (s : State) : State :=
  s.loadDirectory.setCommandIndices.setEventIndices.startRecords.writeBoard.keepFaultMarks

theorem startedUp_frame {s : State} {w : WindowSet} (hw : s.path.windows = some w) : (∃ slots q n ls rl f c,
    s.startedUp = { s.recordsReset ls with
      path := { s.path with slots, published := [], refused := [], taker := .idle, heldProducer := s.anchorWord 14
                            heldConsumer := s.anchorWord 14, queue := q, engineWaiting := n, partTurn := false, readWords := 0 }
      directory := Vector.ofFn (memoryEntry s.mem w.directoryBase)
      reports := { s.reports with
        producer := s.anchorWord 17, consumer := s.anchorWord 17, steps := [], list := rl, startFaults := f }
      engine := { s.engine with step := .idle, history := [], restartCount := 0, lastChange := c } })
    ∧ ∀ l, (s.startedUp.line l).exchange = (s.line l).exchange := by
  obtain ⟨a, ha⟩ : ∃ a, a = s.loadDirectory := ⟨_, rfl⟩
  obtain ⟨b, hb⟩ : ∃ b, b = a.setCommandIndices := ⟨_, rfl⟩
  obtain ⟨c, hc⟩ : ∃ c, c = b.setEventIndices := ⟨_, rfl⟩
  obtain ⟨d, hd⟩ : ∃ d, d = c.startRecords := ⟨_, rfl⟩
  obtain ⟨e, he⟩ : ∃ e, e = d.writeBoard := ⟨_, rfl⟩
  have hs : s.startedUp = e.keepFaultMarks := by rw [he, hd, hc, hb, ha]; rfl
  obtain ⟨q₁, n₁, hbf⟩ := engineWrites_frame [⟨Config.anchorAddress Config.commandConsumer.val, a.anchorWord 14⟩]
    { a with path := { a.path with
      slots := Vector.replicate 64 .reset, published := [], refused := [], taker := .idle
      heldProducer := a.anchorWord 14, heldConsumer := a.anchorWord 14 } }
  obtain ⟨q₂, n₂, hcf⟩ := engineWrites_frame [⟨producerAddress, b.anchorWord 17⟩]
    { b with reports := { b.reports with producer := b.anchorWord 17, consumer := b.anchorWord 17, steps := [] } }
  obtain ⟨⟨ls, q₃, n₃, l₃, c₃, hdf⟩, hlines⟩ := startRecords_frame c
  obtain ⟨q₄, n₄, hef⟩ := writeBoard_frame d
  obtain ⟨rl, f, hkf⟩ := keepFaultMarks_frame e
  rw [← hd] at hdf hlines
  rw [← he] at hef
  have hbf' := hb.trans hbf
  have hcf' := hc.trans hcf
  rw [loadDirectory_eq hw] at ha
  have hlin : c.lines = s.lines := by rw [hcf', hbf', ha]
  have hline (k : LineId) : c.line k = s.line k := by simp only [State.line, hlin]
  have hend : s.startedUp.lines = d.lines := by rw [hs, hkf, hef]
  have hlast (k : LineId) : s.startedUp.line k = d.line k := by simp only [State.line, hend]
  refine ⟨⟨Vector.replicate 64 .reset, q₄, n₄, ls, rl, f, c₃, ?_⟩, fun l => by rw [hlast, hlines, hline]⟩
  rw [hs, hkf, hef, hdf, hcf', hbf', ha]
  rfl

/-- Settles O27: the records take their start values, the used segments sweep, and the engine enters RUN. -/
theorem directoryReadEndsStartUpInRun : Obligations.DirectoryReadEndsStartUpInRun := by
  unfold Obligations.DirectoryReadEndsStartUpInRun
  intro s w hstep hq hn hw hrun hheld hlines
  obtain ⟨⟨_, _, _, _, _, _, _, htf⟩, htl⟩ := startedUp_frame hw
  obtain ⟨t, ht⟩ : ∃ t, t = s.startedUp := ⟨_, rfl⟩
  rw [← ht] at htf htl
  have hposts : t.posts = Vector.replicate 256 .reset := by rw [htf]; rfl
  have hsegs : t.segments = Vector.replicate 8 .reset := by rw [htf]; rfl
  have hpos : t.positions = Vector.replicate 16 .reset := by rw [htf]; rfl
  have hpost (i : Fin 256) : t.post i = .reset := by rw [State.post, hposts, Vector.get_eq_getElem, Vector.getElem_replicate]
  have hseg (g : Fin 8) : t.segment g = .reset := by rw [State.segment, hsegs, Vector.get_eq_getElem, Vector.getElem_replicate]
  obtain ⟨v, hv, hsweeps⟩ := sweepUsed_runs (s := t) fun i => by rw [hpost]; rfl
  obtain ⟨segs, ls, es, ps, rl, d, hvf⟩ := hsweeps.frame
  obtain ⟨q, n, l, c, huf⟩ := setEngineState_frame .run v
  obtain ⟨u, hu⟩ : ∃ u, u = v.setEngineState .run := ⟨_, rfl⟩
  rw [← hu] at huf
  have hused (g : Fin 8) : g ∈ t.usedSegments ↔ segmentUsed s.path.anchor g = true := by rw [mem_usedSegments, htf]
  have hnear (g : Fin 8) : u.nearSweepList g = t.nearSweepList g :=
    nearSweepList_congr (by rw [huf, hvf]) (by rw [huf, hvf]) g
  have hpst : u.posts = v.posts := by rw [huf]
  have hsgm : u.segments = v.segments := by rw [huf]
  have hup (i : Fin 256) : u.post i = v.post i := by rw [State.post, hpst]; rfl
  have hus (g : Fin 8) : u.segment g = v.segment g := by rw [State.segment, hsgm]; rfl
  have hcond : (s.engine.step == .directoryRead && s.queueDry) = true := by
    rw [State.queueDry, hstep, hq, hn]; rfl
  have hctl : u.controlRun = true := by
    rw [← hrun, State.controlRun, State.controlRun, State.anchorWord, State.anchorWord, huf, hvf, htf]
  have hends : directoryRead s = .ok () u := by
    rw [directoryRead]
    refine (Op.bind_ok (Op.get_apply _)).trans ((congrFun (if_pos hcond) _).trans ?_)
    refine (Op.bind_ok (Op.set_apply _ _)).trans ?_
    rw [← State.startedUp, ← ht]
    refine (Op.bind_ok hv).trans ((Op.bind_ok (Op.modify_apply _ _)).trans ((Op.bind_ok (Op.get_apply _)).trans ?_))
    rw [← hu]
    exact (congrFun (if_pos hctl) _).trans rfl
  refine ⟨u, ?_, ?_, ?_, ?_, ?_, fun i => ?_, ?_, ?_, ?_, ?_, ?_, fun r => ?_, fun k => ?_, fun p => ?_, fun i => ?_, fun g => ?_,
    ?_, ?_, ?_, ?_, ?_⟩
  · change Host.Outcome.next (s.settle directoryRead).serveHeld.followUp = _
    rw [settle_ok _ _ _ hends, serveHeld_none _ (by rw [huf, hvf, htf]; exact hheld)]
  · rw [huf]
  · rw [huf, hvf, htf]
  · rw [huf, hvf, htf]
  · rw [huf, hvf, htf]
  · rw [State.entry, huf, hvf, htf]; simp [Vector.get_eq_getElem]
  · rw [huf, hvf, htf]
  · rw [huf, hvf, htf]
  · rw [huf, hvf, htf]
  · rw [huf, hvf, htf]
  · rw [huf, hvf, htf]
  · rw [State.call, huf, hvf, htf]; simp [State.recordsReset, Vector.get_eq_getElem, CallTable.emptied]
  · rw [State.incident, huf, hvf, htf]; simp [State.recordsReset, Vector.get_eq_getElem]
  · rw [State.position, huf, hvf, htf]; simp [State.recordsReset, Vector.get_eq_getElem]
  · rw [hup]
    by_cases hg : segmentUsed s.path.anchor (postSegment i) = true
    · rw [if_pos hg, (hsweeps.prepared _ ((hused _).mpr hg) i rfl).2, hpost]
      rfl
    · rw [if_neg hg, (hsweeps.others _ (mt (hused _).mp hg)).2.1 i rfl, hpost]
      rfl
  · rw [hus, hnear]
    have hfar : (t.segment g).farFeed = false := by rw [hseg]; rfl
    by_cases hg : segmentUsed s.path.anchor g = true
    · rw [if_pos hg]
      by_cases hl : t.nearSweepList g = []
      · rw [if_pos hl]
        exact hsweeps.unlisted g ((hused g).mpr hg) hfar hl (by rw [htl]; exact (hlines _).2)
      · rw [if_neg hl]
        exact hsweeps.listed g ((hused g).mpr hg) hfar hl
    · rw [if_neg hg, (hsweeps.others g (mt (hused g).mp hg)).1, hseg]
      rfl
  · rw [huf, hvf, htf]; rfl
  · rw [huf, hvf, htf]; rfl
  · rw [huf, hvf, htf]; rfl
  · rw [huf, hvf, htf]; rfl
  · rw [huf, hvf, htf]; rfl

end Sys2Proof.Machine
end

section
/-! SUPPORT. The line sides OFF, the used segments INHIBITED and the positions CLOSED, as the engine enters STANDBY or
FAILED (R45, R89, R149). -/

namespace Sys2Proof.Machine

/-! ### Line sides that are off and stay so -/

/-- A line side that is OFF with nothing in flight and nothing to send (R45). -/
def LineSide.Retired (x : LineSide) : Prop := x.state = .off ∧ x.exchange = none ∧ x.service = []

/-- What the posts and segments leaving the line may change; a line side that is off stays so. -/
structure State.Retires (s u : State) : Prop where
  frame : ∃ segs ls es ps l, u = { s with
    segments := segs, lines := ls, ends := es, posts := ps, reports := { s.reports with list := l } }
  off : ∀ l, (s.line l).Retired → (u.line l).Retired

theorem State.Retires.refl (s : State) : s.Retires s := ⟨⟨_, _, _, _, _, rfl⟩, fun _ h => h⟩

theorem State.Retires.trans {s t u : State} (h : s.Retires t) (k : t.Retires u) : s.Retires u := by
  obtain ⟨_, _, _, _, _, rfl⟩ := h.frame
  obtain ⟨_, _, _, _, _, hu⟩ := k.frame
  exact ⟨⟨_, _, _, _, _, hu⟩, fun l hl => k.off l (h.off l hl)⟩

theorem State.Retires.anchor {s u : State} (h : s.Retires u) : u.path.anchor = s.path.anchor := by
  obtain ⟨_, _, _, _, _, h⟩ := h.frame
  rw [h]

theorem retires_updateLine (k : LineId) (f : LineSide → LineSide) (s : State)
    (h : ∀ x : LineSide, x.Retired → (f x).Retired) : s.Retires (s.updateLine k f) :=
  ⟨⟨_, _, _, _, _, rfl⟩, fun l hl => by
    by_cases hk : l = k
    · subst hk
      rw [updateLine_self_line]
      exact h _ hl
    · rw [updateLine_line_ne f s hk]
      exact hl⟩

/-- An operation on one post retires it where a line side with nothing to send gets nothing. -/
theorem retires_of_touches {s u : State} {i : Fin 256} (h : s.TouchesPost u i)
    (hoff : ∀ l, (s.line l).Retired → (u.line l).Retired) : s.Retires u := by
  obtain ⟨_, _, _, hf⟩ := h.frame
  exact ⟨⟨_, _, _, _, _, hf⟩, hoff⟩

theorem retires_of_polls {s u : State} (h : s.PollsOnly u) : s.Retires u := by
  obtain ⟨⟨_, hf⟩, hl⟩ := h
  refine ⟨⟨_, _, _, _, _, hf⟩, fun l hr => ?_⟩
  rw [hl]
  exact hr

theorem setPost_retires (i : Fin 256) (p : Post) (s : State) : s.Retires (s.setPost i p) := by
  refine retires_of_touches (touchesPost_setPost i p s) fun l hl => ?_
  simp only [State.setPost]
  refine (retires_of_polls (syncPolled_pollsOnly i _)).off l ?_
  split <;> exact hl

theorem loseTest_retires (i : Fin 256) (lost : Bool) (s : State) : s.Retires (s.loseTest i lost) := by
  simp only [State.loseTest]
  split
  · split
    · exact ⟨⟨_, _, _, _, _, rfl⟩, fun _ h => h⟩
    · exact setPost_retires i _ s
  · exact .refl s

theorem setCommands_nil_retires (i : Fin 256) (s : State) : s.Retires (s.setCommands i []) := by
  rw [State.setCommands, State.syncService]
  refine (setPost_retires i _ s).trans (retires_updateLine _ _ _ fun x hx => ?_)
  obtain ⟨hst, hex, hse⟩ := hx
  rw [State.setPost_self]
  exact ⟨hst, hex, by simp [hse]⟩

theorem emptyCommands_retires (i : Fin 256) (b : Bool) (s : State) : s.Retires (s.emptyCommands i b) := by
  simp only [State.emptyCommands]
  split
  · exact .refl s
  · exact (loseTest_retires i _ s).trans (setCommands_nil_retires i _)

theorem makeUnreachable_retires (i : Fin 256) (s : State) : s.Retires (s.makeUnreachable i) := by
  simp only [State.makeUnreachable]
  split
  case h_1 | h_2 | h_3 => exact (setPost_retires i _ s).trans (emptyCommands_retires i true _)
  case h_4 | h_5 => exact .refl s

theorem feedsOff_retires (g : Fin 8) (x : Segment) (s : State) : s.Retires (s.feedsOff g x) := by
  obtain ⟨l, hset⟩ := setSegment_frame g { x with stableTimer := none, farFeed := false, broken := none } s
  rw [State.feedsOff, hset]
  refine State.Retires.trans (t := _) ⟨⟨_, _, _, _, _, rfl⟩, fun _ h => h⟩
    (((retires_updateLine (nearOf g) _ _ fun x hx => ?_).trans (retires_updateLine (farOf g) _ _ fun x hx => ?_)).trans
      ⟨⟨_, _, _, _, _, rfl⟩, fun _ h => h⟩)
  · exact ⟨rfl, rfl, hx.2.2⟩
  · exact ⟨rfl, rfl, hx.2.2⟩

/-! ### Every post of a list in turn -/

/-- An operation on each post of a list retires the posts, and each becomes what the operation makes of it. -/
theorem foldl_posts {f : State → Fin 256 → State} {h : Post → Post} (hcheck : ∀ p, (h p).corrupt = p.corrupt)
    (hseg : ∀ (s : State) i, (f s i).segments = s.segments) (hret : ∀ (s : State) i, s.Retires (f s i))
    (hother : ∀ (s : State) i j, j ≠ i → (f s i).post j = s.post j)
    (hpost : ∀ (s : State) i, (s.post i).corrupt = false → (f s i).post i = h (s.post i)) (l : List (Fin 256)) (hnodup : l.Nodup) :
    ∀ s : State, (∀ i, (s.post i).corrupt = false) → s.Retires (l.foldl f s) ∧ (l.foldl f s).segments = s.segments
      ∧ ∀ j, (l.foldl f s).post j = if j ∈ l then h (s.post j) else s.post j := by
  induction l with
  | nil => exact fun s _ => ⟨.refl s, rfl, fun j => (if_neg List.not_mem_nil).symm⟩
  | cons i l ih =>
    intro s hc
    obtain ⟨hi, hl⟩ := List.nodup_cons.mp hnodup
    obtain ⟨hr, hs, hp⟩ := ih hl (f s i) fun j => by
      by_cases hj : j = i
      · rw [hj, hpost s i (hc i), hcheck]; exact hc i
      · rw [hother s i j hj]; exact hc j
    refine ⟨(hret s i).trans hr, hs.trans (hseg s i), fun j => (hp j).trans ?_⟩
    by_cases hj : j = i
    · rw [hj, if_neg hi, if_pos List.mem_cons_self, hpost s i (hc i)]
    · rw [hother s i j hj]
      simp [hj]

theorem emptyCommands_quiet_post {i : Fin 256} {s : State} (hc : (s.post i).corrupt = false) :
    (s.emptyCommands i false).post i = { s.post i with commands := [] } := by
  simp only [State.emptyCommands]
  split
  case isTrue h =>
    have hnil : (s.post i).commands = [] := List.isEmpty_iff.mp h
    rw [← hnil]
  case isFalse => simp [State.loseTest, hc]

theorem State.TouchesPost.segments {s u : State} {i : Fin 256} (h : s.TouchesPost u i) : u.segments = s.segments := by
  obtain ⟨_, _, _, hf⟩ := h.frame
  rw [hf]

/-- Every line side goes OFF, and no post has a command pending (R45). -/
theorem linesToOff_retires {s : State} (hc : ∀ i, (s.post i).corrupt = false) : s.Retires s.linesToOff
    ∧ s.linesToOff.segments = s.segments ∧ (∀ l, (s.linesToOff.line l).Retired)
    ∧ ∀ i, s.linesToOff.post i = { s.post i with commands := [] } := by
  obtain ⟨t, ht⟩ : ∃ t : State, t = { s with lines := s.lines.map LineSide.shut } := ⟨_, rfl⟩
  have hoff (l : LineId) : (t.line l).Retired := by
    rw [ht, State.line, Vector.get_eq_getElem, Vector.getElem_map]
    exact ⟨rfl, rfl, rfl⟩
  have htp (i : Fin 256) : t.post i = s.post i := by rw [ht]; rfl
  obtain ⟨hr, hs, hp⟩ := foldl_posts (f := fun s i => s.emptyCommands i false) (h := fun p => { p with commands := [] })
    (fun _ => rfl) (fun s i => (emptyCommands_touches i false s).segments) (fun s i => emptyCommands_retires i false s)
    (fun s i => (emptyCommands_touches i false s).posts) (fun s i h => emptyCommands_quiet_post h)
    (List.finRange 256) (List.nodup_finRange 256) t fun i => by rw [htp]; exact hc i
  have hdef : s.linesToOff = (List.finRange 256).foldl (fun s i => s.emptyCommands i false) t := by rw [ht]; rfl
  rw [hdef]
  obtain ⟨_, _, _, _, _, hf⟩ := hr.frame
  refine ⟨⟨?_, fun l _ => hr.off l (hoff l)⟩, hs.trans (by rw [ht]), fun l => hr.off l (hoff l), fun i => ?_⟩
  · rw [hf, ht]
    exact ⟨_, _, _, _, _, rfl⟩
  · rw [hp, if_pos (List.mem_finRange i), htp]

/-! ### The used segments INHIBITED (R89) -/

/-- A used segment that the engine's leaving service inhibits (R89). -/
def Segment.inhibitedNow (x : Segment) : Segment := { Segment.reset with state := .inhibited, retryCount := x.retryCount }

theorem inhibitSegmentNow_retires {g : Fin 8} {s : State} (hc : ∀ i, (s.post i).corrupt = false) :
    s.Retires (s.inhibitSegmentNow g) ∧ (s.inhibitSegmentNow g).segment g = (s.segment g).inhibitedNow
      ∧ (∀ k, k ≠ g → (s.inhibitSegmentNow g).segment k = s.segment k)
      ∧ ∀ i, (s.inhibitSegmentNow g).post i = if postSegment i = g then (s.post i).lost else s.post i := by
  obtain ⟨x, hx⟩ : ∃ x, x = { s.segment g with state := .inhibited, retryTimer := none } := ⟨_, rfl⟩
  obtain ⟨t, ht⟩ : ∃ t, t = s.feedsOff g x := ⟨_, rfl⟩
  have hoff := feedsOff_turnsOff g x s
  have hret := feedsOff_retires g x s
  rw [← ht] at hoff hret
  have htp (i : Fin 256) : t.post i = s.post i := by
    obtain ⟨_, _, _, _, hf⟩ := hoff.frame
    rw [hf]
    rfl
  have hdef : s.inhibitSegmentNow g = (segmentPosts g).foldl (fun s i => s.makeUnreachable i) t := by rw [ht, hx]; rfl
  have hnodup : (segmentPosts g).Nodup := segmentPosts_nodup g
  obtain ⟨hr, hs, hp⟩ := foldl_posts (f := fun s i => s.makeUnreachable i) lost_corrupt
    (fun s i => (makeUnreachable_touches i s).segments) (fun s i => makeUnreachable_retires i s)
    (fun s i => (makeUnreachable_touches i s).posts) (fun s i h => makeUnreachable_post h)
    (segmentPosts g) hnodup t fun i => by rw [htp]; exact hc i
  rw [hdef]
  have hsegment (k : Fin 8) : ((segmentPosts g).foldl (fun s i => s.makeUnreachable i) t).segment k = t.segment k := by
    rw [State.segment, hs]
    rfl
  refine ⟨hret.trans hr, ?_, fun k hk => (hsegment k).trans (hoff.segments k hk), fun i => ?_⟩
  · rw [hsegment, hoff.segment, hx]
    rfl
  · rw [hp, htp]
    simp only [mem_segmentPosts]

theorem inhibit_foldl (gs : List (Fin 8)) (hnodup : gs.Nodup) : ∀ s : State, (∀ i, (s.post i).corrupt = false) →
    s.Retires (gs.foldl (fun s g => if segmentUsed s.path.anchor g then s.inhibitSegmentNow g else s) s)
      ∧ (∀ g, (gs.foldl (fun s g => if segmentUsed s.path.anchor g then s.inhibitSegmentNow g else s) s).segment g
          = if g ∈ gs ∧ segmentUsed s.path.anchor g = true then (s.segment g).inhibitedNow else s.segment g)
      ∧ ∀ i, (gs.foldl (fun s g => if segmentUsed s.path.anchor g then s.inhibitSegmentNow g else s) s).post i
          = if postSegment i ∈ gs ∧ segmentUsed s.path.anchor (postSegment i) = true then (s.post i).lost else s.post i := by
  induction gs with
  | nil => exact fun s _ => ⟨.refl s, fun g => by simp, fun i => by simp⟩
  | cons g gs ih =>
    intro s hc
    obtain ⟨hg, hl⟩ := List.nodup_cons.mp hnodup
    rw [List.foldl_cons]
    by_cases hused : segmentUsed s.path.anchor g = true
    · rw [if_pos hused]
      obtain ⟨hr, hs, hne, hp⟩ := inhibitSegmentNow_retires (g := g) hc
      obtain ⟨hr', hs', hp'⟩ := ih hl (s.inhibitSegmentNow g) fun i => by
        rw [hp]
        split
        · rw [lost_corrupt]; exact hc i
        · exact hc i
      refine ⟨hr.trans hr', fun k => ?_, fun i => ?_⟩
      · rw [hs', hr.anchor]
        by_cases hk : k = g
        · subst hk
          rw [if_neg fun h => hg h.1, if_pos ⟨List.mem_cons_self, hused⟩, hs]
        · rw [hne k hk]
          simp [hk]
      · rw [hp', hr.anchor, hp]
        by_cases hk : postSegment i = g
        · rw [if_pos hk, if_neg fun h => hg (hk ▸ h.1), if_pos ⟨by rw [hk]; exact List.mem_cons_self, by rw [hk]; exact hused⟩]
        · rw [if_neg hk]
          simp [hk]
    · rw [if_neg hused]
      obtain ⟨hr', hs', hp'⟩ := ih hl s hc
      refine ⟨hr', fun k => (hs' k).trans ?_, fun i => (hp' i).trans ?_⟩
      · by_cases hk : k = g
        · subst hk
          rw [if_neg fun h => hused h.2, if_neg fun h => hused h.2]
        · simp [hk]
      · by_cases hk : postSegment i = g
        · rw [if_neg fun h => hused (hk ▸ h.2), if_neg fun h => hused (hk ▸ h.2)]
        · simp [hk]

/-- The line sides are OFF, and the used segments INHIBITED with their posts lost (R45, R89). -/
theorem outOfService_retires {s : State} (hc : ∀ i, (s.post i).corrupt = false) : s.Retires s.linesToOff.inhibitUsed
    ∧ (∀ l, (s.linesToOff.inhibitUsed.line l).Retired)
    ∧ (∀ g, s.linesToOff.inhibitUsed.segment g
        = if segmentUsed s.path.anchor g = true then (s.segment g).inhibitedNow else s.segment g)
    ∧ ∀ i, s.linesToOff.inhibitUsed.post i = { s.post i with
        commands := []
        state := if segmentUsed s.path.anchor (postSegment i) = true ∧ (s.post i).state ≠ .isolated then .unreachable
          else (s.post i).state } := by
  obtain ⟨hr, hs, hl, hp⟩ := linesToOff_retires hc
  obtain ⟨hr', hs', hp'⟩ := inhibit_foldl (List.finRange 8) (List.nodup_finRange 8) s.linesToOff fun i => by
    rw [hp]; exact hc i
  have hseg (g : Fin 8) : s.linesToOff.segment g = s.segment g := by rw [State.segment, hs]; rfl
  rw [State.inhibitUsed]
  refine ⟨hr.trans hr', fun l => hr'.off l (hl l), fun g => ?_, fun i => ?_⟩
  · rw [hs', hr.anchor, hseg]
    simp
  · rw [hp', hr.anchor, hp]
    by_cases hu : segmentUsed s.path.anchor (postSegment i) = true
    · rw [if_pos ⟨List.mem_finRange _, hu⟩]
      cases hst : (s.post i).state <;> simp [Post.lost, hst, hu]
    · rw [if_neg fun h => hu h.2, if_neg fun h => hu h.1]

/-! ### The positions CLOSED (R149) -/

/-- A position as the engine's leaving service closes it (R149). -/
def Position.shut (x : Position) : Position := { x.idle .closed with held := [] }

theorem shutPosition_runs {p : Fin 16} {s : State} (hc : (s.position p).corrupt = false) : ∃ l,
    shutPosition p s = .ok () { s with
      positions := put s.positions p (s.position p).shut, reports := { s.reports with list := l } } := by
  have hshut : ({ (s.position p).cleared with state := .closed, held := [] } : Position) = (s.position p).shut := rfl
  rw [shutPosition]
  by_cases h : s.position p = (s.position p).shut
  · have hput : put s.positions p (s.position p).shut = s.positions := by
      rw [← h]
      exact (put_of_same fun _ _ => rfl).symm
    refine ⟨s.reports.list, (Op.bind_ok (readPosition_ok s p hc)).trans ((congrFun (if_pos (h.trans hshut.symm)) _).trans ?_)⟩
    rw [hput]
    rfl
  · refine ⟨markObject s.reports.list (.position p) true true false s.time, (Op.bind_ok (readPosition_ok s p hc)).trans
      ((congrFun (if_neg fun e => h (e.trans hshut)) _).trans ((Op.modify_apply _ _).trans ?_))⟩
    rw [hshut, setPosition_eq p (x := (s.position p).shut) hc]

/-- The positions of a list are CLOSED one after another. -/
theorem shutPosition_forM (ps : List (Fin 16)) (hnodup : ps.Nodup) : ∀ s : State, (∀ p, (s.position p).corrupt = false) →
    ∃ qs l, (ps.forM shutPosition : Op PUnit) s = .ok ⟨⟩ { s with positions := qs, reports := { s.reports with list := l } }
      ∧ ps.foldl (fun s p => s.settle (shutPosition p)) s = { s with positions := qs, reports := { s.reports with list := l } }
      ∧ ∀ p, qs.get p = if p ∈ ps then (s.position p).shut else s.position p := by
  induction ps with
  | nil => exact fun s _ => ⟨s.positions, s.reports.list, rfl, rfl, fun p => (if_neg List.not_mem_nil).symm⟩
  | cons p ps ih =>
    intro s hc
    obtain ⟨hp, hl⟩ := List.nodup_cons.mp hnodup
    obtain ⟨l, hone⟩ := shutPosition_runs (hc p)
    obtain ⟨t, ht⟩ : ∃ t : State, t = { s with
      positions := put s.positions p (s.position p).shut, reports := { s.reports with list := l } } := ⟨_, rfl⟩
    have hpos (q : Fin 16) : t.position q = if q = p then (s.position p).shut else s.position q := by
      rw [ht]; exact put_get s.positions p q _
    rw [← ht] at hone
    obtain ⟨qs, l', hrun, hfold, hqs⟩ := ih hl t fun q => by
      rw [hpos]
      split
      · exact hc p
      · exact hc q
    have hframe : ({ t with positions := qs, reports := { t.reports with list := l' } } : State)
        = { s with positions := qs, reports := { s.reports with list := l' } } := by rw [ht]
    rw [hframe] at hrun hfold
    refine ⟨qs, l', ?_, ?_, fun q => (hqs q).trans ?_⟩
    · simp only [List.forM_eq_forM, List.forM_cons] at hrun ⊢
      exact (Op.bind_ok hone).trans hrun
    · rw [List.foldl_cons, settle_ok _ _ _ hone]
      exact hfold
    · rw [hpos]
      by_cases hq : q = p
      · rw [hq, if_neg hp, if_pos rfl, if_pos List.mem_cons_self]
      · rw [if_neg hq]
        simp [hq]

/-! ### The engine in STANDBY (R184) -/

theorem toStandby_frame (s : State) : ∃ q n l, s.toStandby = { s with
    path := { s.path with queue := q, engineWaiting := n }, reports := { s.reports with list := l }
    engine := { s.engine with state := .standby, history := [], startRequest := s.controlRun, lastChange := s.time } } :=
  ⟨_, _, _, rfl⟩

end Sys2Proof.Machine
end

section
/-! SUPPORT. The end of a restart or failure clear (R189, R192). -/

namespace Sys2Proof.Machine

/-! ### The directory reload (R189) -/

theorem releaseSlot_keeps (p : MemoryPath) (k : Fin 64) :
    (p.releaseSlot k).anchor = p.anchor ∧ (p.releaseSlot k).heldAccesses = p.heldAccesses := by
  unfold MemoryPath.releaseSlot
  extract_lets
  split <;> exact ⟨rfl, rfl⟩

theorem flushTaker_frame (s : State) : ∃ p, s.flushTaker = { s with path := p } ∧ p.anchor = s.path.anchor
    ∧ p.heldAccesses = s.path.heldAccesses := by
  unfold State.flushTaker
  split
  · exact ⟨s.path, rfl, rfl, rfl⟩
  split
  · exact ⟨s.path, rfl, rfl, rfl⟩
  · exact ⟨_, rfl, releaseSlot_keeps _ _⟩
  split
  · exact ⟨s.path, rfl, rfl, rfl⟩
  extract_lets
  split
  · exact ⟨_, rfl, (releaseSlot_keeps _ _).1, (releaseSlot_keeps _ _).2⟩
  · exact ⟨s.path, rfl, rfl, rfl⟩

/-- The directory taken from memory, the taker resumed and the whole board queued (R188, R189). -/
def State.reloadTaken (s : State) : State := s.loadDirectory.syncAllPolled.resumeTaker.restartBoard

theorem reloadTaken_frame {s : State} {w : WindowSet} (hw : s.path.windows = some w) : ∃ ls p l c,
    s.reloadTaken = { s with
      lines := ls, path := p, directory := Vector.ofFn (memoryEntry s.mem w.directoryBase)
      reports := { s.reports with list := l }, engine := { s.engine with step := .idle, lastChange := c } }
    ∧ p.anchor = s.path.anchor ∧ p.heldAccesses = s.path.heldAccesses := by
  obtain ⟨a, ha⟩ : ∃ a, a = s.loadDirectory := ⟨_, rfl⟩
  obtain ⟨b, hb⟩ : ∃ b, b = a.syncAllPolled := ⟨_, rfl⟩
  obtain ⟨c, hc⟩ : ∃ c, c = b.resumeTaker := ⟨_, rfl⟩
  obtain ⟨d, hd⟩ : ∃ d, d = c.writeBoard := ⟨_, rfl⟩
  have hs : s.reloadTaken = { d.report .engine false true false with
      engine := { (d.report .engine false true false).engine with lastChange := d.time } } := by
    rw [State.reloadTaken, ← ha, ← hb, ← hc, hd]
    rfl
  obtain ⟨ls, hbf⟩ := syncAllPolled_frame a
  rw [← hb] at hbf
  obtain ⟨p, hpf, hpa, hph⟩ := flushTaker_frame b
  have hcf : ∃ r, c = { b with path := { p with refused := r } } := by
    rw [hc, State.resumeTaker, hpf]
    exact ⟨_, rfl⟩
  obtain ⟨r, hcf⟩ := hcf
  obtain ⟨q, n, hdf⟩ := writeBoard_frame c
  rw [← hd] at hdf
  rw [loadDirectory_eq hw] at ha
  refine ⟨ls, { p with refused := r, queue := q, engineWaiting := n },
    markObject d.reports.list .engine false true false d.time, d.time, ?_, ?_, ?_⟩
  · rw [hs, hdf, hcf, hbf, ha]
    rfl
  · exact hpa.trans (by rw [hbf, ha])
  · exact hph.trans (by rw [hbf, ha])

/-! ### The engine enters FAILED (R192) -/

/-- What the engine's entry to FAILED leaves, and to STANDBY where the control word reads STOP. -/
structure State.Fails (s u : State) : Prop where
  frame : ∃ segs ls es ps l q n qs e, u = { s with
    segments := segs, lines := ls, ends := es, posts := ps, reports := { s.reports with list := l }
    path := { s.path with queue := q, engineWaiting := n }, positions := qs, engine := e }
  lines : ∀ l, (u.line l).Retired
  segments : ∀ g, segmentUsed s.path.anchor g = true → (u.segment g).state = .inhibited
  engine : u.engine.step = .idle ∧ u.engine.restartCount = s.engine.restartCount
  run : s.controlRun = true → u.engine.state = .failed ∧ u.engine.history = s.engine.history ∧ u.positions = s.positions
  stop : s.controlRun = false → u.engine.state = .standby ∧ u.engine.history = [] ∧ u.engine.startRequest = false
    ∧ ∀ p, u.position p = (s.position p).shut

/-- The line sides OFF and the used segments INHIBITED, in FAILED. -/
def State.failedNow (s : State) : State :=
  { s.linesToOff.inhibitUsed.setEngineState .failed with
    engine := { (s.linesToOff.inhibitUsed.setEngineState .failed).engine with step := .idle } }

theorem failedNow_frame (s : State) : ∃ q n l c, s.failedNow = { s.linesToOff.inhibitUsed with
    path := { s.linesToOff.inhibitUsed.path with queue := q, engineWaiting := n }
    reports := { s.linesToOff.inhibitUsed.reports with list := l }
    engine := { s.linesToOff.inhibitUsed.engine with state := .failed, step := .idle, lastChange := c } } := by
  obtain ⟨q, n, l, c, h⟩ := setEngineState_frame .failed s.linesToOff.inhibitUsed
  exact ⟨q, n, l, c, by rw [State.failedNow, h]⟩

theorem enterFailed_eq (s : State) :
    s.enterFailed = if s.failedNow.controlRun then s.failedNow else s.failedNow.leaveFailed := rfl

theorem controlRun_congr {s u : State} (h : u.path.anchor = s.path.anchor) : u.controlRun = s.controlRun := by
  simp only [State.controlRun, State.anchorWord, h]

/-- The engine leaves FAILED with no record check failing. -/
theorem leaveFailed_closes {s : State} (hposts : ∀ i, (s.post i).corrupt = false)
    (hpos : ∀ p, (s.position p).corrupt = false) : ∃ segs ls es ps l q n qs, s.leaveFailed = { s with
      segments := segs, lines := ls, ends := es, posts := ps, reports := { s.reports with list := l }
      path := { s.path with queue := q, engineWaiting := n }, positions := qs
      engine := { s.engine with state := .standby, history := [], startRequest := s.controlRun, lastChange := s.time } }
    ∧ (∀ p, qs.get p = (s.position p).shut) ∧ (∀ l, (s.leaveFailed.line l).Retired)
    ∧ ∀ g, s.leaveFailed.segment g = if segmentUsed s.path.anchor g = true then (s.segment g).inhibitedNow else s.segment g := by
  obtain ⟨t, ht⟩ : ∃ t, t = s.linesToOff.inhibitUsed := ⟨_, rfl⟩
  obtain ⟨hr, hl, hs, _⟩ := outOfService_retires hposts
  rw [← ht] at hr hl hs
  obtain ⟨segs, ls, es, ps, l, hf⟩ := hr.frame
  have htp (p : Fin 16) : t.position p = s.position p := by rw [hf]; rfl
  obtain ⟨qs, l', _, hfold, hqs⟩ := shutPosition_forM (List.finRange 16) (List.nodup_finRange 16) t fun p => by
    rw [htp]; exact hpos p
  obtain ⟨q, n, l₂, hst⟩ := toStandby_frame { t with positions := qs, reports := { t.reports with list := l' } }
  have hleave : s.leaveFailed = State.toStandby { t with positions := qs, reports := { t.reports with list := l' } } := by
    rw [← hfold, State.leaveFailed, ht]
  have hlines : s.leaveFailed.lines = t.lines := by rw [hleave, hst]
  have hsegs : s.leaveFailed.segments = t.segments := by rw [hleave, hst]
  refine ⟨segs, ls, es, ps, l₂, q, n, qs, ?_, fun p => ?_, fun k => ?_, fun g => ?_⟩
  · rw [hleave, hst, hf]
    rfl
  · rw [hqs, if_pos (List.mem_finRange p), htp]
  · rw [State.line, hlines]
    exact hl k
  · rw [State.segment, hsegs]
    exact hs g

theorem enterFailed_fails {s : State} (hposts : ∀ i, (s.post i).corrupt = false)
    (hpos : ∀ p, (s.position p).corrupt = false) : s.Fails s.enterFailed := by
  obtain ⟨a, ha⟩ : ∃ a, a = s.linesToOff.inhibitUsed := ⟨_, rfl⟩
  obtain ⟨hr, hl, hs, hp⟩ := outOfService_retires hposts
  obtain ⟨q, n, l, c, hf⟩ := failedNow_frame s
  obtain ⟨t, ht⟩ : ∃ t, t = s.failedNow := ⟨_, rfl⟩
  rw [← ha] at hr hl hs hp hf
  rw [← ht] at hf
  obtain ⟨_, _, _, _, _, haf⟩ := hr.frame
  have htl : t.lines = a.lines := by rw [hf]
  have hts : t.segments = a.segments := by rw [hf]
  have htp : t.posts = a.posts := by rw [hf]
  have htq : t.positions = s.positions := by rw [hf, haf]
  have hanchor : t.path.anchor = s.path.anchor := by rw [hf, haf]
  have hctl : t.controlRun = s.controlRun := controlRun_congr hanchor
  have hinhibited (g : Fin 8) (hg : segmentUsed s.path.anchor g = true) : (t.segment g).state = .inhibited := by
    have h := hs g
    rw [if_pos hg] at h
    rw [State.segment, hts]
    exact (congrArg Segment.state h).trans rfl
  rw [enterFailed_eq, ← ht]
  cases hrun : s.controlRun with
  | true =>
    rw [if_pos (hctl.trans hrun)]
    refine ⟨?_, fun k => ?_, hinhibited, ?_, fun _ => ⟨?_, ?_, htq⟩, fun h => Bool.noConfusion (hrun.symm.trans h)⟩
    · rw [hf, haf]
      exact ⟨_, _, _, _, _, _, _, _, _, rfl⟩
    · rw [State.line, htl]
      exact hl k
    · rw [hf, haf]
      exact ⟨rfl, rfl⟩
    · rw [hf]
    · rw [hf, haf]
  | false =>
    rw [if_neg (by rw [hctl, hrun]; exact Bool.false_ne_true)]
    obtain ⟨_, _, _, _, _, _, _, _, hleave, hshut, hoff, hsegs⟩ := leaveFailed_closes (s := t)
      (fun i => by
        have h := congrArg Post.corrupt (hp i)
        rw [State.post, htp]
        exact h.trans (hposts i))
      (fun p => by rw [State.position, htq]; exact hpos p)
    have hpositions : t.leaveFailed.positions = _ := congrArg State.positions hleave
    refine ⟨?_, hoff, fun g hg => ?_, ?_, fun h => Bool.noConfusion (hrun.symm.trans h), fun _ => ⟨?_, ?_, ?_, fun p => ?_⟩⟩
    · rw [hleave, hf, haf]
      exact ⟨_, _, _, _, _, _, _, _, _, rfl⟩
    · rw [hsegs, hanchor, if_pos hg]
      rfl
    · rw [hleave, hf, haf]
      exact ⟨rfl, rfl⟩
    · rw [hleave]
    · rw [hleave]
    · rw [hleave]
      exact hctl.trans hrun
    · rw [State.position, hpositions, hshut, State.position, htq]
      rfl

/-! ### The obligation -/

/-- What the reload's end does, once its own words are taken. -/
theorem reloaded_eq {s t : State} (hstep : s.engine.step = .reloading) (hq : s.path.queue = [])
    (hn : s.path.engineWaiting = []) (ht : t = s.reloadTaken) : reloaded s = restartEnds t := by
  have hcond : (s.engine.step == .reloading && s.queueDry) = true := by
    rw [State.queueDry, hstep, hq, hn]; rfl
  rw [reloaded, ht]
  exact (Op.bind_ok (Op.get_apply _)).trans ((congrFun (if_pos hcond) _).trans (Op.bind_ok (Op.set_apply _ _)))

/-- The reload's row, where the end of the restart leaves no access held. -/
theorem reloadDone_ends {s t u : State} (h : reloaded s = restartEnds t) (hends : restartEnds t = .ok () u)
    (hheld : u.path.heldAccesses = []) : exec .restartReloadDone s = .next u.followUp := by
  change Host.Outcome.next (s.settle reloaded).serveHeld.followUp = _
  rw [settle_ok _ _ _ (h.trans hends), serveHeld_none _ hheld]

theorem restartEnds_runs {t u : State} (hst : t.engine.state = .restarting) (hout : t.engine.outcomeFailed = false)
    (hctl : t.controlRun = true) (hsweep : sweepUsed t = .ok () u) : restartEnds t = .ok () (u.setEngineState .run) := by
  have hcond : ¬(t.engine.state ≠ .restarting ∨ t.engine.outcomeFailed = true) := by
    rw [hst, hout]; simp
  have hreturn : t.returnToRun = u.setEngineState .run := by rw [State.returnToRun, hsweep]
  rw [restartEnds]
  refine (Op.bind_ok (Op.get_apply _)).trans ((congrFun (if_neg hcond) _).trans ((congrFun (if_pos hctl) _).trans ?_))
  rw [hreturn]
  rfl

theorem restartEnds_fails {t : State} (h : t.engine.state ≠ .restarting ∨ t.engine.outcomeFailed = true) :
    restartEnds t = .ok () t.enterFailed := by
  rw [restartEnds]
  exact (Op.bind_ok (Op.get_apply _)).trans ((congrFun (if_pos h) _).trans rfl)

/-- Settles O30: the restart ends in RUN, or in FAILED or STANDBY. -/
theorem reloadReturnsEngineToRun : Obligations.ReloadReturnsEngineToRun := by
  unfold Obligations.ReloadReturnsEngineToRun
  intro s w hstep hq hn hheld hw
  obtain ⟨ls, p, l, c, htf, hpa, hph⟩ := reloadTaken_frame hw
  obtain ⟨t, ht⟩ : ∃ t, t = s.reloadTaken := ⟨_, rfl⟩
  rw [← ht] at htf
  have hends := reloaded_eq hstep hq hn ht
  have hposts : t.posts = s.posts := by rw [htf]
  have hpos : t.positions = s.positions := by rw [htf]
  have hanchor : t.path.anchor = s.path.anchor := by rw [htf]; exact hpa
  have hctl : t.controlRun = s.controlRun := controlRun_congr hanchor
  have htheld : t.path.heldAccesses = [] := by rw [htf]; exact hph.trans hheld
  have hentry (u : State) (hu : u.directory = t.directory) (i : Fin 256) : u.entry i = memoryEntry s.mem w.directoryBase i := by
    rw [State.entry, hu, htf]
    simp [Vector.get_eq_getElem]
  refine ⟨fun hst hout hrun hsound => ?_, fun hfail hsound => ?_⟩
  · obtain ⟨v, hv, hsweeps⟩ := sweepUsed_runs (s := t) fun i => by rw [State.post, hposts]; exact hsound.posts i
    obtain ⟨_, _, _, _, _, _, hvf⟩ := hsweeps.frame
    obtain ⟨_, _, _, _, huf⟩ := setEngineState_frame .run v
    obtain ⟨u, hu⟩ : ∃ u, u = v.setEngineState .run := ⟨_, rfl⟩
    rw [← hu] at huf
    have hrest : restartEnds t = .ok () u :=
      (restartEnds_runs (by rw [htf]; exact hst) (by rw [htf]; exact hout) (hctl.trans hrun) hv).trans (by rw [hu])
    have hup : u.posts = v.posts := by rw [huf]
    have hus : u.segments = v.segments := by rw [huf]
    have hused {g : Fin 8} (hg : segmentUsed s.path.anchor g = true) : g ∈ t.usedSegments := by
      rw [mem_usedSegments, hanchor]; exact hg
    refine ⟨u, reloadDone_ends hends hrest (by rw [huf, hvf]; exact htheld), ?_, ?_, hentry u (by rw [huf, hvf]),
      fun g hg => ?_, fun i hi => ?_, ?_, ?_, ?_, ?_, ?_, ?_⟩
    · rw [huf]
    · rw [huf, hvf, htf]
    · rw [State.segment, hus]
      exact hsweeps.either g (hused hg)
    · have hstate := (hsweeps.prepared _ (hused hi) i rfl).2
      rw [State.post, hup]
      refine (em ((t.post i).state = .isolated)).symm.imp (fun h => hstate.trans (if_neg h)) fun h => hstate.trans (if_pos h)
    · rw [huf, hvf, htf]
    · rw [huf, hvf, htf]
    · rw [huf, hvf, htf]
    · rw [huf, hvf, htf]
    · rw [huf, hvf, htf]
    · rw [huf, hvf, htf]
  · obtain ⟨u, hu⟩ : ∃ u, u = t.enterFailed := ⟨_, rfl⟩
    have hfails := enterFailed_fails (s := t) (fun i => by rw [State.post, hposts]; exact hsound.posts i)
      (fun p => by rw [State.position, hpos]; exact hsound.positions p)
    have hrest : restartEnds t = .ok () u := (restartEnds_fails (by rw [htf]; exact hfail)).trans (by rw [hu])
    rw [← hu] at hfails
    obtain ⟨_, _, _, _, _, _, _, _, _, huf⟩ := hfails.frame
    obtain ⟨hstep', hcount⟩ := hfails.engine
    refine ⟨u, reloadDone_ends hends hrest (by rw [huf]; exact htheld), hstep', ?_, hentry u (by rw [huf]), hfails.lines,
      fun g hg => hfails.segments g (by rw [hanchor]; exact hg), fun hrun => ?_, fun hstop => ?_, ?_, ?_, ?_, ?_, ?_⟩
    · rw [State.bypass]
      cases hrun : s.controlRun with
      | true => rw [(hfails.run (hctl.trans hrun)).1]
      | false => rw [(hfails.stop (hctl.trans hrun)).1]
    · obtain ⟨hst, hhist, hqs⟩ := hfails.run (hctl.trans hrun)
      refine ⟨hst, ?_, hhist.trans (by rw [htf]), hqs.trans hpos⟩
      rw [State.attn, hst]
      simp
    · obtain ⟨hst, hhist, hreq, hshut⟩ := hfails.stop (hctl.trans hstop)
      exact ⟨hst, hhist, hreq, fun p => (hshut p).trans (by rw [State.position, hpos]; rfl)⟩
    · rw [hcount, htf]
    · rw [huf, htf]
    · rw [huf, htf]
    · rw [huf, htf]
    · rw [huf, htf]

end Sys2Proof.Machine
end

section
/-! SUPPORT. What the ending of the calls and the quieting of the incidents keep in STOPPING: the engine state, the line
sides but for their service lists, and the check codes (R111, R126, R183). -/

namespace Sys2Proof.Machine

/-! ### The relation -/

/-- An update that moves neither the engine nor a line side, and makes no check code fail. -/
structure State.Steady (s u : State) : Prop where
  engine : u.engine.state = s.engine.state
  lines : s.LinesServe u
  sound : s.Sound → u.Sound

namespace State.Steady

theorem refl (s : State) : s.Steady s := ⟨rfl, .refl s, id⟩

theorem trans {s t u : State} (h : s.Steady t) (k : t.Steady u) : s.Steady u :=
  ⟨k.engine.trans h.engine, h.lines.trans k.lines, k.sound ∘ h.sound⟩

end State.Steady

/-- An update of what the relation does not speak of. -/
theorem steady_of_eq {s u : State} (he : u.engine.state = s.engine.state) (hl : u.lines = s.lines) (h1 : u.posts = s.posts)
    (h2 : u.positions = s.positions) (h3 : u.calls.records = s.calls.records) (h4 : u.cluster = s.cluster)
    (h5 : u.speech.channels = s.speech.channels) (h6 : u.speech.stuck = s.speech.stuck) : s.Steady u :=
  ⟨he, .of_lines hl, fun h => {
    posts := fun i => by rw [State.post, h1]; exact h.posts i
    positions := fun p => by rw [State.position, h2]; exact h.positions p
    calls := fun r => by rw [State.call, h3]; exact h.calls r
    incidents := fun k => by rw [State.incident, h4]; exact h.incidents k
    channels := fun c => by rw [State.channel, h5]; exact h.channels c
    crosspoints := fun p => by rw [h6]; exact h.crosspoints p }⟩

/-! ### Updates of the state -/

section Updates

variable (s : State)

theorem reportBoth_steady (o : Obj) : s.Steady (s.reportBoth o) := steady_of_eq rfl rfl rfl rfl rfl rfl rfl rfl

theorem setCall_steady (r : Fin 64) (c : Call) : s.Steady (s.setCall r c) where
  engine := rfl
  lines := .of_lines rfl
  sound h := by
    refine { h with calls := fun q => ?_ }
    by_cases hq : q = r
    · rw [hq, State.setCall_self]; rfl
    · rw [State.setCall_ne r q c s hq]; exact h.calls q

theorem modifyCall_steady (r : Fin 64) (f : Call → Call) : s.Steady (s.modifyCall r f) := by
  unfold State.modifyCall
  split
  · exact .refl s
  · exact setCall_steady s r _

theorem leaveQueue_steady (r : Fin 64) : s.Steady (s.leaveQueue r) := steady_of_eq rfl rfl rfl rfl rfl rfl rfl rfl

theorem setConnection_steady (p : Fin 16) (x : Option Connection) : s.Steady (s.setConnection p x) :=
  steady_of_eq rfl rfl rfl rfl rfl rfl rfl rfl

theorem setChannel_steady (g : Fin 8) (ch : Fin 4) (x : Channel) : s.Steady (s.setChannel g ch x) where
  engine := rfl
  lines := .of_lines rfl
  sound h := by
    refine { h with channels := fun k => ?_ }
    by_cases hk : k = channelIndex g ch
    · rw [hk, State.setChannel_self]
    · rw [State.setChannel_ne g ch k x s hk]; exact h.channels k

theorem wantDispatch_steady : s.Steady s.wantDispatch := steady_of_eq rfl rfl rfl rfl rfl rfl rfl rfl

theorem setPositionTimers_steady (p : Fin 16) (x : Position) : s.Steady (s.setPositionTimers p x) where
  engine := rfl
  lines := .of_lines rfl
  sound h := by
    refine { h with positions := fun q => ?_ }
    by_cases hq : q = p
    · rw [hq, State.setPositionTimers_self]
    · simpa [State.position, State.setPositionTimers, hq] using h.positions q

theorem placePosition_steady (p : Fin 16) (x : Position) : s.Steady (s.placePosition p x) := by
  have h := (setPositionTimers_steady s p x).trans (reportBoth_steady _ (.position p))
  unfold State.placePosition
  split
  · exact h.trans (wantDispatch_steady _)
  · exact h

/-- An update that touches one post, whose check code it leaves right. -/
theorem steady_of_touches {u : State} {i : Fin 256} (h : s.TouchesPost u i) (hl : s.LinesServe u)
    (hi : s.Sound → (u.post i).corrupt = false) : s.Steady u := by
  have hne := h.posts
  obtain ⟨_, _, _, hf⟩ := h.frame
  refine ⟨by rw [hf], hl, fun hs => ⟨fun j => ?_, ?_, ?_, ?_, ?_, ?_⟩⟩
  · by_cases hj : j = i
    · rw [hj]; exact hi hs
    · rw [hne j hj]; exact hs.posts j
  · rw [hf]; exact hs.positions
  · rw [hf]; exact hs.calls
  · rw [hf]; exact hs.incidents
  · rw [hf]; exact hs.channels
  · rw [hf]; exact hs.crosspoints

theorem setPost_steady (i : Fin 256) (p : Post) : s.Steady (s.setPost i p) :=
  steady_of_touches s (touchesPost_setPost i p s) (setPost_linesServe i p s) fun _ => by rw [State.setPost_self]

theorem setCommands_steady (i : Fin 256) (l : List PendingCommand) : s.Steady (s.setCommands i l) :=
  steady_of_touches s (touchesPost_setCommands i l s) (setCommands_linesServe i l s) fun _ => by rw [State.setCommands_self]

theorem loseTest_steady (i : Fin 256) (lost : Bool) : s.Steady (s.loseTest i lost) := by
  simp only [State.loseTest]
  split
  · split
    · exact reportBoth_steady s _
    · exact setPost_steady s i _
  · exact .refl s

theorem incidentWritten_steady (k : Fin 16) (x : Incident) : s.Steady ((s.setIncident k x).reportIncident k) where
  engine := rfl
  lines := .of_lines rfl
  sound h := by
    refine { h with incidents := fun j => ?_ }
    have hrep : ((s.setIncident k x).reportIncident k).incident j = (s.setIncident k x).incident j := rfl
    rw [hrep]
    by_cases hj : j = k
    · rw [hj, State.setIncident_self]; rfl
    · rw [State.setIncident_ne k j x s hj]; exact h.incidents j

theorem judgeOverflow_steady : s.Steady s.judgeOverflow := by
  rw [judgeOverflow_eq]
  split
  · exact .refl s
  · exact steady_of_eq rfl rfl rfl rfl rfl rfl rfl rfl

theorem setDeferrals_steady (l : List Deferral) : s.Steady (s.setDeferrals l) := by
  unfold State.setDeferrals
  extract_lets old t
  split <;> exact steady_of_eq rfl rfl rfl rfl rfl rfl rfl rfl

theorem removeDeferral_steady (i : Fin 256) : s.Steady (s.removeDeferral i) :=
  (setDeferrals_steady s _).trans (setPost_steady _ i _)

end Updates

/-! ### Operations in STOPPING -/

/-- What an operation keeps that finds the engine in STOPPING. -/
def State.Stays (s u : State) : Prop := s.engine.state = .stopping → s.Steady u

namespace State.Stays

theorem refl (s : State) : s.Stays s := fun _ => .refl s

theorem trans_of (s t u : State) (h : s.Stays t) (k : t.Stays u) : s.Stays u :=
  fun hs => (h hs).trans (k ((h hs).engine.trans hs))

end State.Stays

theorem stays_pure {α : Type} (a : α) : (pure a : Op α).Keeps State.Stays := Op.keeps_pure .refl a

theorem stays_get : (get : Op State).Keeps State.Stays := Op.keeps_get .refl

theorem stays_modify {f : State → State} (h : ∀ s : State, s.Steady (f s)) : (modify f : Op PUnit).Keeps State.Stays :=
  Op.keeps_modify f fun s _ => h s

theorem stays_bind {α β : Type} {x : Op α} {f : α → Op β} (hx : x.Keeps State.Stays) (hf : ∀ a, (f a).Keeps State.Stays) :
    (x >>= f).Keeps State.Stays := Op.keeps_bind State.Stays.trans_of x f hx hf

theorem stays_ite {α : Type} {p : Prop} [Decidable p] {x y : Op α} (hx : x.Keeps State.Stays) (hy : y.Keeps State.Stays) :
    (if p then x else y).Keeps State.Stays := Op.keeps_ite p x y hx hy

/-- An operation carried out under a condition, and what follows it either way. -/
theorem stays_when {β : Type} {p : Prop} [Decidable p] {x : Op Unit} {f : Unit → Op β} (hx : x.Keeps State.Stays)
    (hf : ∀ a, (f a).Keeps State.Stays) : (if p then x >>= f else f ()).Keeps State.Stays :=
  stays_ite (stays_bind hx hf) (hf ())

theorem stays_forM {α : Type} {f : α → Op PUnit} (h : ∀ a, (f a).Keeps State.Stays) (l : List α) :
    (l.forM f).Keeps State.Stays := Op.keeps_forM State.Stays.refl State.Stays.trans_of f h l

/-- An operation that leaves the state as it is. -/
theorem stays_of_leaves {α : Type} {x : Op α} (h : ∀ s, x.leaves s = s) : x.Keeps State.Stays := fun s => by
  rw [h]
  exact .refl s

/-- An operation that only reads, and what is done with its answer in the same state. -/
theorem stays_read_bind {α β : Type} {x : Op α} {f : α → Op β} {s : State} (hx : x.leaves s = s)
    (hf : ∀ a, s.Stays ((f a).leaves s)) : s.Stays ((x >>= f).leaves s) := by
  unfold Op.leaves at *
  rw [Op.bind_apply]
  cases hs : x s with
  | ok a t =>
    rw [hs] at hx
    have ht : t = s := hx
    rw [ht]
    exact hf a
  | error e t =>
    rw [hs] at hx
    have ht : t = s := hx
    rw [ht]
    exact .refl s

theorem withCall_stays {r : Fin 64} {f : Call → Op Unit} (h : ∀ c, (f c).Keeps State.Stays) :
    (withCall r f).Keeps State.Stays :=
  stays_bind (stays_of_leaves (readCall_leaves r)) fun o => by
    cases o with
    | none => exact stays_pure _
    | some c => exact h c

theorem throw_stays {α : Type} (e : ClassB) : (throw e : Op α).Keeps State.Stays := Op.keeps_throw .refl e

theorem freeCallChannel_stays (r : Fin 64) : (freeCallChannel r).Keeps State.Stays :=
  withCall_stays fun c => by
    split
    · exact stays_pure _
    · refine stays_bind (stays_of_leaves (readChannel_leaves _)) fun _ =>
        stays_ite (throw_stays _) (stays_bind (stays_forM (fun p => ?_) _) fun _ => ?_)
      · exact stays_bind stays_get fun _ => stays_ite (fun s => by
          rw [changeConnection_leaves]
          exact fun _ => setConnection_steady s p none) (stays_pure _)
      · exact stays_modify fun s =>
          ((setChannel_steady s _ _ _).trans (modifyCall_steady _ r _)).trans (wantDispatch_steady _)

theorem positionWritten_stays (p : Fin 16) (f : Position → State → Position) :
    (readPosition p >>= fun x => modify fun s => s.placePosition p (f x s) : Op Unit).Keeps State.Stays :=
  stays_bind (stays_of_leaves (readPosition_leaves p)) fun _ => stays_modify fun s => placePosition_steady s p _

theorem endPositions_stays (c : Call) (cause : EndCause) : (endPositions c cause).Keeps State.Stays := by
  unfold endPositions
  split
  case h_1 | h_2 | h_3 => exact stays_forM (fun p => positionWritten_stays p fun x s => x.toWrapup s.time s.wrapTicks) _
  case h_4 => exact stays_forM (fun p => positionWritten_stays p fun x s =>
    { x.toFree s.time with lastOffer := some { call := c.number, outcome := cause.offerOutcome } }) _
  case h_5 => exact stays_forM (fun p => positionWritten_stays p fun x s => x.toFree s.time) _
  case h_6 =>
    split
    · exact positionWritten_stays _ fun x _ => { x with held := x.held.erase c.number }
    · exact stays_pure _
  all_goals exact stays_pure _

theorem pend_stays (i : Fin 256) (kind : CommandKind) (call : Option Nat) : (pend i kind call).Keeps State.Stays :=
  stays_bind (stays_of_leaves (readPost_leaves i)) fun _ =>
    stays_modify fun s => (loseTest_steady s i _).trans (setCommands_steady _ i _)

theorem memberEnded_stays (c : Call) : (memberEnded c).Keeps State.Stays :=
  Op.keeps_get_bind _ fun s => by
    split
    · exact .refl s
    · refine stays_read_bind (readIncident_leaves _ s) fun o => ?_
      cases o with
      | none => exact .refl s
      | some x => exact fun _ => incidentWritten_steady s _ _

theorem inRun_stopping {s : State} (h : s.engine.state = .stopping) : s.inRun = false := by
  rw [State.inRun, h]
  rfl

/-- Outside RUN no restore of a break takes place (R86). -/
theorem farCallLeft_idle (g : Fin 8) {s : State} (h : s.inRun = false) : farCallLeft g s = .ok () s := by
  rw [farCallLeft]
  refine (Op.bind_ok (Op.get_apply _)).trans ?_
  cases s.broken g with
  | none => rfl
  | some b => exact congrFun (if_neg (by simp [h])) s

theorem farCallLeft_stays (g : Fin 8) : (farCallLeft g).Keeps State.Stays := fun s hs => by
  rw [Op.leaves, farCallLeft_idle g (inRun_stopping hs)]
  exact .refl s

theorem endCall_stays (r : Fin 64) (cause : EndCause) : (endCall r cause).Keeps State.Stays :=
  withCall_stays fun c => stays_ite (stays_pure _) <|
    stays_bind (stays_modify fun s => by
      dsimp only
      split
      · exact (setCall_steady s r _).trans (leaveQueue_steady _ r)
      · exact setCall_steady s r _) fun _ =>
    stays_when (freeCallChannel_stays r) fun _ =>
    stays_bind (endPositions_stays c cause) fun _ =>
    stays_bind (stays_modify fun s => modifyCall_steady s r _) fun _ =>
    stays_bind (stays_of_leaves (readPost_leaves _)) fun p =>
    stays_bind (stays_modify fun s => by
      split
      · exact setPost_steady s _ _
      · exact .refl s) fun _ =>
    stays_when (pend_stays _ _ _) fun _ =>
    stays_bind (memberEnded_stays c) fun _ =>
    stays_bind (stays_modify fun s => by
      split
      · exact judgeOverflow_steady s
      · exact .refl s) fun _ =>
    stays_when (farCallLeft_stays _) fun _ => stays_modify fun s => reportBoth_steady s (.call r)

theorem clearDeferral_stays (i : Fin 256) : (clearDeferral i).Keeps State.Stays :=
  stays_bind (stays_of_leaves (readPost_leaves i)) fun _ => stays_modify fun s => removeDeferral_steady s i

theorem clearDeferrals_stays : clearDeferrals.Keeps State.Stays :=
  stays_bind stays_get fun _ => stays_forM clearDeferral_stays _

theorem quietIncident_stays (k : Fin 16) : (quietIncident k).Keeps State.Stays :=
  stays_bind stays_get fun _ => stays_ite (stays_bind (stays_of_leaves (readIncident_leaves k)) fun o => by
    cases o with
    | none => exact stays_pure _
    | some x => exact stays_modify fun s => incidentWritten_steady s k _) (stays_pure _)

theorem quietIncidents_stays : quietIncidents.Keeps State.Stays := stays_forM quietIncident_stays _

/-- The calls ended, the deferrals cleared and the incidents quieted, once the engine is in STOPPING. -/
def stoppingSteps : Op Unit := do
  (List.finRange 64).forM (fun r => endCall r .stopped)
  clearDeferrals
  quietIncidents

theorem stoppingSteps_stays : stoppingSteps.Keeps State.Stays :=
  stays_bind (stays_forM (fun r => endCall_stays r .stopped) _) fun _ =>
    stays_bind clearDeferrals_stays fun _ => quietIncidents_stays

/-- The engine in STOPPING, with the line sides in service FINISHING (R45, R183). -/
def State.stoppingNow (s : State) : State :=
  ({ s with lines := s.lines.map LineSide.toFinishing } : State).setEngineState .stopping

theorem enterStopping_apply (s : State) : enterStopping s = stoppingSteps s.stoppingNow := rfl

end Sys2Proof.Machine
end

section
/-! SUPPORT. The control word written STOP in RUN and in FAILED, whatever the check codes (R178, R183, R192), and a STOPPING
that completes (R184). -/

namespace Sys2Proof.Machine

/-! ### The row -/

/-- The state in which engine control finds a control word that the host has written. -/
def State.controlTaken (s : State) (d : Word) (en : Enables) : State :=
  (s.written Config.anchorBase d en).setAnchor Config.controlWord (s.mergedControl d en)

theorem controlTaken_frame (s : State) (d : Word) (en : Enables) : s.controlTaken d en = { s with
    mem := Memory.write s.mem Config.anchorBase en d
    path := { s.path.arbitrated s.granted.path with
      anchor := put s.path.anchor Config.controlWord (s.mergedControl d en) } } := by
  rw [State.controlTaken, written_frame]
  rfl

theorem controlTaken_stop {s : State} {d : Word} (en : Enables) (h : s.mergedControl d en ≠ 1) :
    (s.controlTaken d en).controlRun = false := by
  rw [State.controlTaken, mergedControl_written]
  simpa using h

theorem stopWrite_row {s : State} (d : Word) {en : Enables} (h : s.ServesHost) (hen : en.some = true)
    (ht : s.trespasses Config.anchorBase = false) :
    exec (.stopWrite d en) s = .next ((s.controlTaken d en).settle controlWritten).followUp := by
  have hw : wordAddress (anchorHostAddress Config.controlWord) = Config.anchorBase := wordAddress_anchorHostAddress _
  have hrow : s.hostAccess (.write (anchorHostAddress Config.controlWord) d en)
      = (s.controlTaken d en).settle controlWritten := by
    rw [hostWrite_anchor h hen (by rw [hw]; exact ht) (anchorWordAt_anchorAddress _), hw, anchorWritten, if_pos rfl]
    exact settle_bind_ok (Op.modify_apply _ _)
  exact next_followUp hrow

/-! ### Sides and segments out of service, whatever the check codes -/

theorem outOfService_retired (s : State) : s.Retires s.linesToOff.inhibitUsed
    ∧ ∀ l, (s.linesToOff.inhibitUsed.line l).Retired := by
  obtain ⟨t, ht⟩ : ∃ t : State, t = { s with lines := s.lines.map LineSide.shut } := ⟨_, rfl⟩
  have hoff (l : LineId) : (t.line l).Retired := by
    rw [ht, line_map]
    exact ⟨rfl, rfl, rfl⟩
  have hlines : t.Retires s.linesToOff := by
    rw [ht]
    exact keeps_foldl State.Retires.refl (fun _ _ _ => State.Retires.trans) _ (fun s i => emptyCommands_retires i false s) _ _
  have hsegment (u : State) (g : Fin 8) : u.Retires (u.inhibitSegmentNow g) :=
    (feedsOff_retires g _ u).trans
      (keeps_foldl State.Retires.refl (fun _ _ _ => State.Retires.trans) _ (fun s i => makeUnreachable_retires i s) _ _)
  have hused : s.linesToOff.Retires s.linesToOff.inhibitUsed :=
    keeps_foldl State.Retires.refl (fun _ _ _ => State.Retires.trans) _ (fun u g => by
      split
      · exact hsegment u g
      · exact .refl u) _ _
  have hall := hlines.trans hused
  obtain ⟨_, _, _, _, _, hf⟩ := hall.frame
  refine ⟨⟨?_, fun l _ => hall.off l (hoff l)⟩, fun l => hall.off l (hoff l)⟩
  rw [hf, ht]
  exact ⟨_, _, _, _, _, rfl⟩

/-! ### What follows an event outside RUN -/

theorem restartProceeds_engine (s : State) : ∃ x st, s.restartProceeds.engine
    = { s.engine with outcomeFailed := x, step := st } := by
  unfold State.restartProceeds
  split
  · obtain ⟨_, _, _, _, _, ht⟩ := emptyTables_frame s
    obtain ⟨_, _, hp⟩ := restartPositions_frame s.emptyTables
    obtain ⟨_, hl⟩ := beginDirectoryRead_frame .reloading s.emptyTables.restartPositions
    rw [hl, hp, ht]
    exact ⟨_, _, rfl⟩
  · exact ⟨_, _, rfl⟩

theorem dispatchIfDue_idle {s : State} (h : s.inRun = false) : s.dispatchIfDue = { s with dispatchDue := false } := by
  simp only [State.dispatchIfDue, h, Bool.and_false, Bool.false_eq_true, if_false]

/-- In STANDBY nothing that follows an event moves the engine. -/
theorem followUp_standby {s : State} (h : s.engine.state = .standby) : s.followUp.engine.state = .standby
    ∧ s.followUp.engine.history = s.engine.history ∧ s.followUp.engine.startRequest = s.engine.startRequest := by
  have hidle : s.inRun = false := by rw [State.inRun, h]; rfl
  obtain ⟨x, st, he⟩ := restartProceeds_engine { s with dispatchDue := false }
  obtain ⟨t, ht⟩ : ∃ t, t = State.restartProceeds { s with dispatchDue := false } := ⟨_, rfl⟩
  rw [← ht] at he
  have hstate : t.engine.state = .standby := by rw [he]; exact h
  have hends : t.stoppingEnds = t := by
    rw [State.stoppingEnds, State.stoppingComplete, hstate]
    rfl
  rw [State.followUp, dispatchIfDue_idle hidle, ← ht, hends]
  exact ⟨hstate, by rw [he], by rw [he]⟩

/-! ### STOP in FAILED (R192) -/

/-- Closing a position in FAILED: a check code that fails is passed over. -/
theorem shutPosition_failed (p : Fin 16) {s : State} (h : s.engine.state = .failed) : ∃ qs l,
    s.settle (shutPosition p) = { s with positions := qs, reports := { s.reports with list := l } } := by
  by_cases hc : (s.position p).corrupt = false
  · obtain ⟨l, hrun⟩ := shutPosition_runs hc
    exact ⟨_, l, settle_ok _ _ _ hrun⟩
  · have hthrow : shutPosition p s = .error (recordCheck (.position p)) s := by
      simp [shutPosition, readPosition, Bool.not_eq_false _ ▸ hc]
    refine ⟨s.positions, s.reports.list, (settle_error _ _ _ _ hthrow).trans ?_⟩
    rw [State.classB, h]

theorem shutPositions_failed (ps : List (Fin 16)) : ∀ s : State, s.engine.state = .failed → ∃ qs l,
    ps.foldl (fun s p => s.settle (shutPosition p)) s = { s with positions := qs, reports := { s.reports with list := l } } := by
  induction ps with
  | nil => exact fun s _ => ⟨s.positions, s.reports.list, rfl⟩
  | cons p ps ih =>
    intro s h
    obtain ⟨qs, l, hone⟩ := shutPosition_failed p h
    obtain ⟨qs', l', hrest⟩ := ih { s with positions := qs, reports := { s.reports with list := l } } h
    exact ⟨qs', l', by rw [List.foldl_cons, hone, hrest]⟩

theorem leaveFailed_engine {s : State} (h : s.engine.state = .failed) : s.leaveFailed.engine.state = .standby
    ∧ s.leaveFailed.engine.history = [] ∧ s.leaveFailed.engine.startRequest = s.controlRun := by
  obtain ⟨t, ht⟩ : ∃ t, t = s.linesToOff.inhibitUsed := ⟨_, rfl⟩
  have hr := (outOfService_retired s).1
  rw [← ht] at hr
  obtain ⟨_, _, _, _, _, hf⟩ := hr.frame
  obtain ⟨qs, l, hfold⟩ := shutPositions_failed (List.finRange 16) t (by rw [hf]; exact h)
  obtain ⟨q, n, l', hst⟩ := toStandby_frame { t with positions := qs, reports := { t.reports with list := l } }
  rw [State.leaveFailed, ← ht, hfold, hst]
  exact ⟨rfl, rfl, controlRun_congr hr.anchor⟩

theorem controlWritten_failed {s : State} (h : s.engine.state = .failed) (hstop : s.controlRun = false) :
    controlWritten s = .ok () s.leaveFailed := by
  rw [controlWritten]
  refine (Op.bind_ok (Op.get_apply _)).trans ?_
  simp only [h, hstop, Bool.false_eq_true, if_false]
  rfl

/-! ### STOP in RUN (R183) -/

/-- A line side that is out of service. -/
def LineSide.Down (x : LineSide) : Prop := x.state ≠ .serving ∧ x.state ≠ .sweeping

/-- The engine is in STOPPING, or in STANDBY already, with no line side in service. -/
def State.Down (s : State) : Prop :=
  (s.engine.state = .stopping ∨ s.engine.state = .standby) ∧ ∀ l, (s.line l).Down

theorem down_of_steady {s u : State} (h : s.Steady u) (hs : s.Down) : u.Down := by
  obtain ⟨hst, hl⟩ := hs
  refine ⟨by rw [h.engine]; exact hst, fun l => ?_⟩
  obtain ⟨_, _, hline⟩ := h.lines l
  rw [hline]
  exact hl l

theorem classB_down {s : State} (f : ClassB) (h : s.Down) : (s.classB f).Down := by
  obtain ⟨hst, hl⟩ := h
  unfold State.classB
  rcases hst with hst | hst
  · rw [hst]
    dsimp only
    split
    · exact ⟨.inl hst, hl⟩
    · refine ⟨.inl hst, fun l => ?_⟩
      have hheld := clearBegun_lines s f l
      refine ⟨fun e => ?_, fun e => ?_⟩
      · rcases hheld with h | h <;> exact LineState.noConfusion (h.symm.trans e)
      · rcases hheld with h | h <;> exact LineState.noConfusion (h.symm.trans e)
  · rw [hst]
    exact ⟨.inr hst, hl⟩

theorem toFinishing_down (x : LineSide) : x.toFinishing.Down := by
  unfold LineSide.toFinishing
  split
  · exact ⟨fun e => LineState.noConfusion e, fun e => LineState.noConfusion e⟩
  · exact ⟨fun e => LineState.noConfusion e, fun e => LineState.noConfusion e⟩
  next h => exact ⟨fun e => LineState.noConfusion (h.symm.trans e), fun e => LineState.noConfusion (h.symm.trans e)⟩
  next h => exact ⟨fun e => LineState.noConfusion (h.symm.trans e), fun e => LineState.noConfusion (h.symm.trans e)⟩
  next h => exact ⟨fun e => LineState.noConfusion (h.symm.trans e), fun e => LineState.noConfusion (h.symm.trans e)⟩

theorem stoppingNow_line (s : State) (l : LineId) : s.stoppingNow.line l = (s.line l).toFinishing :=
  line_map LineSide.toFinishing s l

theorem stoppingNow_state (s : State) : s.stoppingNow.engine.state = .stopping := rfl

/-- The engine leaves RUN, also where a check code cuts the ending of the calls short. -/
theorem enterStopping_down (s : State) : (s.settle enterStopping).Down := by
  have hdown : s.stoppingNow.Down := ⟨.inl rfl, fun l => by rw [stoppingNow_line]; exact toFinishing_down _⟩
  have hkeep := stoppingSteps_stays s.stoppingNow (stoppingNow_state s)
  rw [State.settle, enterStopping_apply]
  rw [Op.leaves] at hkeep
  cases h : stoppingSteps s.stoppingNow with
  | ok a t =>
    rw [h] at hkeep
    exact down_of_steady hkeep hdown
  | error f t =>
    rw [h] at hkeep
    exact classB_down f (down_of_steady hkeep hdown)

/-- Emptying the tables moves no line side. -/
theorem emptyTables_lineState (s : State) (l : LineId) : (s.emptyTables.line l).state = (s.line l).state := by
  obtain ⟨t, ht⟩ : ∃ t : State, t = { s with
    calls := s.calls.emptied
    cluster := { s.cluster with records := Vector.replicate 16 none }
    speech := s.speech.emptied
    posts := s.posts.map Post.unlinked
    lines := s.lines.map LineSide.cleared } := ⟨_, rfl⟩
  obtain ⟨u, hu⟩ : ∃ u, u = (t.restartFault s.speech.emptied.misread).syncAllPolled := ⟨_, rfl⟩
  obtain ⟨x, hx⟩ := restartFault_frame s.speech.emptied.misread t
  have hpolls := (syncAllPolled_pollsOnly (t.restartFault s.speech.emptied.misread)).2 l
  rw [← hu, hx] at hpolls
  have hlast : s.emptyTables.lines = u.lines := by
    obtain ⟨q, w, hv⟩ := stateWordIf_frame (s.calls.overflow = true) u
    obtain ⟨v, hvdef⟩ : ∃ v, v = if s.calls.overflow = true then u.writeStateWord else u := ⟨_, rfl⟩
    have hdef : s.emptyTables
        = State.relistFaults { v with reports := { v.reports with list := [], steps := [], startFaults := [] } } := by
      rw [hvdef, hu, ht]
      rfl
    obtain ⟨k, hk⟩ := relistFaults_frame { v with reports := { v.reports with list := [], steps := [], startFaults := [] } }
    rw [hdef, hk]
    rw [← hvdef] at hv
    rw [hv]
  have hline : s.emptyTables.line l = u.line l := by rw [State.line, State.line, hlast]
  have hclear : t.line l = (s.line l).cleared := by
    rw [ht]
    exact line_map LineSide.cleared s l
  have hstate : (u.line l).state = (t.line l).state := by
    rw [hpolls]
    rfl
  rw [hline, hstate, hclear]
  rfl

theorem restartPositions_read_lineState (s : State) (l : LineId) :
    ((s.restartPositions.beginDirectoryRead .reloading).line l).state = (s.line l).state := by
  obtain ⟨_, _, hp⟩ := restartPositions_frame s
  obtain ⟨t, ht⟩ : ∃ t, t = s.restartPositions := ⟨_, rfl⟩
  rw [← ht] at hp ⊢
  have hpolls := (beginDirectoryRead_pollsOnly .reloading t).2 l
  have hlines : t.lines = s.lines := by rw [hp]
  rw [hpolls]
  change (t.line l).state = (s.line l).state
  rw [State.line, State.line, hlines]

theorem restartProceeds_down {s : State} (h : s.Down) : s.restartProceeds.Down := by
  obtain ⟨hst, hl⟩ := h
  refine ⟨by rw [(restartProceeds_result s).1]; exact hst, fun l => ?_⟩
  have hstate := (restartPositions_read_lineState s.emptyTables l).trans (emptyTables_lineState s l)
  unfold State.restartProceeds
  split
  · rw [LineSide.Down, hstate]
    exact hl l
  · exact hl l

theorem shutPosition_stays (p : Fin 16) : (shutPosition p).Keeps State.Stays :=
  stays_bind (stays_of_leaves (readPosition_leaves p)) fun _ => stays_ite (stays_pure _) <| stays_modify fun s =>
    (setPositionTimers_steady s p _).trans (reportBoth_steady _ (.position p))

theorem completeStopping_down {s : State} (h : s.engine.state = .stopping) : (s.settle completeStopping).Down := by
  obtain ⟨t, ht⟩ : ∃ t, t = s.linesToOff.inhibitUsed := ⟨_, rfl⟩
  obtain ⟨hr, hl⟩ := outOfService_retired s
  rw [← ht] at hr hl
  obtain ⟨_, _, _, _, _, hf⟩ := hr.frame
  have hstate : t.engine.state = .stopping := by rw [hf]; exact h
  have hdown : t.Down := ⟨.inl hstate, fun l =>
    ⟨fun e => LineState.noConfusion ((hl l).1.symm.trans e), fun e => LineState.noConfusion ((hl l).1.symm.trans e)⟩⟩
  have hkeep := stays_forM shutPosition_stays (List.finRange 16) t hstate
  have hsettle : s.settle completeStopping
      = t.settle ((List.finRange 16).forM shutPosition >>= fun _ => modify State.toStandby) := by
    rw [completeStopping, ht]
    exact settle_bind_ok (Op.modify_apply _ _)
  rw [hsettle, State.settle, Op.bind_apply]
  rw [Op.leaves] at hkeep
  cases hrun : (List.finRange 16).forM shutPosition t with
  | ok a u =>
    rw [hrun] at hkeep
    obtain ⟨_, _, _, hst⟩ := toStandby_frame u
    have hlines : u.toStandby.lines = u.lines := by rw [hst]
    refine ⟨.inr rfl, fun l => ?_⟩
    change (u.toStandby.line l).Down
    rw [State.line, hlines]
    exact (down_of_steady hkeep hdown).2 l
  | error f u =>
    rw [hrun] at hkeep
    exact classB_down f (down_of_steady hkeep hdown)

theorem followUp_down {s : State} (h : s.Down) : s.followUp.Down := by
  have hidle : s.inRun = false := by
    rcases h.1 with hst | hst <;> · rw [State.inRun, hst]; rfl
  have hproceeds : (State.restartProceeds { s with dispatchDue := false }).Down := restartProceeds_down h
  rw [State.followUp, dispatchIfDue_idle hidle]
  unfold State.stoppingEnds
  split
  next hc =>
    refine completeStopping_down ?_
    simp only [State.stoppingComplete, Bool.and_eq_true, beq_iff_eq] at hc
    exact hc.1.1.1
  next => exact hproceeds

end Sys2Proof.Machine
end

section
/-! SUPPORT. A STOPPING that completes (R184). -/

namespace Sys2Proof.Machine

theorem lineIndex_surjective (i : Fin 16) : ∃ l, lineIndex l = i := by
  refine ⟨⟨⟨i.val / 2, by omega⟩, if i.val % 2 = 1 then .far else .near⟩, Fin.ext ?_⟩
  by_cases h : i.val % 2 = 1
  · simp only [lineIndex, if_pos h, if_true]
    omega
  · simp only [lineIndex, if_neg h, reduceCtorEq, if_false]
    omega

theorem stoppingComplete_of_lines {s : State} (hst : s.engine.state = .stopping) (hc : s.clearing = false)
    (hr : s.reports.list = [])
    (hl : ∀ l, (s.line l).state = .off
      ∨ (s.line l).state = .finishing ∧ (s.line l).exchange = none ∧ (s.line l).service = []) :
    s.stoppingComplete = true := by
  have hall : s.lines.toList.all LineSide.stopped = true := by
    rw [Vector.all_toList, Vector.all_eq_true]
    intro i hi
    obtain ⟨l, hli⟩ := lineIndex_surjective ⟨i, hi⟩
    have hline : s.lines[i] = s.line l := by rw [State.line, hli]; rfl
    rw [hline, LineSide.stopped]
    rcases hl l with h | ⟨h, hx, hs⟩
    · rw [h]; rfl
    · rw [h, hx, hs]; rfl
  rw [State.stoppingComplete, hst, hc, hr, hall]
  rfl

/-- What a completed STOPPING leaves where no check code fails. -/
structure State.Completes (v u : State) : Prop where
  frame : u = { v with
    lines := u.lines, ends := u.ends, posts := u.posts, segments := u.segments, positions := u.positions
    reports := u.reports, engine := u.engine
    path := { v.path with queue := u.path.queue, engineWaiting := u.path.engineWaiting } }
  engine : u.engine = { v.engine with
    state := .standby, history := [], startRequest := v.controlRun, lastChange := v.time }
  lines : ∀ l, (u.line l).Retired
  positions : ∀ p, u.position p = (v.position p).shut
  segments : ∀ g, u.segment g = if segmentUsed v.path.anchor g = true then (v.segment g).inhibitedNow else v.segment g
  posts : ∀ i, u.post i = { v.post i with
    commands := []
    state := if segmentUsed v.path.anchor (postSegment i) = true ∧ (v.post i).state ≠ .isolated then .unreachable
      else (v.post i).state }

theorem completeStopping_completes {v : State} (h : v.Sound) :
    ∃ u, completeStopping v = .ok () u ∧ v.Completes u := by
  obtain ⟨t, ht⟩ : ∃ t, t = v.linesToOff.inhibitUsed := ⟨_, rfl⟩
  obtain ⟨hr, hl, hs, hp⟩ := outOfService_retires h.posts
  rw [← ht] at hr hl hs hp
  obtain ⟨_, _, _, _, _, hf⟩ := hr.frame
  have htp (p : Fin 16) : t.position p = v.position p := by rw [hf]; rfl
  obtain ⟨qs, l, hrun, _, hqs⟩ := shutPosition_forM (List.finRange 16) (List.nodup_finRange 16) t fun p => by
    rw [htp]; exact h.positions p
  obtain ⟨a, ha⟩ : ∃ a : State, a = { t with positions := qs, reports := { t.reports with list := l } } := ⟨_, rfl⟩
  rw [← ha] at hrun
  obtain ⟨_, _, _, hst⟩ := toStandby_frame a
  obtain ⟨u, hu⟩ : ∃ u, u = a.toStandby := ⟨_, rfl⟩
  rw [← hu] at hst
  have hctl : a.controlRun = v.controlRun := controlRun_congr (by rw [ha, hf])
  have hlines : u.lines = t.lines := by rw [hst, ha]
  have hsegs : u.segments = t.segments := by rw [hst, ha]
  have hposts : u.posts = t.posts := by rw [hst, ha]
  have hpos : u.positions = qs := by rw [hst, ha]
  refine ⟨u, ?_, ?_, ?_, fun k => ?_, fun p => ?_, fun g => ?_, fun i => ?_⟩
  · rw [completeStopping]
    refine (Op.bind_ok (Op.modify_apply _ _)).trans ?_
    rw [← ht]
    refine (Op.bind_ok hrun).trans ?_
    rw [Op.modify_apply, hu]
  · rw [hst, ha, hf]
  · rw [hst, hctl, ha, hf]
  · rw [State.line, hlines]
    exact hl k
  · rw [State.position, hpos, hqs, if_pos (List.mem_finRange p), htp]
  · rw [State.segment, hsegs]
    exact hs g
  · rw [State.post, hposts]
    exact hp i

theorem step_ne_linesHalting {s : State} (h : s.clearing = false) : s.engine.step ≠ .linesHalting := by
  intro e
  rw [State.clearing, e] at h
  exact Bool.noConfusion h

/-- The release of the window set is an event in STOPPING too, and the end of STOPPING follows it. -/
theorem windowSetRelease_completes {v : State} (hst : v.engine.state = .stopping) (hc : v.clearing = false)
    (hd : v.dispatchDue = false) (hr : v.reports.list = []) (hsound : v.Sound)
    (hl : ∀ l, (v.line l).state = .off
      ∨ (v.line l).state = .finishing ∧ (v.line l).exchange = none ∧ (v.line l).service = []) :
    ∃ u, exec .windowSetRelease v = .next u ∧ v.Completes u := by
  obtain ⟨u, hu, hcompletes⟩ := completeStopping_completes hsound
  have hrelease : windowSetReleased v = .ok () v := by
    rw [windowSetReleased, Op.modify_apply, if_neg (by simp [hst])]
  have hquiet : ({ v with dispatchDue := false } : State) = v := by rw [← hd]
  have hproceeds : v.restartProceeds = v := by
    rw [State.restartProceeds, if_neg (by simp [step_ne_linesHalting hc])]
  have hends : v.stoppingEnds = u := by
    rw [State.stoppingEnds, if_pos (stoppingComplete_of_lines hst hc hr hl), settle_ok _ _ _ hu]
  have hlast : ({ u with dispatchDue := false } : State) = u := by
    have hdue : u.dispatchDue = false := by rw [hcompletes.frame]; exact hd
    rw [← hdue]
  refine ⟨u, ?_, hcompletes⟩
  change Host.Outcome.next (v.runEvent windowSetReleased) = _
  rw [runEvent_ok _ _ _ hrelease, State.followUp, dispatchIfDue_idle (inRun_stopping hst), hquiet, hproceeds, hends, hlast]

end Sys2Proof.Machine
end

section
/-! SUPPORT. The calls ended, the deferrals cleared and the incidents quieted as the engine enters STOPPING (R111, R126,
R183). -/

namespace Sys2Proof.Machine

/-! ### The positions of an ended call -/

theorem placePosition_checked {p : Fin 16} {x : Position} {s : State} (h : ∀ q, (s.position q).corrupt = false) (q : Fin 16) :
    ((s.placePosition p x).position q).corrupt = false := by
  have hset : (s.placePosition p x).positions = (s.setPositionTimers p x).positions := by
    unfold State.placePosition
    split <;> rfl
  rw [State.position, hset]
  by_cases hq : q = p
  · subst hq
    exact congrArg Position.corrupt (State.setPositionTimers_self q x s)
  · simpa [State.position, State.setPositionTimers, hq] using h q

/-- The parties of a call are acted on one after another; only positions, their reports and the dispatch request change. -/
theorem positions_forM {f : Fin 16 → Op Unit}
    (hf : ∀ p (s : State), (s.position p).corrupt = false → ∃ x, f p s = .ok () (s.placePosition p x)) (ps : List (Fin 16)) :
    ∀ s : State, (∀ q, (s.position q).corrupt = false) → ∃ qs l d,
      (ps.forM f : Op PUnit) s = .ok ⟨⟩ { s with positions := qs, reports := { s.reports with list := l }, dispatchDue := d } := by
  induction ps with
  | nil => exact fun s _ => ⟨s.positions, s.reports.list, s.dispatchDue, rfl⟩
  | cons p ps ih =>
    intro s h
    obtain ⟨x, hone⟩ := hf p s (h p)
    obtain ⟨_, _, _, hframe⟩ := placePosition_frame p x s
    obtain ⟨qs, l, d, hrest⟩ := ih (s.placePosition p x) fun q => placePosition_checked h q
    refine ⟨qs, l, d, ?_⟩
    simp only [List.forM_eq_forM, List.forM_cons] at hrest ⊢
    rw [hframe] at hone hrest
    exact (Op.bind_ok hone).trans hrest

theorem endPositions_runs (c : Call) (cause : EndCause) {s : State} (h : ∀ q, (s.position q).corrupt = false) :
    ∃ qs l d, endPositions c cause s
      = .ok () { s with positions := qs, reports := { s.reports with list := l }, dispatchDue := d } := by
  have same : ∃ qs l d, (pure () : Op Unit) s
      = .ok () { s with positions := qs, reports := { s.reports with list := l }, dispatchDue := d } :=
    ⟨s.positions, s.reports.list, s.dispatchDue, rfl⟩
  cases hst : c.state with
  | connecting | active | retrieving =>
    have he : endPositions c cause = c.parties.forM wrapupPosition := by simp only [endPositions, hst]
    rw [he]
    exact positions_forM (fun p s hp => ⟨_, wrapupPosition_ok p s hp⟩) _ s h
  | offered =>
    have he : endPositions c cause = c.parties.forM (fun p => endOffer p c.number cause.offerOutcome) := by
      simp only [endPositions, hst]
    rw [he]
    exact positions_forM (fun p s hp => ⟨_, endOffer_ok p _ _ s hp⟩) _ s h
  | ringing =>
    have he : endPositions c cause = c.parties.forM freePosition := by simp only [endPositions, hst]
    rw [he]
    exact positions_forM (fun p s hp => ⟨_, freePosition_ok p s hp⟩) _ s h
  | held =>
    cases hp : c.holder with
    | none =>
      have he : endPositions c cause = pure () := by simp only [endPositions, hst, hp]
      rw [he]
      exact same
    | some p =>
      have he : endPositions c cause = dropHeld p c.number := by simp only [endPositions, hst, hp]
      obtain ⟨qs, l, d, hframe⟩ := placePosition_frame p
        { s.position p with held := (s.position p).held.erase c.number } s
      exact ⟨qs, l, d, by rw [he, dropHeld_ok p c.number s (h p), hframe]⟩
  | reserved | queued | ended =>
    have he : endPositions c cause = pure () := by simp only [endPositions, hst]
    rw [he]
    exact same

/-! ### One call ended -/

/-- A call as the engine's entry to STOPPING leaves it (R111). -/
def Call.stopped (c : Call) : Call := if c.state = .ended then c else c.endedBy .stopped

theorem stopped_ended (c : Call) : c.stopped.state = .ended := by
  unfold Call.stopped
  split
  · assumption
  · rfl

/-- What the end of one call leaves of the records. -/
structure State.EndsOne (s u : State) (r : Fin 64) : Prop where
  calls : ∀ q, u.call q = if q = r then (s.call r).map Call.stopped else s.call q
  deferrals : u.calls.deferrals = s.calls.deferrals
  incidents : s.FadesIncidents u
  channels : ∀ k, u.channel k = s.channel k
    ∨ ∃ c, s.call r = some c ∧ c.state ≠ .ended ∧ (s.channel k).call = some c.number

theorem endsOne_refl {s : State} {r : Fin 64} (h : ∀ c, s.call r = some c → c.state = .ended) : s.EndsOne s r where
  calls q := by
    by_cases hq : q = r
    · subst hq
      rw [if_pos rfl]
      cases hr : s.call q with
      | none => rfl
      | some c => exact congrArg some (if_pos (h c hr)).symm
    · rw [if_neg hq]
  deferrals := rfl
  incidents := .of_cluster rfl
  channels _ := .inl rfl

theorem State.EndsOne.channelsHeld {s u : State} {r : Fin 64} (h : s.EndsOne u r) (hs : s.ChannelsHeld) : u.ChannelsHeld := by
  have live {q : Fin 64} {c : Call} (hq : u.call q = some c) (hc : c.state ≠ .ended) : q ≠ r ∧ s.call q = some c := by
    rw [h.calls] at hq
    by_cases hqr : q = r
    · rw [if_pos hqr] at hq
      obtain ⟨d, _, rfl⟩ := Option.map_eq_some_iff.mp hq
      exact absurd (stopped_ended d) hc
    · rw [if_neg hqr] at hq
      exact ⟨hqr, hq⟩
  refine ⟨fun q c ch hq hc hch => ?_, fun q q' c d hq hq' hc hd => ?_⟩
  · obtain ⟨hqr, hsq⟩ := live hq hc
    obtain ⟨st, hst, hch', hentry⟩ := hs.holds q c ch hsq hc hch
    refine ⟨st, hst, hch', ?_⟩
    rcases h.channels (channelIndex (postSegment c.post) ch) with hk | ⟨d, hd, hlive, hnum⟩
    · rw [hk]; exact hentry
    · rw [hentry] at hnum
      exact absurd (hs.numbers q r c d hsq hd hc hlive (Option.some.inj hnum)) hqr
  · exact hs.numbers q q' c d (live hq hc).2 (live hq' hd).2 hc hd

/-- The channel of a call that is ending is freed, if it holds one. -/
theorem endingChannel_runs {s : State} {r : Fin 64} {c : Call} (h : s.Sound) (hh : s.ChannelsHeld) (hr : s.call r = some c)
    (hended : c.state ≠ .ended) (cause : EndCause) : ∃ sp l n d,
    (if c.channel.isSome = true then freeCallChannel r else pure ()) (s.recordEnded r c cause) = .ok () { s with
        speech := sp, reports := { s.reports with list := l }, dispatchDue := d
        calls := { s.calls with queue := n, records := put s.calls.records r (some { c.ending cause with channel := none }) } }
      ∧ ∀ k, sp.channels.get k = s.channel k ∨ (s.channel k).call = some c.number := by
  obtain ⟨l, ha⟩ := recordEnded_frame r c cause s
  obtain ⟨a, hadef⟩ : ∃ a, a = s.recordEnded r c cause := ⟨_, rfl⟩
  rw [← hadef] at ha ⊢
  have hcall : a.call r = some (c.ending cause) := by rw [ha]; exact put_get_self _ _ _
  cases hch : c.channel with
  | none =>
    have hrec : ({ c.ending cause with channel := none } : Call) = c.ending cause := by
      rw [← hch]; rfl
    refine ⟨s.speech, l, if c.state = .queued then s.calls.queue.erase r else s.calls.queue, s.dispatchDue, ?_,
      fun _ => .inl rfl⟩
    rw [hrec, if_neg (by simp)]
    exact congrArg (EStateM.Result.ok ()) ha
  | some ch =>
    obtain ⟨st, hst, hch', hentry⟩ := hh.holds r c ch hr hended hch
    have hholds : a.HoldsChannel (c.ending cause) ch st := ⟨hch', by rw [ha]; exact hentry⟩
    obtain ⟨sp, hrun, hspc, _, _⟩ := freeCallChannel_ok r a (c.ending cause) ch st hcall rfl hholds hst
      (by rw [ha]; exact h.crosspoints)
    have hkeep : sp.channels = s.speech.channels := by rw [hspc, ha]
    rw [if_pos (by simp)]
    refine ⟨{ sp with channels := put sp.channels (channelIndex (postSegment c.post) ch) .freed },
      markObject l (.segment (postSegment c.post)) true false false s.time,
      if c.state = .queued then s.calls.queue.erase r else s.calls.queue, true, hrun.trans ?_, fun k => ?_⟩
    · rw [ha]
      simp only [State.setChannel, State.setCall, State.wantDispatch, State.report, put_put]
      rfl
    · rw [put_get]
      by_cases hk : k = channelIndex (postSegment c.post) ch
      · right
        rw [hk, hentry]
      · left
        rw [if_neg hk, hkeep]
        rfl

/-- A call is ended STOPPED, where no check code fails and its channel names it. -/
theorem endCall_stopped {s : State} (r : Fin 64) (h : s.Sound) (hh : s.ChannelsHeld) (hst : s.engine.state = .stopping) :
    ∃ u, endCall r .stopped s = .ok () u ∧ s.EndsOne u r := by
  cases hr : s.call r with
  | none =>
    refine ⟨s, ?_, endsOne_refl fun c hc => absurd (hr.symm.trans hc) (by simp)⟩
    rw [endCall, withCall]
    exact (Op.bind_ok (readCall_free s r hr)).trans rfl
  | some c =>
    have hc := h.call_checked hr
    by_cases hended : c.state = .ended
    · refine ⟨s, ?_, endsOne_refl fun d hd => ?_⟩
      · rw [endCall, withCall_ok s r c _ hr hc, if_pos hended]
        rfl
      · rw [← Option.some.inj (hr.symm.trans hd)]
        exact hended
    · obtain ⟨sp, l, n, d, hfree, hchannels⟩ := endingChannel_runs h hh hr hended .stopped
      obtain ⟨t, ht⟩ : ∃ t : State, t = { s with
        speech := sp, reports := { s.reports with list := l }, dispatchDue := d
        calls := { s.calls with
          queue := n, records := put s.calls.records r (some { c.ending .stopped with channel := none }) } } := ⟨_, rfl⟩
      rw [← ht] at hfree
      obtain ⟨qs, l', d', hpos⟩ := endPositions_runs c .stopped (s := t) fun q => by rw [ht]; exact h.positions q
      obtain ⟨v, hv⟩ : ∃ v : State, v = { t with
        positions := qs, reports := { t.reports with list := l' }, dispatchDue := d' } := ⟨_, rfl⟩
      rw [← hv] at hpos
      obtain ⟨w, hend, hw⟩ := endCall_finishes_of (s := s) (t := t) (v := v) hr hc hended hfree hpos
        (by rw [hv, ht]; exact put_get_self _ _ _) (ending_endedBy .stopped hc) (by rw [hv, ht]; exact h.posts _)
        (fun _ _ w he _ => farCallLeft_idle _ (inRun_stopping (by rw [he, hv, ht]; exact hst)))
        (by rw [hv, ht]; exact fun _ _ => h.incident_checked)
      obtain ⟨_, _, _, _, hwf⟩ := hw.frame
      obtain ⟨_, _, _, _, hx⟩ := judgedIf_frame (c.state = .queued) w
      obtain ⟨x, hxdef⟩ : ∃ x, x = if c.state = .queued then w.judgeOverflow else w := ⟨_, rfl⟩
      rw [← hxdef] at hx hend
      have hcluster : (x.reportCall r).cluster = w.cluster := by rw [hx]; rfl
      refine ⟨x.reportCall r, hend, fun q => ?_, ?_, ?_, fun k => ?_⟩
      · have hrecords : (x.reportCall r).calls.records = put s.calls.records r (some c.stopped) := by
          rw [Call.stopped, if_neg hended]
          change x.calls.records = _
          rw [hx, hwf, hv, ht]
          exact put_put _ _ _ _
        rw [State.call, hrecords, put_get, hr]
        rfl
      · change x.calls.deferrals = _
        rw [hx, hwf, hv, ht]
      · have hfirst : s.FadesIncidents v := .of_cluster (by rw [hv, ht])
        exact (hfirst.trans hw.incidents).trans (.of_cluster hcluster)
      · have hspeech : (x.reportCall r).speech = sp := by
          change x.speech = _
          rw [hx, hwf, hv, ht]
        rw [State.channel, hspeech]
        exact (hchannels k).imp id fun hk => ⟨c, hr, hended, hk⟩

/-! ### All calls ended -/

theorem endCalls_stopped (rs : List (Fin 64)) : ∀ s : State, s.Sound → s.ChannelsHeld → s.engine.state = .stopping →
    ∃ u, (rs.forM (fun r => endCall r .stopped) : Op PUnit) s = .ok ⟨⟩ u ∧ s.Steady u
      ∧ (∀ q, u.call q = if q ∈ rs then (s.call q).map Call.stopped else s.call q)
      ∧ u.calls.deferrals = s.calls.deferrals ∧ s.FadesIncidents u := by
  induction rs with
  | nil => exact fun s _ _ _ => ⟨s, rfl, .refl s, fun q => (if_neg List.not_mem_nil).symm, rfl, .of_cluster rfl⟩
  | cons r rs ih =>
    intro s h hh hst
    obtain ⟨t, ht, hone⟩ := endCall_stopped r h hh hst
    have hkeep := endCall_stays r .stopped s hst
    rw [Op.leaves, ht] at hkeep
    obtain ⟨u, hu, hsteady, hcalls, hdef, hfades⟩ := ih t (hkeep.sound h) (hone.channelsHeld hh) (hkeep.engine.trans hst)
    refine ⟨u, ?_, hkeep.trans hsteady, fun q => ?_, hdef.trans hone.deferrals, hone.incidents.trans hfades⟩
    · simp only [List.forM_eq_forM, List.forM_cons] at hu ⊢
      exact (Op.bind_ok ht).trans hu
    · rw [hcalls, hone.calls]
      by_cases hq : q = r
      · subst hq
        rw [if_pos rfl, if_pos List.mem_cons_self]
        split
        · cases s.call q with
          | none => rfl
          | some c => exact congrArg some (if_pos (stopped_ended c))
        · rfl
      · rw [if_neg hq]
        simp [hq]

/-! ### The deferrals cleared -/

theorem clearDeferrals_forM (is : List (Fin 256)) : ∀ s : State, s.Sound →
    ∃ u, (is.forM clearDeferral : Op PUnit) s = .ok ⟨⟩ u ∧ s.Steady u ∧ u.calls.records = s.calls.records
      ∧ u.cluster = s.cluster ∧ u.calls.deferrals = s.calls.deferrals.filter (fun d => d.post ∉ is) := by
  induction is with
  | nil => exact fun s _ => ⟨s, rfl, .refl s, rfl, rfl, by simp⟩
  | cons i is ih =>
    intro s h
    have hsteady := removeDeferral_steady s i
    have hone : clearDeferral i s = .ok () (s.removeDeferral i) := by
      rw [clearDeferral]
      exact (Op.bind_ok (readPost_ok s i (h.posts i))).trans (Op.modify_apply _ _)
    obtain ⟨u, hu, hrest, hrecords, hcluster, hdef⟩ := ih (s.removeDeferral i) (hsteady.sound h)
    refine ⟨u, ?_, hsteady.trans hrest, hrecords.trans ?_, hcluster.trans ?_, hdef.trans ?_⟩
    · simp only [List.forM_eq_forM, List.forM_cons] at hu ⊢
      exact (Op.bind_ok hone).trans hu
    · simp [State.removeDeferral, State.setDeferrals]
      split <;> rfl
    · simp [State.removeDeferral, State.setDeferrals]
      split <;> rfl
    · have hremoved : (s.removeDeferral i).calls.deferrals = s.calls.deferrals.filter (fun d => d.post != i) := by
        simp [State.removeDeferral, State.setDeferrals]
        split <;> rfl
      rw [hremoved, List.filter_filter]
      exact List.filter_congr fun d _ => by by_cases hd : d.post = i <;> simp [hd]

/-! ### The incidents quieted -/

/-- An incident as the engine's entry to STOPPING leaves it (R126). -/
def Incident.quieted (x : Incident) : Incident := if x.stops then x.stopped else x

theorem quietIncident_runs (k : Fin 16) {s : State} (h : s.Sound) : ∃ u, quietIncident k s = .ok () u
    ∧ u.calls = s.calls ∧ ∀ j, u.incident j = if j = k then (s.incident k).map Incident.quieted else s.incident j := by
  have same (hx : (s.incident k).map Incident.quieted = s.incident k) (j : Fin 16) :
      s.incident j = if j = k then (s.incident k).map Incident.quieted else s.incident j := by
    by_cases hj : j = k
    · rw [if_pos hj, hx, hj]
    · rw [if_neg hj]
  rw [quietIncident]
  cases hx : s.incident k with
  | none =>
    refine ⟨s, (Op.bind_ok (Op.get_apply _)).trans ((congrFun (if_neg (by simp [hx])) _).trans rfl), rfl, ?_⟩
    rw [← hx]
    exact same (by rw [hx]; rfl)
  | some x =>
    by_cases hstops : x.stops = true
    · have hc := h.incident_checked hx
      have hstopped : x.stopped.corrupt = false := by
        unfold Incident.stopped Incident.becomeQuiet Incident.closeIfEmpty
        split
        · split <;> exact hc
        · split <;> exact hc
      refine ⟨_, (Op.bind_ok (Op.get_apply _)).trans ((congrFun (if_pos (by simp [hx, hstops])) _).trans
        ((Op.bind_ok (readIncident_ok s k x hx hc)).trans (Op.modify_apply _ _))), rfl, fun j => ?_⟩
      have hrep : ((s.setIncident k x.stopped).reportIncident k).incident j = (s.setIncident k x.stopped).incident j := rfl
      rw [hrep]
      by_cases hj : j = k
      · rw [if_pos hj, hj, State.setIncident_self, Option.map_some, Incident.quieted, if_pos hstops, ← hstopped]
      · rw [if_neg hj, State.setIncident_ne k j _ s hj]
    · refine ⟨s, (Op.bind_ok (Op.get_apply _)).trans ((congrFun (if_neg (by simp [hx, hstops])) _).trans rfl), rfl, ?_⟩
      rw [← hx]
      exact same (by rw [hx, Option.map_some, Incident.quieted, if_neg hstops])

theorem quietIncidents_forM (ks : List (Fin 16)) (hnodup : ks.Nodup) : ∀ s : State, s.Sound → s.engine.state = .stopping →
    ∃ u, (ks.forM quietIncident : Op PUnit) s = .ok ⟨⟩ u ∧ u.calls = s.calls
      ∧ ∀ j, u.incident j = if j ∈ ks then (s.incident j).map Incident.quieted else s.incident j := by
  induction ks with
  | nil => exact fun s _ _ => ⟨s, rfl, rfl, fun j => (if_neg List.not_mem_nil).symm⟩
  | cons k ks ih =>
    intro s h hst
    obtain ⟨hk, hl⟩ := List.nodup_cons.mp hnodup
    obtain ⟨t, ht, hcalls, hinc⟩ := quietIncident_runs k h
    have hkeep := quietIncident_stays k s hst
    rw [Op.leaves, ht] at hkeep
    obtain ⟨u, hu, hcalls', hinc'⟩ := ih hl t (hkeep.sound h) (hkeep.engine.trans hst)
    refine ⟨u, ?_, hcalls'.trans hcalls, fun j => ?_⟩
    · simp only [List.forM_eq_forM, List.forM_cons] at hu ⊢
      exact (Op.bind_ok ht).trans hu
    · rw [hinc', hinc]
      by_cases hj : j = k
      · rw [hj, if_neg hk, if_pos rfl, if_pos List.mem_cons_self]
      · rw [if_neg hj]
        simp [hj]

/-- An incident that was not CLOSED, once its members have ended and STOPPING has quieted it (R122, R124, R126). -/
theorem quieted_of_fades {x y : Incident} (h : x.Fades y) (hx : x.state ≠ .closed) :
    y.quieted.live ≤ x.live ∧ y.quieted.state = (if y.quieted.live = 0 then .closed else .quiet)
      ∧ y.quieted.quietCause = (if x.state = .opened then some .stopped else x.quietCause)
      ∧ y.quieted.closeCause = (if y.quieted.live = 0 then y.quieted.quietCause.map QuietCause.close else x.closeCause)
      ∧ y.quieted.windowTimer = (if x.state = .opened then none else x.windowTimer)
      ∧ y.quieted = { x with
          state := y.quieted.state, quietCause := y.quieted.quietCause, closeCause := y.quieted.closeCause
          windowTimer := y.quieted.windowTimer, live := y.quieted.live, lead := y.quieted.lead
          leadAnswered := y.quieted.leadAnswered } := by
  obtain ⟨hlive, hframe, hstate⟩ := h
  obtain ⟨st, cc, n, ld, la, rfl⟩ : ∃ st cc n ld la, y = { x with
      state := st, closeCause := cc, live := n, lead := ld, leadAnswered := la } := ⟨_, _, _, _, _, hframe⟩
  dsimp only at hlive hstate
  rcases hstate with ⟨rfl, rfl⟩ | ⟨hquiet, rfl, rfl, rfl⟩
  · cases hst : x.state with
    | opened =>
      by_cases hn : n = 0 <;>
        simp [Incident.quieted, Incident.stops, Incident.stopped, Incident.becomeQuiet, Incident.closeIfEmpty, hn, hlive]
    | quiet =>
      by_cases hn : n = 0 <;>
        simp [Incident.quieted, Incident.stops, Incident.stopped, Incident.closeIfEmpty, hn, hlive]
    | closed => exact absurd hst hx
  · simp [Incident.quieted, Incident.stops, hquiet]

end Sys2Proof.Machine
end

section
/-! SUPPORT. The obligation about STOP and the end of STOPPING (R178, R183, R184, R192). -/

namespace Sys2Proof.Machine

/-- What the ending of the calls, the deferrals and the incidents leaves, where no check fails. -/
theorem stoppingSteps_runs {s : State} (h : s.Sound) (hh : s.ChannelsHeld) (hst : s.engine.state = .stopping) :
    ∃ u, stoppingSteps s = .ok () u ∧ s.Steady u ∧ (∀ r, u.call r = (s.call r).map Call.stopped) ∧ u.calls.deferrals = []
      ∧ ∀ k x, s.incident k = some x → ∃ y, x.Fades y ∧ u.incident k = some y.quieted := by
  obtain ⟨a, ha, hsa, hcalls, hdef, hfades⟩ := endCalls_stopped (List.finRange 64) s h hh hst
  obtain ⟨b, hb, hab, hrecords, hcluster, hcleared⟩ := clearDeferrals_forM (a.calls.deferrals.map (fun d => d.post)) a
    (hsa.sound h)
  have hsb := hsa.trans hab
  obtain ⟨u, hu, hcalls', hinc⟩ := quietIncidents_forM (List.finRange 16) (List.nodup_finRange 16) b (hsb.sound h)
    (hsb.engine.trans hst)
  have hrun : stoppingSteps s = .ok () u := by
    rw [stoppingSteps]
    refine (Op.bind_ok ha).trans ?_
    rw [clearDeferrals]
    exact (Op.bind_ok ((Op.bind_ok (Op.get_apply a)).trans hb)).trans hu
  have hkeep := stoppingSteps_stays s hst
  rw [Op.leaves, hrun] at hkeep
  refine ⟨u, hrun, hkeep, fun r => ?_, ?_, fun k x hx => ?_⟩
  · have hrb : b.call r = a.call r := by rw [State.call, State.call, hrecords]
    rw [State.call, hcalls', ← State.call, hrb, hcalls, if_pos (List.mem_finRange r)]
  · rw [hcalls', hcleared, List.filter_eq_nil_iff]
    intro d hd
    have hmem : d.post ∈ a.calls.deferrals.map (fun d => d.post) := List.mem_map_of_mem hd
    simp only [hmem, not_true_eq_false, decide_false, Bool.false_eq_true, not_false_eq_true]
  · obtain ⟨y, hy, hxy⟩ := hfades k x hx
    have hb' : b.incident k = some y := by rw [State.incident, hcluster]; exact hy
    exact ⟨y, hxy, by rw [hinc, if_pos (List.mem_finRange k), hb']; rfl⟩

theorem toFinishing_state (x : LineSide) : x.toFinishing.state
    = if x.state = .sweeping ∨ x.state = .serving then .finishing else x.state := by
  unfold LineSide.toFinishing
  cases hst : x.state <;> simp [hst]

/-- The engine's entry to STOPPING with no check failing. -/
theorem enterStopping_runs {s : State} (h : s.Sound) (hh : s.ChannelsHeld) :
    ∃ u, enterStopping s = .ok () u ∧ u.engine.state = .stopping
      ∧ (∀ r, u.call r = (s.call r).map Call.stopped) ∧ u.calls.deferrals = []
      ∧ (∀ l, (u.line l).state = if (s.line l).state = .sweeping ∨ (s.line l).state = .serving then .finishing
          else (s.line l).state)
      ∧ ∀ k x, s.incident k = some x → ∃ y, x.Fades y ∧ u.incident k = some y.quieted := by
  obtain ⟨t, ht⟩ : ∃ t, t = s.stoppingNow := ⟨_, rfl⟩
  obtain ⟨_, _, _, _, hframe⟩ := setEngineState_frame .stopping { s with lines := s.lines.map LineSide.toFinishing }
  have htf := ht.trans hframe
  have htl (l : LineId) : t.line l = (s.line l).toFinishing := by rw [ht, stoppingNow_line]
  have hsound : t.Sound := by rw [htf]; exact ⟨h.posts, h.positions, h.calls, h.incidents, h.channels, h.crosspoints⟩
  have hheld : t.ChannelsHeld := by rw [htf]; exact ⟨hh.holds, hh.numbers⟩
  have hcalls (r : Fin 64) : t.call r = s.call r := by rw [htf]; rfl
  have hincs (k : Fin 16) : t.incident k = s.incident k := by rw [htf]; rfl
  obtain ⟨u, hu, hsteady, hcall, hdef, hinc⟩ := stoppingSteps_runs hsound hheld (by rw [ht]; exact stoppingNow_state s)
  refine ⟨u, ?_, ?_, fun r => by rw [hcall, hcalls], hdef, fun l => ?_, fun k x hx => hinc k x (by rw [hincs]; exact hx)⟩
  · rw [enterStopping_apply, ← ht]
    exact hu
  · rw [hsteady.engine, ht]
    rfl
  · obtain ⟨_, _, hline⟩ := hsteady.lines l
    rw [hline, ← toFinishing_state, ← htl]

theorem controlWritten_run {s : State} (h : s.engine.state = .run) (hstop : s.controlRun = false) :
    s.settle controlWritten = s.settle enterStopping := by
  have hwritten : controlWritten s = enterStopping s := by
    rw [controlWritten]
    refine (Op.bind_ok (Op.get_apply _)).trans ?_
    simp only [h, hstop, Bool.false_eq_true, if_false]
  rw [State.settle, State.settle, hwritten]

theorem bypass_of_down {s : State} (h : s.engine.state = .stopping ∨ s.engine.state = .standby) : s.bypass = true := by
  rw [State.bypass]
  rcases h with hst | hst <;> rw [hst]

/-- Settles O14: STOP by the engine state it finds, and the end of STOPPING. -/
theorem stopTakesEngineOutOfService : Obligations.StopTakesEngineOutOfService := by
  unfold Obligations.StopTakesEngineOutOfService
  intro s d en hserves hen ht hstop
  have hrow := stopWrite_row d hserves hen ht
  have hctl := controlTaken_stop en hstop
  obtain ⟨t, htd⟩ : ∃ t, t = s.controlTaken d en := ⟨_, rfl⟩
  have htf := htd.trans (controlTaken_frame s d en)
  rw [← htd] at hrow hctl
  have hengine : t.engine = s.engine := by rw [htf]
  refine ⟨fun hrun => ?_, fun hfailed => ?_, fun hrun hsound hheld => ?_, fun v hst hc hd hr hsound hl => ?_⟩
  · rw [controlWritten_run (by rw [hengine]; exact hrun) hctl] at hrow
    obtain ⟨hst, hlines⟩ := followUp_down (enterStopping_down t)
    exact ⟨_, hrow, bypass_of_down hst, hst, hlines⟩
  · have hst : t.engine.state = .failed := by rw [hengine]; exact hfailed
    rw [settle_ok _ _ _ (controlWritten_failed hst hctl)] at hrow
    obtain ⟨hleft, hhist, hreq⟩ := leaveFailed_engine hst
    obtain ⟨hstate, hhist', hreq'⟩ := followUp_standby hleft
    exact ⟨_, hrow, hstate, hhist'.trans hhist, hreq'.trans (hreq.trans hctl)⟩
  · have hts : t.Sound := by
      rw [htf]
      exact ⟨hsound.posts, hsound.positions, hsound.calls, hsound.incidents, hsound.channels, hsound.crosspoints⟩
    have hth : t.ChannelsHeld := by rw [htf]; exact ⟨hheld.holds, hheld.numbers⟩
    have htl (l : LineId) : t.line l = s.line l := by rw [htf]; rfl
    have htc (r : Fin 64) : t.call r = s.call r := by rw [htf]; rfl
    have hti (k : Fin 16) : t.incident k = s.incident k := by rw [htf]; rfl
    obtain ⟨u, hu, hst, hcalls, hdef, hlines, hinc⟩ := enterStopping_runs hts hth
    rw [controlWritten_run (by rw [hengine]; exact hrun) hctl, settle_ok _ _ _ hu] at hrow
    refine ⟨u, hrow, hst, fun r => ?_, hdef, fun l => by rw [hlines, htl], fun k x hx hclosed => ?_⟩
    · rw [hcalls, htc]
      rfl
    · obtain ⟨y, hxy, hy⟩ := hinc k x (by rw [hti]; exact hx)
      exact ⟨y.quieted, hy, quieted_of_fades hxy hclosed⟩
  · obtain ⟨u, hu, hcompletes⟩ := windowSetRelease_completes hst hc hd hr hsound hl
    refine ⟨u, hu, bypass_of_down (.inr ?_), hcompletes.engine, hcompletes.lines, hcompletes.positions,
      hcompletes.segments, hcompletes.posts, hcompletes.frame⟩
    rw [hcompletes.engine]

end Sys2Proof.Machine
end

section
/-! SUPPORT. The offer of a call to a position (R134), and the ranking and pairing that choose it (R97, R98, R133). -/

namespace Sys2Proof.Machine

/-! ### The offer (R134) -/

/-- The record of a call on offer. -/
def Call.offeredTo (c : Call) (p : Fin 16) (ch : Fin 4) : Call := { c with state := .offered, channel := some ch, parties := [p] }

/-- The channel-map entry RESERVED for a call (R151). -/
def Call.reservation (c : Call) : Channel := { state := .reserved, call := some c.number, corrupt := false }

/-- The record of a position that is offered a call. -/
def State.positionOffered (s : State) (p : Fin 16) (n : Nat) : Position :=
  { s.position p with state := .offered, current := some n, offerTimer := some (s.after s.offerTicks) }

/-- The state that an offer leaves. -/
def State.offerMade (s : State) (r : Fin 64) (c : Call) (p : Fin 16) (ch : Fin 4) : State :=
  ((s.channelReserved r c ch).takeFromQueue r p .offered).setPosition p (s.positionOffered p c.number)

section Made

variable {s : State} {r : Fin 64} {c : Call} {p : Fin 16} {ch : Fin 4}

theorem channelReserved_call (hc : c.corrupt = false) :
    (s.channelReserved r c ch).call r = some { c with channel := some ch } := by
  rw [State.channelReserved, State.setCall_self, ← hc]

/-- What an offer leaves but for the channel map, the queue and the records it names. -/
theorem offerMade_frame (hc : c.corrupt = false) (hp : (s.position p).corrupt = false) : ∃ ra pa en l,
    s.offerMade r c p ch = { s with
      path := pa, engine := en, reports := { s.reports with list := l }
      positions := put s.positions p (s.positionOffered p c.number)
      speech := { s.speech with channels := put s.speech.channels (channelIndex (postSegment c.post) ch) c.reservation }
      calls := { s.calls with
        records := put s.calls.records r (some (c.offeredTo p ch))
        queue := s.calls.queue.erase r, overflow := s.overflowAt (s.calls.queue.erase r).length, reannounce := ra } } := by
  obtain ⟨y, hy⟩ : ∃ y, y = s.channelReserved r c ch := ⟨_, rfl⟩
  have hyr : y.call r = some { c with channel := some ch } := by rw [hy]; exact channelReserved_call hc
  obtain ⟨⟨ra, pa, en, l, ht⟩, _, _⟩ :=
    takeFromQueue_takes p .offered c.post (channelIndex (postSegment c.post) ch) hyr
  have hover : y.overflowAt (y.calls.queue.erase r).length = s.overflowAt (s.calls.queue.erase r).length := by
    rw [hy]; rfl
  rw [hover] at ht
  have hrecord : ({ { { c with channel := some ch } with state := .offered, parties := [p] } with corrupt := false } : Call)
      = c.offeredTo p ch := by rw [Call.offeredTo, ← hc]
  rw [hrecord] at ht
  refine ⟨ra, pa, en, markObject l (.position p) true true false s.time, ?_⟩
  rw [State.offerMade, setPosition_eq p (x := s.positionOffered p c.number) hp, ← hy, ht, hy]
  simp only [State.channelReserved, State.setChannel, State.setCall, State.report, put_put]
  rfl

theorem offerMade_touches (hc : c.corrupt = false) :
    s.TouchesOnly (s.offerMade r c p ch) r p c.post (channelIndex (postSegment c.post) ch)
      ∧ (s.offerMade r c p ch).Reported (.call r) ∧ (s.offerMade r c p ch).Reported (.position p) := by
  obtain ⟨y, hy⟩ : ∃ y, y = s.channelReserved r c ch := ⟨_, rfl⟩
  have hyr : y.call r = some { c with channel := some ch } := by rw [hy]; exact channelReserved_call hc
  have htouch := channelReserved_touches s p r c ch
  have htakes := takeFromQueue_takes p .offered c.post (channelIndex (postSegment c.post) ch) hyr
  rw [← hy] at htouch
  rw [State.offerMade, ← hy]
  exact ⟨(htouch.trans htakes.touches).trans (touchesOnly_setPosition r p _ _ _ _),
    keepsReports_report (.position p) true true false _ _ htakes.reported, reportBoth_reported (.position p) _⟩

end Made

/-- A reservation that succeeds takes the lowest FREE channel for a call that holds none. -/
theorem reserveChannel_inv {g : Fin 8} {r : Fin 64} {s t : State} {c : Call} (hr : s.call r = some c)
    (hc : c.corrupt = false) (h : reserveChannel g r s = .ok () t) :
    ∃ ch, s.freeChannel g = some ch ∧ s.channelHeldBy c.number = none
      ∧ (s.channel (channelIndex g ch)).corrupt = false := by
  rw [reserveChannel, withCall_ok s r c _ hr hc] at h
  cases hh : s.channelHeldBy c.number with
  | some k => simp [hh] at h
  | none =>
    cases hf : s.freeChannel g with
    | none => simp [hh, hf] at h
    | some ch =>
      refine ⟨ch, rfl, rfl, ?_⟩
      by_contra hbad
      simp [hh, hf, readChannel, Bool.not_eq_false _ ▸ hbad] at h

/-- An offer where the channel map and the check codes are in order. -/
theorem offer_runs {s : State} {r : Fin 64} {c : Call} {p : Fin 16} {ch : Fin 4} (hr : s.call r = some c)
    (hc : c.corrupt = false) (hp : (s.position p).corrupt = false) (hh : s.channelHeldBy c.number = none)
    (hf : s.freeChannel (postSegment c.post) = some ch)
    (he : (s.channel (channelIndex (postSegment c.post) ch)).corrupt = false) :
    offer r p s = .ok () (s.offerMade r c p ch) := by
  obtain ⟨y, hy⟩ : ∃ y, y = s.channelReserved r c ch := ⟨_, rfl⟩
  have hreserve : reserveChannel (postSegment c.post) r s = .ok () y := by
    rw [hy]
    exact reserveChannel_ok (postSegment c.post) r s c ch hr hc hh hf he
  obtain ⟨v, hv⟩ : ∃ v, v = y.takeFromQueue r p .offered := ⟨_, rfl⟩
  have hafter : v.after v.offerTicks = s.after s.offerTicks := by
    have hyr : y.call r = some { c with channel := some ch } := by rw [hy]; exact channelReserved_call hc
    have htouch := (takeFromQueue_takes p .offered c.post (channelIndex (postSegment c.post) ch) hyr).touches
    have hytouch := channelReserved_touches s p r c ch
    rw [← hy] at hytouch
    rw [← hv] at htouch
    have hanchor : v.path.anchor = s.path.anchor := htouch.path.1.trans hytouch.path.1
    have htime : v.time = s.time := htouch.port.1.trans hytouch.port.1
    simp only [State.after, State.offerTicks, State.parameter, State.anchorWord, hanchor, htime]
  rw [offer, withCall_ok s r c _ hr hc]
  refine (Op.bind_ok (readPosition_ok s p hp)).trans ((Op.bind_ok hreserve).trans ((Op.bind_ok (Op.modify_apply _ _)).trans ?_))
  rw [← hv, Op.modify_apply, hafter, State.offerMade, ← hy, ← hv]
  rfl

/-- An offer that succeeds: what it leaves, and the channel it took. -/
theorem offer_inv {s t : State} {r : Fin 64} {c : Call} {p : Fin 16} (hr : s.call r = some c) (hc : c.corrupt = false)
    (h : offer r p s = .ok () t) : ∃ ch, t = s.offerMade r c p ch ∧ (s.position p).corrupt = false := by
  have hp : (s.position p).corrupt = false := by
    by_contra hbad
    rw [offer, withCall_ok s r c _ hr hc] at h
    simp [readPosition, Bool.not_eq_false _ ▸ hbad] at h
  have hreserve : ∃ y, reserveChannel (postSegment c.post) r s = .ok () y := by
    rw [offer, withCall_ok s r c _ hr hc] at h
    have h' := (Op.bind_ok (f := fun x => reserveChannel (postSegment c.post) r >>= fun _ =>
      modify (fun s => s.takeFromQueue r p .offered) >>= fun _ =>
      modify (fun s => s.setPosition p { x with
        state := .offered, current := some c.number, offerTimer := some (s.after s.offerTicks) }))
      (readPosition_ok s p hp)).symm.trans h
    rw [Op.bind_apply] at h'
    cases hres : reserveChannel (postSegment c.post) r s with
    | ok a y => exact ⟨y, rfl⟩
    | error f y => rw [hres] at h'; cases h'
  obtain ⟨y, hy⟩ := hreserve
  obtain ⟨ch, hf, hh, he⟩ := reserveChannel_inv hr hc hy
  exact ⟨ch, (EStateM.Result.ok.inj (h.symm.trans (offer_runs hr hc hp hh hf he))).2, hp⟩

/-! ### Rank (R97, R98) -/

theorem baseClass_range (s : State) (c : Call) : 1 ≤ s.baseClass c ∧ s.baseClass c ≤ 4 := by
  unfold State.baseClass
  split
  · exact ⟨by decide, by decide⟩
  · exact ⟨by decide, by decide⟩
  · split
    · exact ⟨by decide, by decide⟩
    · split <;> exact ⟨by decide, by decide⟩
  · split
    · exact ⟨by decide, by decide⟩
    · split <;> exact ⟨by decide, by decide⟩

/-- The effective class of a call is 1 to 4. -/
theorem classOf_range (s : State) (c : Call) : 1 ≤ s.classOf c ∧ s.classOf c ≤ 4 := by
  obtain ⟨hlow, hhigh⟩ := baseClass_range s c
  unfold State.classOf
  split
  · exact ⟨hlow, hhigh⟩
  · unfold effectiveClass
    split <;> omega

theorem mem_ranked {s : State} {r : Fin 64} {c : Call} (hq : r ∈ s.calls.queue) (hr : s.call r = some c) : r ∈ s.ranked := by
  obtain ⟨hlow, hhigh⟩ := classOf_range s c
  have hclass : s.classAt r = s.classOf c := by simp only [State.classAt, hr]
  refine List.mem_flatMap.mpr ⟨s.classOf c, ?_, List.mem_filter.mpr ⟨hq, by rw [hclass]; exact beq_self_eq_true _⟩⟩
  simp only [List.mem_cons, List.not_mem_nil, or_false]
  omega

/-- The classes below a class come before it. -/
theorem classes_split {k : Nat} (hlow : 1 ≤ k) (hhigh : k ≤ 4) :
    ∃ ks ks', ([1, 2, 3, 4] : List Nat) = ks ++ k :: ks' ∧ ∀ j ∈ ks, j < k := by
  obtain rfl | rfl | rfl | rfl : k = 1 ∨ k = 2 ∨ k = 3 ∨ k = 4 := by omega
  · exact ⟨[], [2, 3, 4], rfl, by simp⟩
  · exact ⟨[1], [3, 4], rfl, by simp⟩
  · exact ⟨[1, 2], [4], rfl, by simp⟩
  · exact ⟨[1, 2, 3], [], rfl, by simp⟩

/-- A call of the queue in rank order: before it stand calls of a lower class, and those of its own class that stand before
it in the queue. -/
theorem ranked_split {s : State} {r : Fin 64} {c : Call} {before after : List (Fin 64)} (hr : s.call r = some c)
    (hq : s.calls.queue = before ++ r :: after) : ∃ pre post, s.ranked = pre ++ r :: post
      ∧ ∀ q ∈ pre, q ∈ s.calls.queue ∧ s.classAt q < s.classOf c ∨ q ∈ before ∧ s.classAt q = s.classOf c := by
  obtain ⟨hlow, hhigh⟩ := classOf_range s c
  obtain ⟨ks, ks', hks, hless⟩ := classes_split hlow hhigh
  have hclass : s.classAt r = s.classOf c := by simp only [State.classAt, hr]
  refine ⟨ks.flatMap (fun k => s.calls.queue.filter (fun r => s.classAt r == k))
    ++ before.filter (fun r => s.classAt r == s.classOf c),
    after.filter (fun r => s.classAt r == s.classOf c)
      ++ ks'.flatMap (fun k => s.calls.queue.filter (fun r => s.classAt r == k)), ?_, fun q hmem => ?_⟩
  · rw [State.ranked, hks, List.flatMap_append, List.flatMap_cons]
    have hown : s.calls.queue.filter (fun r => s.classAt r == s.classOf c)
        = before.filter (fun r => s.classAt r == s.classOf c) ++ r :: after.filter (fun r => s.classAt r == s.classOf c) := by
      rw [hq, List.filter_append, List.filter_cons_of_pos (by rw [hclass]; exact beq_self_eq_true _)]
    rw [hown]
    simp only [List.append_assoc, List.cons_append]
  · rcases List.mem_append.mp hmem with hlower | hsame
    · obtain ⟨k, hk, hin⟩ := List.mem_flatMap.mp hlower
      obtain ⟨hqueue, hcls⟩ := List.mem_filter.mp hin
      exact .inl ⟨hqueue, by rw [eq_of_beq hcls]; exact hless k hk⟩
    · obtain ⟨hbefore, hcls⟩ := List.mem_filter.mp hsame
      exact .inr ⟨hbefore, eq_of_beq hcls⟩

/-! ### The longest idle (R133) -/

theorem longestIdle_cons (s : State) (p : Fin 16) (l : List (Fin 16)) : s.longestIdle (p :: l) = some p
    ∨ ∃ q, s.longestIdle l = some q ∧ s.longestIdle (p :: l) = some q := by
  rw [State.longestIdle]
  cases s.longestIdle l with
  | none => exact .inl rfl
  | some q =>
    by_cases h : s.idleTime q ≤ s.idleTime p
    · exact .inl (if_pos h)
    · exact .inr ⟨q, rfl, if_neg h⟩

theorem longestIdle_mem {s : State} {q : Fin 16} {l : List (Fin 16)} (h : s.longestIdle l = some q) : q ∈ l := by
  induction l with
  | nil => exact absurd h (by simp [State.longestIdle])
  | cons p l ih =>
    rcases longestIdle_cons s p l with hp | ⟨q', hq', hl⟩
    · rw [Option.some.inj (h.symm.trans hp)]
      exact List.mem_cons_self
    · rw [Option.some.inj (h.symm.trans hl)]
      exact List.mem_cons_of_mem p (Option.some.inj (h.symm.trans hl) ▸ ih ((hq'.trans hl.symm).trans h))

theorem longestIdle_eq_none {s : State} {l : List (Fin 16)} (h : s.longestIdle l = none) : l = [] := by
  cases l with
  | nil => rfl
  | cons p l =>
    rcases longestIdle_cons s p l with hp | ⟨_, _, hl⟩
    · exact absurd (h.symm.trans hp) (by simp)
    · exact absurd (h.symm.trans hl) (by simp)

/-- Of positions in rising order the one that no other beats is the longest idle. -/
theorem longestIdle_eq {s : State} {p : Fin 16} {l : List (Fin 16)} (hsorted : l.Pairwise (· < ·)) (hp : p ∈ l)
    (hbest : ∀ q ∈ l, s.idleTime q < s.idleTime p ∨ s.idleTime q = s.idleTime p ∧ p ≤ q) : s.longestIdle l = some p := by
  induction l with
  | nil => exact absurd hp List.not_mem_nil
  | cons a l ih =>
    obtain ⟨hless, htail⟩ := List.pairwise_cons.mp hsorted
    rw [State.longestIdle]
    by_cases ha : a = p
    · have hmem (q : Fin 16) (hq : s.longestIdle l = some q) : q ∈ l := longestIdle_mem hq
      cases hrest : s.longestIdle l with
      | none => rw [ha]
      | some q =>
        have hle : s.idleTime q ≤ s.idleTime a := by
          rw [ha]
          rcases hbest q (List.mem_cons_of_mem a (hmem q hrest)) with h | ⟨h, _⟩
          · exact h.le
          · exact h.le
        rw [← ha]
        exact if_pos hle
    · have hpl : p ∈ l := (List.mem_cons.mp hp).resolve_left fun e => ha e.symm
      rw [ih htail hpl fun q hq => hbest q (List.mem_cons_of_mem a hq)]
      have hnot : ¬ s.idleTime p ≤ s.idleTime a := by
        rcases hbest a List.mem_cons_self with h | ⟨_, h⟩
        · exact not_le.mpr h
        · exact absurd (hless p hpl) (not_lt.mpr h)
      exact if_neg hnot

end Sys2Proof.Machine
end

section
/-! SUPPORT. The dispatch run (R133), and the obligation about it. -/

namespace Sys2Proof.Machine

/-! ### Eligible positions and offerable calls (R130, R131) -/

theorem eligible_iff {s : State} {p : Fin 16} :
    (s.position p).eligible = true ↔ (s.position p).state = .free ∧ (s.position p).held = [] := by
  simp [Position.eligible]

theorem offerable_iff {s : State} {c : Call} : s.offerable c = true ↔ c.state = .queued ∧ (s.post c.post).state = .present
    ∧ (s.segment (postSegment c.post)).state = .active
    ∧ ∃ ch, (s.channel (channelIndex (postSegment c.post) ch)).state = .free := by
  simp only [State.offerable, State.freeChannel, Bool.and_eq_true, beq_iff_eq, List.find?_isSome, List.mem_finRange,
    true_and, and_assoc]

theorem mem_eligiblePositions {s : State} {p : Fin 16} : p ∈ s.eligiblePositions ↔ (s.position p).eligible = true := by
  simp [State.eligiblePositions]

theorem eligiblePositions_sorted (s : State) : s.eligiblePositions.Pairwise (· < ·) :=
  (List.pairwise_lt_finRange 16).filter _

/-! ### What pairing keeps -/

/-- Pairing makes positions and calls fewer: none becomes eligible or offerable that was not. -/
structure State.Pairs (s t : State) : Prop where
  eligible : ∀ p, (t.position p).eligible = true → (s.position p).eligible = true
  calls : ∀ r c, t.call r = some c → c.state = .queued → s.call r = some c
  posts : t.posts = s.posts
  segments : t.segments = s.segments
  channels : ∀ k, (t.channel k).state = .free → (s.channel k).state = .free
  queue : ∀ r, r ∈ t.calls.queue → r ∈ s.calls.queue

theorem State.Pairs.refl (s : State) : s.Pairs s :=
  ⟨fun _ h => h, fun _ _ h _ => h, rfl, rfl, fun _ h => h, fun _ h => h⟩

theorem State.Pairs.trans {s t u : State} (h : s.Pairs t) (k : t.Pairs u) : s.Pairs u where
  eligible p hp := h.eligible p (k.eligible p hp)
  calls r c hr hc := h.calls r c (k.calls r c hr hc) hc
  posts := k.posts.trans h.posts
  segments := k.segments.trans h.segments
  channels c hc := h.channels c (k.channels c hc)
  queue r hr := h.queue r (k.queue r hr)

theorem State.Pairs.offerable {s t : State} (h : s.Pairs t) {c : Call} (hc : t.offerable c = true) : s.offerable c = true := by
  obtain ⟨hst, hpost, hseg, ch, hch⟩ := offerable_iff.mp hc
  refine offerable_iff.mpr ⟨hst, ?_, ?_, ch, h.channels _ hch⟩
  · rw [State.post, ← h.posts]; exact hpost
  · rw [State.segment, ← h.segments]; exact hseg

/-- No pair is left to be made of a call: every eligible position has been declined. -/
def State.Passed (t : State) (r : Fin 64) : Prop :=
  ∀ c p, t.call r = some c → t.offerable c = true → (t.position p).eligible = true → p ∈ c.declinedBy

theorem State.Pairs.passed {s t : State} {r : Fin 64} (h : s.Pairs t) (hr : s.Passed r) : t.Passed r :=
  fun c p hc ho hp => hr c p (h.calls r c hc (offerable_iff.mp ho).1) (h.offerable ho) (h.eligible p hp)

theorem offerMade_pairs {s : State} {r : Fin 64} {c : Call} {p : Fin 16} {ch : Fin 4} (hc : c.corrupt = false)
    (hp : (s.position p).corrupt = false) : s.Pairs (s.offerMade r c p ch) ∧ (s.offerMade r c p ch).Passed r := by
  obtain ⟨u, hu⟩ : ∃ u, u = s.offerMade r c p ch := ⟨_, rfl⟩
  obtain ⟨_, _, _, _, hf⟩ := offerMade_frame (r := r) (ch := ch) hc hp
  rw [← hu] at hf ⊢
  have hcall (q : Fin 64) : u.call q = if q = r then some (c.offeredTo p ch) else s.call q := by
    rw [hf]; exact put_get _ _ _ _
  have hposition (q : Fin 16) : u.position q = if q = p then s.positionOffered p c.number else s.position q := by
    rw [hf]; exact put_get _ _ _ _
  have hchannel (k : Fin 32) : u.channel k = if k = channelIndex (postSegment c.post) ch then c.reservation
      else s.channel k := by
    rw [hf]; exact put_get _ _ _ _
  have hunqueued (d : Call) (hd : u.call r = some d) : d.state ≠ .queued := by
    rw [hcall, if_pos rfl] at hd
    rw [← Option.some.inj hd]
    exact fun e => CallState.noConfusion e
  refine ⟨⟨fun q hq => ?_, fun q d hd hst => ?_, by rw [hf], by rw [hf], fun k hk => ?_, fun q hq => ?_⟩,
    fun d q hd ho _ => absurd (offerable_iff.mp ho).1 (hunqueued d hd)⟩
  · rw [hposition] at hq
    by_cases hqp : q = p
    · rw [if_pos hqp] at hq
      exact absurd hq (by simp [Position.eligible, State.positionOffered])
    · rwa [if_neg hqp] at hq
  · by_cases hqr : q = r
    · rw [hqr] at hd
      exact absurd hst (hunqueued d hd)
    · rwa [hcall, if_neg hqr] at hd
  · rw [hchannel] at hk
    by_cases hki : k = channelIndex (postSegment c.post) ch
    · rw [if_pos hki] at hk
      exact ChannelState.noConfusion hk
    · rwa [if_neg hki] at hk
  · rw [hf] at hq
    exact List.mem_of_mem_erase hq

/-! ### One call paired, or passed over -/

theorem candidate_eq_none {s : State} {c : Call} (h : s.candidate c = none) {p : Fin 16} (ho : s.offerable c = true)
    (hp : (s.position p).eligible = true) : p ∈ c.declinedBy := by
  rw [State.candidate, if_pos ho] at h
  by_contra hno
  have hmem : p ∈ s.eligiblePositions.filter (fun p => !c.declinedBy.contains p) :=
    List.mem_filter.mpr ⟨mem_eligiblePositions.mpr hp, by simpa using hno⟩
  rw [longestIdle_eq_none h] at hmem
  exact List.not_mem_nil hmem

/-- A pairing that no check code cuts short leaves no pair of its call unmade. -/
theorem pairCall_inv {s t : State} {r : Fin 64} (h : pairCall r s = .ok () t) : s.Pairs t ∧ t.Passed r := by
  rw [pairCall] at h
  have h := (Op.bind_ok (Op.get_apply s)).symm.trans h
  by_cases hempty : s.eligiblePositions.isEmpty = true
  · have hst := (congrFun (if_pos hempty) s).symm.trans h
    have hts : s = t := (EStateM.Result.ok.inj hst).2
    rw [← hts]
    refine ⟨.refl s, fun c p _ _ hp => ?_⟩
    have hmem := mem_eligiblePositions.mpr hp
    rw [List.isEmpty_iff.mp hempty] at hmem
    exact absurd hmem List.not_mem_nil
  · have h := (congrFun (if_neg hempty) s).symm.trans h
    cases hr : s.call r with
    | none =>
      have h := (Op.bind_ok (readCall_free s r hr)).symm.trans h
      have hts : s = t := (EStateM.Result.ok.inj h).2
      rw [← hts]
      exact ⟨.refl s, fun c p hc => absurd (hr.symm.trans hc) (by simp)⟩
    | some c =>
      by_cases hc : c.corrupt = false
      · rw [withCall_ok s r c _ hr hc] at h
        by_cases hpost : (s.post c.post).corrupt = false
        · have h := (Op.bind_ok (readPost_ok s c.post hpost)).symm.trans h
          cases hcand : s.candidate c with
          | none =>
            rw [hcand] at h
            have hts : s = t := (EStateM.Result.ok.inj h).2
            rw [← hts]
            refine ⟨.refl s, fun d p hd ho hp => ?_⟩
            have hdc : d = c := Option.some.inj (hd.symm.trans hr)
            subst hdc
            exact candidate_eq_none hcand ho hp
          | some p =>
            rw [hcand] at h
            obtain ⟨ch, hmade, hp⟩ := offer_inv hr hc h
            rw [hmade]
            exact offerMade_pairs hc hp
        · simp [readPost, Bool.not_eq_false _ ▸ hpost] at h
      · simp [withCall, readCall, hr, Bool.not_eq_false _ ▸ hc] at h

theorem pairCalls_inv {rs : List (Fin 64)} : ∀ {s t : State}, (rs.forM pairCall : Op PUnit) s = .ok ⟨⟩ t →
    s.Pairs t ∧ ∀ r ∈ rs, t.Passed r := by
  induction rs with
  | nil =>
    intro s t h
    rw [← (EStateM.Result.ok.inj h).2]
    exact ⟨.refl s, fun r hr => absurd hr List.not_mem_nil⟩
  | cons r rs ih =>
    intro s t h
    simp only [List.forM_eq_forM, List.forM_cons, Op.bind_apply] at h ih
    cases hone : pairCall r s with
    | error f u => rw [hone] at h; cases h
    | ok a u =>
      rw [hone] at h
      obtain ⟨hsu, hpassed⟩ := pairCall_inv hone
      obtain ⟨hut, hrest⟩ := ih h
      refine ⟨hsu.trans hut, fun q hq => ?_⟩
      rcases List.mem_cons.mp hq with rfl | hq
      · exact hut.passed hpassed
      · exact hrest q hq

/-! ### The ranking reads alone -/

theorem readRank_leaves (r : Fin 64) : (readRank r).Keeps (fun s t => t = s) := by
  have reads {α : Type} {x : Op α} (h : ∀ s, x.leaves s = s) : x.Keeps (fun s t => t = s) := h
  have trans (a b c : State) (h : b = a) (k : c = b) : c = a := k.trans h
  rw [readRank, withCall]
  refine Op.keeps_bind trans _ _ (reads (readCall_leaves r)) fun o => ?_
  cases o with
  | none => exact reads fun _ => rfl
  | some c =>
    refine Op.keeps_bind trans _ _ (Op.keeps_get fun _ => rfl) fun s => ?_
    split
    · exact Op.keeps_bind trans _ _ (reads (readIncident_leaves _)) fun _ => reads fun _ => rfl
    · exact reads fun _ => rfl

theorem readRanks_leaves {rs : List (Fin 64)} {s t : State} (h : (rs.forM readRank : Op PUnit) s = .ok ⟨⟩ t) : t = s := by
  have hkeep := Op.keeps_forM (R := fun s t => t = s) (fun _ => rfl) (fun _ _ _ h k => k.trans h) readRank readRank_leaves rs s
  rw [Op.leaves, h] at hkeep
  exact hkeep

theorem readRank_runs {s : State} (h : s.Sound) (r : Fin 64) : readRank r s = .ok () s := by
  cases hr : s.call r with
  | none =>
    rw [readRank, withCall]
    exact (Op.bind_ok (readCall_free s r hr)).trans rfl
  | some c =>
    rw [readRank, withCall_ok s r c _ hr (h.call_checked hr)]
    refine (Op.bind_ok (Op.get_apply s)).trans ?_
    cases hk : c.incident.bind s.incidentNumbered with
    | none => rfl
    | some k =>
      cases hx : s.incident k with
      | none => exact (Op.bind_ok (readIncident_free s k hx)).trans rfl
      | some x => exact (Op.bind_ok (readIncident_ok s k x hx (h.incident_checked hx))).trans rfl

theorem readRanks_runs {s : State} (h : s.Sound) (rs : List (Fin 64)) :
    (rs.forM readRank : Op PUnit) s = .ok ⟨⟩ s := by
  induction rs with
  | nil => rfl
  | cons r rs ih =>
    simp only [List.forM_eq_forM, List.forM_cons] at ih ⊢
    exact (Op.bind_ok (readRank_runs h r)).trans ih

/-! ### Calls passed over -/

/-- A call of the queue is passed over where it is not offerable, or every eligible position has been declined. -/
theorem pairCall_passes {s : State} (h : s.Sound) {r : Fin 64} (hr : s.Passed r) : pairCall r s = .ok () s := by
  rw [pairCall]
  refine (Op.bind_ok (Op.get_apply s)).trans ?_
  by_cases hempty : s.eligiblePositions.isEmpty = true
  · exact (congrFun (if_pos hempty) s).trans rfl
  · refine (congrFun (if_neg hempty) s).trans ?_
    cases hcall : s.call r with
    | none => exact (Op.bind_ok (readCall_free s r hcall)).trans rfl
    | some c =>
      rw [withCall_ok s r c _ hcall (h.call_checked hcall)]
      refine (Op.bind_ok (readPost_ok s c.post (h.posts _))).trans ?_
      have hcand : s.candidate c = none := by
        rw [State.candidate]
        by_cases ho : s.offerable c = true
        · rw [if_pos ho]
          have hnil : s.eligiblePositions.filter (fun p => !c.declinedBy.contains p) = [] :=
            List.filter_eq_nil_iff.mpr fun p hp => by
              have := hr c p hcall ho (mem_eligiblePositions.mp hp)
              simpa using this
          rw [hnil]
          rfl
        · rw [if_neg ho]
      rw [hcand]
      rfl

theorem pairCalls_pass {s : State} (h : s.Sound) {rs : List (Fin 64)} (hrs : ∀ r ∈ rs, s.Passed r) :
    (rs.forM pairCall : Op PUnit) s = .ok ⟨⟩ s := by
  induction rs with
  | nil => rfl
  | cons r rs ih =>
    have hrest := ih fun q hq => hrs q (List.mem_cons_of_mem r hq)
    simp only [List.forM_eq_forM, List.forM_cons] at hrest ⊢
    exact (Op.bind_ok (pairCall_passes h (hrs r List.mem_cons_self))).trans hrest

/-- With no position eligible every call is passed over. -/
theorem pairCalls_idle {s : State} (h : s.eligiblePositions = []) (rs : List (Fin 64)) :
    (rs.forM pairCall : Op PUnit) s = .ok ⟨⟩ s := by
  induction rs with
  | nil => rfl
  | cons r rs ih =>
    have hone : pairCall r s = .ok () s := by
      rw [pairCall]
      exact (Op.bind_ok (Op.get_apply s)).trans ((congrFun (if_pos (by rw [h]; rfl)) s).trans rfl)
    simp only [List.forM_eq_forM, List.forM_cons] at ih ⊢
    exact (Op.bind_ok hone).trans ih

/-! ### The call that is offered -/

/-- A call that can be offered to a position, and the channel that it takes. -/
structure State.CanOffer (s : State) (r : Fin 64) (c : Call) (p : Fin 16) (ch : Fin 4) : Prop where
  call : s.call r = some c
  offerable : s.offerable c = true
  eligible : (s.position p).eligible = true
  undeclined : p ∉ c.declinedBy
  unheld : s.channelHeldBy c.number = none
  channel : s.freeChannel (postSegment c.post) = some ch
  best : ∀ q, (s.position q).eligible = true → q ∉ c.declinedBy →
    s.idleTime q < s.idleTime p ∨ s.idleTime q = s.idleTime p ∧ p ≤ q

theorem pairCall_offers {s : State} (h : s.Sound) {r : Fin 64} {c : Call} {p : Fin 16} {ch : Fin 4} (hr : s.CanOffer r c p ch) :
    pairCall r s = .ok () (s.offerMade r c p ch) := by
  have hc := h.call_checked hr.call
  have hnonempty : ¬ s.eligiblePositions.isEmpty = true := fun e => by
    have hmem := mem_eligiblePositions.mpr hr.eligible
    rw [List.isEmpty_iff.mp e] at hmem
    exact List.not_mem_nil hmem
  have hcand : s.candidate c = some p := by
    rw [State.candidate, if_pos hr.offerable]
    refine longestIdle_eq ((eligiblePositions_sorted s).filter _)
      (List.mem_filter.mpr ⟨mem_eligiblePositions.mpr hr.eligible, by simpa using hr.undeclined⟩) fun q hq => ?_
    obtain ⟨hel, hdecl⟩ := List.mem_filter.mp hq
    exact hr.best q (mem_eligiblePositions.mp hel) (by simpa using hdecl)
  rw [pairCall]
  refine (Op.bind_ok (Op.get_apply s)).trans ((congrFun (if_neg hnonempty) s).trans ?_)
  rw [withCall_ok s r c _ hr.call hc]
  refine (Op.bind_ok (readPost_ok s c.post (h.posts _))).trans ?_
  rw [hcand]
  exact offer_runs hr.call hc (h.positions p) hr.unheld hr.channel (h.channels _)

/-- A dispatch run whose ranking passes over the calls before one, offers that one and makes no other pair. -/
theorem dispatchRun_offers {s : State} (h : s.Sound) {r : Fin 64} {c : Call} {p : Fin 16} {ch : Fin 4}
    (hr : s.CanOffer r c p ch) {pre post : List (Fin 64)} (hranked : s.ranked = pre ++ r :: post)
    (hpre : ∀ q ∈ pre, s.Passed q)
    (hpost : (post.forM pairCall : Op PUnit) (s.offerMade r c p ch) = .ok ⟨⟩ (s.offerMade r c p ch)) :
    dispatchRun s = .ok () (s.offerMade r c p ch) := by
  have hnonempty : ¬ s.eligiblePositions.isEmpty = true := fun e => by
    have hmem := mem_eligiblePositions.mpr hr.eligible
    rw [List.isEmpty_iff.mp e] at hmem
    exact List.not_mem_nil hmem
  have hfirst := pairCalls_pass h hpre
  rw [dispatchRun]
  refine (Op.bind_ok (Op.get_apply s)).trans ((congrFun (if_neg hnonempty) s).trans
    ((Op.bind_ok (readRanks_runs h _)).trans ?_))
  rw [hranked]
  simp only [List.forM_eq_forM, List.forM_append, List.forM_cons] at hfirst hpost ⊢
  exact (Op.bind_ok hfirst).trans ((Op.bind_ok (pairCall_offers h hr)).trans hpost)

end Sys2Proof.Machine
end

section
/-! SUPPORT. The obligation about the dispatch run (R133, R134). -/

namespace Sys2Proof.Machine

theorem ticks_offer (s : State) : s.offerTicks = s.parameter 48 * 100 := rfl

/-- What an offer leaves, as the statement lists it. -/
theorem offerMade_leaves {s : State} (h : s.Sound) {r : Fin 64} {c : Call} (p : Fin 16) (ch : Fin 4) (hr : s.call r = some c) :
    (s.offerMade r c p ch).call r = some (c.offeredTo p ch) ∧ (s.offerMade r c p ch).calls.queue = s.calls.queue.erase r
      ∧ (s.offerMade r c p ch).calls.overflow = s.overflowAt (s.calls.queue.erase r).length
      ∧ (s.offerMade r c p ch).channel (channelIndex (postSegment c.post) ch) = c.reservation
      ∧ (s.offerMade r c p ch).position p = s.positionOffered p c.number
      ∧ (s.offerMade r c p ch).Reported (.call r) ∧ (s.offerMade r c p ch).Reported (.position p)
      ∧ (s.offerMade r c p ch).posts = s.posts ∧ (s.offerMade r c p ch).lines = s.lines
      ∧ (s.offerMade r c p ch).cluster = s.cluster
      ∧ (s.offerMade r c p ch).speech.connections = s.speech.connections
      ∧ s.TouchesOnly (s.offerMade r c p ch) r p c.post (channelIndex (postSegment c.post) ch) := by
  have hc := h.call_checked hr
  obtain ⟨u, hu⟩ : ∃ u, u = s.offerMade r c p ch := ⟨_, rfl⟩
  obtain ⟨_, _, _, _, hf⟩ := offerMade_frame (r := r) (ch := ch) hc (h.positions p)
  obtain ⟨htouch, hcall, hposition⟩ := offerMade_touches (s := s) (r := r) (p := p) (ch := ch) hc
  rw [← hu] at hf htouch hcall hposition ⊢
  refine ⟨?_, by rw [hf], by rw [hf], ?_, ?_, hcall, hposition, by rw [hf], by rw [hf], by rw [hf], by rw [hf], htouch⟩
  · rw [hf]; exact put_get_self _ _ _
  · rw [hf]; exact put_get_self _ _ _
  · rw [hf]; exact put_get_self _ _ _

theorem freeChannel_eq_some {s : State} {g : Fin 8} {ch : Fin 4} (h : (s.channel (channelIndex g ch)).state = .free)
    (hlow : ∀ k, k < ch → (s.channel (channelIndex g k)).state ≠ .free) : s.freeChannel g = some ch := by
  obtain ⟨x, hx⟩ : ∃ x, s.freeChannel g = some x :=
    Option.isSome_iff_exists.mp (List.find?_isSome.mpr ⟨ch, List.mem_finRange ch, by rw [h]; rfl⟩)
  obtain ⟨hfree, as, bs, hsplit, has⟩ := List.find?_eq_some_iff_append.mp hx
  have hsorted := List.pairwise_lt_finRange 4
  have hmem := List.mem_finRange ch
  rw [hsplit] at hsorted hmem
  have hle : ch ≤ x := not_lt.mp fun hlt => hlow x hlt (eq_of_beq hfree)
  have hnot : ch ∉ as := fun hin => by simpa [h] using has ch hin
  rcases List.mem_cons.mp ((List.mem_append.mp hmem).resolve_left hnot) with heq | hlater
  · rw [hx, heq]
  · have hlt := (List.pairwise_cons.mp (List.pairwise_append.mp hsorted).2.1).1 ch hlater
    exact absurd hlt (not_lt.mpr hle)

/-- A call that waits alone is the ranking. -/
theorem ranked_alone {s : State} {r : Fin 64} {c : Call} (hr : s.call r = some c) (hq : s.calls.queue = [r]) :
    s.ranked = [r] := by
  obtain ⟨hlow, hhigh⟩ := classOf_range s c
  have hclass : s.classAt r = s.classOf c := by simp only [State.classAt, hr]
  obtain hk | hk | hk | hk : s.classOf c = 1 ∨ s.classOf c = 2 ∨ s.classOf c = 3 ∨ s.classOf c = 4 := by omega
  all_goals simp [State.ranked, hq, hclass, hk]

/-- With one position eligible, once it is offered a call none is. -/
theorem offerMade_idle {s : State} (h : s.Sound) {r : Fin 64} {c : Call} {p : Fin 16} (ch : Fin 4) (hr : s.call r = some c)
    (honly : ∀ q, (s.position q).eligible = true → q = p) : (s.offerMade r c p ch).eligiblePositions = [] := by
  obtain ⟨hpairs, _⟩ := offerMade_pairs (r := r) (ch := ch) (h.call_checked hr) (h.positions p)
  obtain ⟨_, _, _, _, hposition, _⟩ := offerMade_leaves h p ch hr
  refine List.eq_nil_iff_forall_not_mem.mpr fun q hq => ?_
  have hel := mem_eligiblePositions.mp hq
  rw [honly q (hpairs.eligible q hel), hposition] at hel
  exact absurd hel (by simp [Position.eligible, State.positionOffered])

/-- Settles O7: the pairs that a run leaves unmade, and the offer of the call that rank and idle time choose. -/
theorem dispatchRunLeavesNoPairUnmade : Obligations.DispatchRunLeavesNoPairUnmade := by
  unfold Obligations.DispatchRunLeavesNoPairUnmade
  intro s
  extract_lets eligible offerable idle offers
  have heligible (t : State) (p : Fin 16) : eligible t p ↔ (t.position p).eligible = true := eligible_iff.symm
  have hofferable (t : State) (c : Call) : offerable t c ↔ t.offerable c = true := offerable_iff.symm
  refine ⟨fun t ht r hr c p hc ho hp => ?_, fun h r c p ch hr ho hp hdecl hheld hfree hlow => ?_⟩
  · rw [dispatchRun] at ht
    have ht := (Op.bind_ok (Op.get_apply s)).symm.trans ht
    by_cases hempty : s.eligiblePositions.isEmpty = true
    · have hst : s = t := (EStateM.Result.ok.inj ((congrFun (if_pos hempty) s).symm.trans ht)).2
      have hmem := mem_eligiblePositions.mpr ((heligible t p).mp hp)
      rw [← hst, List.isEmpty_iff.mp hempty] at hmem
      exact absurd hmem List.not_mem_nil
    · have ht := (congrFun (if_neg hempty) s).symm.trans ht
      rw [Op.bind_apply] at ht
      cases hread : (s.calls.queue.forM readRank : Op PUnit) s with
      | error f u => rw [hread] at ht; cases ht
      | ok a u =>
        rw [hread] at ht
        have hsu := readRanks_leaves hread
        subst hsu
        obtain ⟨hpairs, hpassed⟩ := pairCalls_inv ht
        have hrs := hpairs.calls r c hc ((hofferable t c).mp ho |> offerable_iff.mp).1
        exact hpassed r (mem_ranked (hpairs.queue r hr) hrs) c p hc ((hofferable t c).mp ho) ((heligible t p).mp hp)
  · have hclass : s.classAt r = s.classOf c := by simp only [State.classAt, hr]
    have hf := freeChannel_eq_some hfree hlow
    have hleaves := offerMade_leaves h p ch hr
    have hoffers (hbest : ∀ q, (s.position q).eligible = true → q ∉ c.declinedBy →
          s.idleTime q < s.idleTime p ∨ s.idleTime q = s.idleTime p ∧ p ≤ q) {pre post : List (Fin 64)}
        (hranked : s.ranked = pre ++ r :: post) (hpre : ∀ q ∈ pre, s.Passed q)
        (hpost : (post.forM pairCall : Op PUnit) (s.offerMade r c p ch) = .ok ⟨⟩ (s.offerMade r c p ch)) :
        offers r c p ch :=
      ⟨_, dispatchRun_offers h ⟨hr, (hofferable s c).mp ho, (heligible s p).mp hp, hdecl, hheld, hf, hbest⟩ hranked hpre
        hpost, hleaves⟩
    refine ⟨fun before after hqueue honly hbefore hafter => ?_, fun hqueue hbest => ?_⟩
    · obtain ⟨pre, post, hranked, hpre⟩ := ranked_split hr hqueue
      have honly' (q : Fin 16) (hq : (s.position q).eligible = true) : q = p := honly q ((heligible s q).mpr hq)
      refine hoffers (fun q hq _ => .inr (by rw [honly' q hq]; exact ⟨rfl, le_rfl⟩)) hranked (fun q hq => ?_)
        (pairCalls_idle (offerMade_idle h ch hr honly') post)
      intro d p' hd hod hp'
      rw [honly' p' hp']
      by_contra hno
      have hqd : s.classAt q = s.classOf d := by simp only [State.classAt, hd]
      have hlater (hq : q ∈ before) : s.classOf c < s.classOf d := hbefore q hq d hd ((hofferable s d).mpr hod) hno
      rcases hpre q hq with ⟨hin, hless⟩ | ⟨hin, heq⟩
      · rw [hqueue] at hin
        rcases List.mem_append.mp hin with hin | hin
        · have := hlater hin
          omega
        · rcases List.mem_cons.mp hin with rfl | hin
          · omega
          · have := hafter q hin d hd ((hofferable s d).mpr hod) hno
            omega
      · have := hlater hin
        omega
    · exact hoffers (fun q hq hqd => hbest q ((heligible s q).mpr hq) hqd) (pre := []) (post := [])
        (ranked_alone hr hqueue) (fun q hq => absurd hq List.not_mem_nil) rfl

end Sys2Proof.Machine
end
